-- ==== Sys2Proof/Word.lean ====
section
/-! DEFINITION. The words of the GK1: scalars of 64 bits, vectors of 1024 bits, bytes, 32-bit slots (R4, R29, R43). -/

namespace Sys2Proof

/-- A scalar of 64 bits (R29). -/
abbrev Word := BitVec 64

/-- A vector of 1024 bits (R29). -/
abbrev Vec := BitVec 1024

/-- A byte, the smallest addressable unit (R4). -/
abbrev Byte := BitVec 8

/-- A 32-bit slot of a bundle word (R43). -/
abbrev Slot := BitVec 32

/-- A 128-bit word of instruction memory (R43). -/
abbrev BWord := BitVec 128

/-- A register number 0–15 (R29). -/
abbrev RegNo := Fin 16

/-- A predicate, mask or target-buffer number 0–7 (R29). -/
abbrev Small := Fin 8

end Sys2Proof
end

