-- ==== Sys2Proof/Config.lean ====
section
/-! DEFINITION. What an implementation of the GK1 fixes and the manual leaves open: constants without a body, so that nothing can be proved
of their values. Each is named in the assumption log. -/

namespace Sys2Proof.Config

/-- The set of a line in a cache of some sets, and the way that a full set gives up (R219 states neither). DESIGN CHOICE, log entry 6. -/
opaque cacheIndex : Nat → Nat → Nat
opaque victim : Nat → Nat

/-- The hash that chooses one of a peer's allowed ports for a flow (R276): of the tile index or destination core, and of the peer.
DESIGN CHOICE, log entry 7. -/
opaque portHash : Nat → Nat → Nat

/-- SHA-512 of a byte string (R384 names the function, its arithmetic is outside the manual). DESIGN CHOICE, log entry 8. -/
opaque sha512 : List Byte → BitVec 512

/-- Whether an ECDSA P-521 signature verifies under the firmware public key: the digest of header bits [639:0], and the header that holds
SIGR and SIGS (R384). DESIGN CHOICE, log entry 8. -/
opaque verifies : BitVec 512 → BitVec 4096 → Bool

/-- What the management controller answers to a message whose content the manual leaves open (R390, R391). DESIGN CHOICE, log entry 9. -/
opaque answer : Nat → Nat → List Byte → List Byte

/-- What a supervisor asks of the monitor with SYSC (R383): a context for a core, a save or a restore of an instance, the minimum security
version, a record of the log with the offset of the core scratchpad that takes it, the package registers, the repair of a control queue with
the packet that it takes next, or something else. DESIGN CHOICE, log entry 154. -/
inductive SysReq where
  | context (core : Nat) (asid : BitVec 16) (ttlo tthi : BitVec 12) (root : BitVec 44)
  | save (core : Nat)
  | restore
  | raiseSvn (svn : BitVec 32)
  | readLog (index off : Nat)
  | partmap (v : Word)
  | depthtab (v : Word)
  | keyctl (v : Word)
  | repairControl (part rd : Nat)
  | other
  deriving DecidableEq, Repr, Inhabited

/-- The request that a SYSC's operand makes (R364: the manual gives the operand no coding). DESIGN CHOICE, log entry 154. -/
opaque request : Word → SysReq

/-- Whether the monitor grants a request that the manual does not name (R383, R409). DESIGN CHOICE, log entry 9. -/
opaque grants : Nat → Bool

/-- The fused secret, the device identity key that the monitor derives from it, the certificate that the Quineel root signs for the key, and a
signature under the key (R389). DESIGN CHOICE, log entry 9. -/
opaque fusedSecret : List Byte
opaque deriveIdentity : List Byte → BitVec 521
opaque certificate : BitVec 521 → List Byte
opaque sign : BitVec 521 → List Byte → List Byte

/-- Algorithms of an SPDM negotiation. -/
inductive Algorithm where
  | ecdsaP521 | sha512
  deriving DecidableEq, Repr

/-- Whether a negotiation message offers an algorithm, and the answer that names those that are chosen (the coding of SPDM is outside the
manual). DESIGN CHOICE, log entry 9. -/
opaque offers : List Byte → Algorithm → Bool
opaque algorithms : List Byte → List Algorithm → List Byte

/-- The boot ROM's version and the device identity record (R390). DESIGN CHOICE, log entry 9. -/
opaque romVersion : List Byte
opaque identity : List Byte

/-- Where the monitor puts a partition's control queue, and the fields of its record that R415 leaves open: by partition and field.
DESIGN CHOICE, log entry 130. -/
opaque controlField : Nat → Nat → Nat

/-- The instruction word of a die's firmware core that an image's body holds (R382, R387: the body's layout is not stated). DESIGN CHOICE, log entry 8. -/
opaque bodyWord : Bool → List Byte → Nat → BWord

/-- Whether a `.qua` or `.spc` atomic returns an older value of its location, of those that R232 admits. DESIGN CHOICE, log entry 10. -/
opaque stale : Nat → Bool

/-- Whether the odd tile of an FP64 pair holds the high halves of its elements (R156 names the pair, not its halves). DESIGN CHOICE, log entry 11. -/
opaque oddHigh : Bool

/-- A value that the manual leaves open and does not bound: fresh for each number. DESIGN CHOICE, log entry 4. -/
opaque freeWord : Nat → Word

end Sys2Proof.Config
end

