-- ==== Sys2Proof/Syntax.lean ====
section
/-! DEFINITION. The syntax: operand forms (R31, R49 to R51) and `Instr`, one constructor for each row of the opcode
table. Rows with an assembly name are operations of a bundle; the other rows are the indivisible events of the machine. -/

namespace Sys2Proof

/-- A source operand: a named register, or an age of the result queue of its class (R31). -/
inductive Src where
  | reg (n : RegNo)
  | age (n : RegNo)
  deriving DecidableEq, Repr

/-- A destination: a named register (which also enters the queue), or the queue only (R31). -/
inductive Dst where
  | reg (n : RegNo)
  | queue
  deriving DecidableEq, Repr

/-- A landing delay: the latency field and the two extension bits (R36, R46). -/
structure Delay where
  lat : BitVec 6
  e   : BitVec 2
  deriving DecidableEq, Repr

/-- The lane and conversion types (R51). -/
inductive Ty where
  | i8 | i16 | i32 | i64 | n8 | n16 | n32 | n64 | f64 | f32 | bf16 | f16 | e4m3 | e5m2
  deriving DecidableEq, Repr

/-- The lane types of format VF (R50). -/
inductive FTy where
  | f64 | f32 | bf16 | f16
  deriving DecidableEq, Repr

/-- The rounding modes (R51, R85). -/
inductive Rm where
  | rne | rtz | rup | rdn | rna
  deriving DecidableEq, Repr

/-- The conditions of CMP (R53, R95). -/
inductive Cond where
  | eq | ne | ltI | leI | gtI | geI | ltN | leN | gtN | geN
  deriving DecidableEq, Repr

/-- The conditions of VCMP (R55, R123). -/
inductive VCond where
  | eq | ne | lt | le | gt | ge | un | ord
  deriving DecidableEq, Repr

/-- The block formats of VMAXB, VQNT and VDQNT (R55). -/
inductive Bf where
  | px2 | px4 | px7 | mx8e4 | mx8e5 | mx6e2 | mx6e3 | mx4 | mxi8
  deriving DecidableEq, Repr

/-- The types of an atomic (R54, R247). -/
inductive AtTy where
  | i64 | n64 | i32 | n32
  deriving DecidableEq, Repr

/-- The uses of an atomic (R54, R232). -/
inductive AtUse where
  | sc | unp | com | nor | qua | spc
  deriving DecidableEq, Repr

/-- The operations of an atomic (R54, R247). -/
inductive AtOp where
  | add | and | or | xor | swap | min | max
  deriving DecidableEq, Repr

/-- The scopes of a fence (R54, R233). -/
inductive Scope where
  | core | gang | ensemble | package | system
  deriving DecidableEq, Repr

/-- The transfer conditions of a plain header (R45). Predicate 0 is not a condition: `pred n` and `notPred n` stand for
`p(n+1)`. -/
inductive Xc where
  | never
  | always
  | pred (n : Fin 7)
  | notPred (n : Fin 7)
  | cv
  | notCv
  deriving DecidableEq, Repr

/-- A staged chunk of a tile-table contribution (R273); `bad` says that its check value does not match its bytes (R221, R271). -/
structure TileChunk where
  pos   : Nat
  len   : Nat
  op    : BitVec 2
  ty    : BitVec 2
  part  : Nat
  data  : List Byte
  bad   : Bool
  port  : Option (Fin 8)
  deriving DecidableEq, Repr

/-- What a transport timeout abandons: a remote SEND of a core, or a tile-table firing whose chunks for a position of its list were not
delivered (R265, R273, R276). -/
inductive NetOp where
  | send (core : Nat)
  | tile (die : Bool) (idx pos : Nat)
  deriving DecidableEq, Repr

/-- What the peers answer to the chunks of entry `idx`'s firing: every one acknowledges receipt (R270), or another package refuses a
chunk (R273). -/
inductive PeerAnswer where
  | received (idx : Nat)
  | refused (idx : Nat)
  deriving DecidableEq, Repr

/-- A store with the symbol code of R396: a core scratchpad or a shared slice, by `CORE` value; a lane-slice set; a
chip-scratchpad bank (R395, R398). -/
inductive RowStore where
  | spad (core : Nat)
  | slice (core : Nat)
  | lanes (core : Nat)
  | chip (die : Bool) (bank : Nat)
  deriving DecidableEq, Repr

/-- A firmware image: a 512-byte header and a body (R384). -/
structure FwImage where
  hdr  : BitVec 4096
  body : List Byte
  deriving DecidableEq, Repr

/-- Where a loss of power cuts a boot-flash write (R387): outside any write; in an image write, which leaves the partial image
given in the slot; or in the marker write, which leaves the partial record given. -/
inductive FlashCut where
  | idle
  | image (left : FwImage)
  | marker (left : BitVec 576)
  deriving DecidableEq, Repr

/-- The operations and events of the GK1, one constructor for each row of the opcode table; those with operands stand first.
An event acts on the core in focus, or on the package. -/
inductive Instr where
  /-- `xfer=` (R103): A plain header with XC nonzero tests its condition at the read step and, if taken, transfers to the target-buffer entry; a condition-vector test advances the cursor. -/
  | headerTransfer (l : Bool) (stall : BitVec 4) (xc : Xc) (tb : Small) (ext : BitVec 14)
  /-- `lock=` (R48): A lock header holds arbitration of the named scratchpad banks for the lock span, freezing the domain while another core holds them. -/
  | lockHeader (l : Bool) (stall : BitVec 4) (cnt : BitVec 3) (banks : BitVec 16)
  /-- `add` (R91): Register-form 64-bit add. -/
  | add (d : Dst) (a b : Src)
  /-- `sub` (R91): Register-form 64-bit subtract. -/
  | sub (d : Dst) (a b : Src)
  /-- `and` (R91): Register-form bitwise AND. -/
  | and (d : Dst) (a b : Src)
  /-- `or` (R91): Register-form bitwise OR. -/
  | or (d : Dst) (a b : Src)
  /-- `xor` (R91): Register-form bitwise XOR. -/
  | xor (d : Dst) (a b : Src)
  /-- `andn` (R91): A AND NOT B. -/
  | andn (d : Dst) (a b : Src)
  /-- `shl` (R91): Shift left by B[5:0]. -/
  | shl (d : Dst) (a b : Src)
  /-- `shr` (R91): Logical shift right by B[5:0]. -/
  | shr (d : Dst) (a b : Src)
  /-- `sra` (R91): Arithmetic shift right by B[5:0]. -/
  | sra (d : Dst) (a b : Src)
  /-- `rol` (R91): Rotate left by B[5:0]. -/
  | rol (d : Dst) (a b : Src)
  /-- `min.i64` (R91): Signed minimum. -/
  | minI64 (d : Dst) (a b : Src)
  /-- `min.n64` (R91): Natural minimum. -/
  | minN64 (d : Dst) (a b : Src)
  /-- `max.i64` (R91): Signed maximum. -/
  | maxI64 (d : Dst) (a b : Src)
  /-- `max.n64` (R91): Natural maximum. -/
  | maxN64 (d : Dst) (a b : Src)
  /-- `clz` (R91): Count leading zero bits. -/
  | clz (d : Dst) (a : Src)
  /-- `ctz` (R91): Count trailing zero bits. -/
  | ctz (d : Dst) (a : Src)
  /-- `popc` (R91): Count one bits. -/
  | popc (d : Dst) (a : Src)
  /-- `mov` (R91): Register copy. -/
  | mov (d : Dst) (a : Src)
  /-- `sel` (R91): Select A or B by a predicate. -/
  | sel (d : Dst) (a b : Src) (p : Small)
  /-- `bext` (R92): Bitfield extract under a field word. -/
  | bext (d : Dst) (a b : Src)
  /-- `bins` (R92): Bitfield insert under a field word. -/
  | bins (d : Dst) (a b c : Src)
  /-- `sext.i8` (R91): Sign-extend from 8 bits. -/
  | sextI8 (d : Dst) (a : Src)
  /-- `sext.i16` (R91): Sign-extend from 16 bits. -/
  | sextI16 (d : Dst) (a : Src)
  /-- `sext.i32` (R91): Sign-extend from 32 bits. -/
  | sextI32 (d : Dst) (a : Src)
  /-- `lea` (R91): A + (B << s). -/
  | lea (d : Dst) (a b : Src) (s : BitVec 2)
  /-- `wrap` (R91): Subtract B once when A >= B. -/
  | wrap (d : Dst) (a b : Src)
  /-- `mul` (R94): Low 64 bits of the product. -/
  | mul (d : Dst) (a b : Src)
  /-- `mulh.i64` (R94): High 64 bits of the signed product. -/
  | mulhI64 (d : Dst) (a b : Src)
  /-- `mulh.n64` (R94): High 64 bits of the natural product. -/
  | mulhN64 (d : Dst) (a b : Src)
  /-- `div.i64` (R94): Signed quotient, DIVZ on zero divisor. -/
  | divI64 (d : Dst) (a b : Src)
  /-- `div.n64` (R94): Natural quotient, DIVZ on zero divisor. -/
  | divN64 (d : Dst) (a b : Src)
  /-- `rem.i64` (R94): Signed remainder. -/
  | remI64 (d : Dst) (a b : Src)
  /-- `rem.n64` (R94): Natural remainder. -/
  | remN64 (d : Dst) (a b : Src)
  /-- `cmp` (R95): Register compare writing one predicate. -/
  | cmp (p : Small) (cc : Cond) (a b : Src)
  /-- `cmp` (R95): Immediate compare writing one predicate. -/
  | cmpImm (p : Small) (cc : Cond) (a : Src) (imm : BitVec 15)
  /-- `pand` (R96): Predicate AND. -/
  | pand (pd pa pb : Small)
  /-- `por` (R96): Predicate OR. -/
  | por (pd pa pb : Small)
  /-- `pnot` (R96): Predicate NOT. -/
  | pnot (pd pa : Small)
  /-- `add` (R93): Add a signed immediate. -/
  | addImm (d : Dst) (a : Src) (imm : BitVec 17)
  /-- `and` (R93): AND with a sign-extended immediate. -/
  | andImm (d : Dst) (a : Src) (imm : BitVec 17)
  /-- `or` (R93): OR with an immediate. -/
  | orImm (d : Dst) (a : Src) (imm : BitVec 17)
  /-- `xor` (R93): XOR with an immediate. -/
  | xorImm (d : Dst) (a : Src) (imm : BitVec 17)
  /-- `shl` (R93): Shift left by an immediate count. -/
  | shlImm (d : Dst) (a : Src) (n : BitVec 6)
  /-- `shr` (R93): Logical shift right by an immediate count. -/
  | shrImm (d : Dst) (a : Src) (n : BitVec 6)
  /-- `sra` (R93): Arithmetic shift right by an immediate count. -/
  | sraImm (d : Dst) (a : Src) (n : BitVec 6)
  /-- `rol` (R93): Rotate left by an immediate count. -/
  | rolImm (d : Dst) (a : Src) (n : BitVec 6)
  /-- `mul` (R93): Multiply by a signed immediate. -/
  | mulImm (d : Dst) (a : Src) (imm : BitVec 17)
  /-- `li` (R97): Load a sign-extended immediate. -/
  | li (d : Dst) (imm : BitVec 22)
  /-- `lih` (R97): Shift D left 22 and OR in a natural immediate. -/
  | lih (d : RegNo) (imm : BitVec 22)
  /-- `ptb` (R102): Prepare a target-buffer entry from a PC-relative offset, plain or linking. -/
  | ptb (tb : Small) (lk : Bool) (off : BitVec 22)
  /-- `ptb` (R102): Prepare a target-buffer entry from a register word index. -/
  | ptbReg (tb : Small) (lk : Bool) (a : Src)
  /-- `(event)` (R102): A filling target-buffer entry becomes ready 4 physical cycles after its fill began. -/
  | tbReady (tb : Small)
  /-- `ctlr` (R106): Read a control register at the read step, writing D at issue + 1. -/
  | ctlr (d : Dst) (idx : BitVec 12)
  /-- `ctlw` (R106): Write a control register without behaviour of its own at issue + 1 under its Access codes. -/
  | ctlw (idx : BitVec 12) (a : Src)
  /-- `(event)` (R142): A write changing SOLO takes effect after every MGO and MEPI of the pair completes, making the writer owner. -/
  | ctlwArrmode (a : Src)
  /-- `(event)` (R105): A write of CVCUR applied after a coincident CVADV reset. -/
  | ctlwCvcur (a : Src)
  /-- `(event)` (R287): W1C clear of the event latch; a coincident arrival leaves it set, and RBEV clears are ignored while records wait. -/
  | ctlwEvt (a : Src)
  /-- `(event)` (R363): Install a context tag and tile-table range at issue + 1, checked against the partition. -/
  | ctlwAsid (a : Src)
  /-- `(event)` (R363): Install a page-table root at issue + 1. -/
  | ctlwPtroot (a : Src)
  /-- `(event)` (R354): Change partitioning, dropping all TLB entries, tile-table entries, reservations and freeing every sequence. -/
  | ctlwPartmap (a : Src)
  /-- `(event)` (R368): Write key control; once LOCK is 1 every write is ignored until reset. -/
  | ctlwKeyctl (a : Src)
  /-- `ld` (R98): Load with a program-chosen landing delay. -/
  | ld (d : Dst) (a : Src) (sz : BitVec 2) (sx : Bool) (off : BitVec 6) (dl : Delay)
  /-- `ld.acq` (R101): Load after which later copy-engine operations start only once it has its value. -/
  | ldAcq (d : Dst) (a : Src) (sz : BitVec 2) (sx : Bool) (off : BitVec 6) (dl : Delay)
  /-- `st` (R99): Store of 1 to 8 bytes. -/
  | st (b a : Src) (sz : BitVec 2) (off : BitVec 15)
  /-- `st.rel` (R101): Store held until every earlier copy-engine operation of the core has completed. -/
  | stRel (b a : Src) (sz : BitVec 2) (off : BitVec 15)
  /-- `amo.add` (R248): Atomic add, returning the old value unless .com. -/
  | amoAdd (a b : Src) (ty : AtTy) (use : AtUse) (dl : Delay)
  /-- `amo.and` (R248): Atomic AND. -/
  | amoAnd (a b : Src) (ty : AtTy) (use : AtUse) (dl : Delay)
  /-- `amo.or` (R248): Atomic OR. -/
  | amoOr (a b : Src) (ty : AtTy) (use : AtUse) (dl : Delay)
  /-- `amo.xor` (R248): Atomic XOR. -/
  | amoXor (a b : Src) (ty : AtTy) (use : AtUse) (dl : Delay)
  /-- `amo.swap` (R248): Atomic swap. -/
  | amoSwap (a b : Src) (ty : AtTy) (use : AtUse) (dl : Delay)
  /-- `amo.min` (R248): Atomic minimum. -/
  | amoMin (a b : Src) (ty : AtTy) (use : AtUse) (dl : Delay)
  /-- `amo.max` (R248): Atomic maximum. -/
  | amoMax (a b : Src) (ty : AtTy) (use : AtUse) (dl : Delay)
  /-- `cas` (R249): Compare and swap, returning the old value. -/
  | cas (a b c : Src) (w : Bool) (use : AtUse) (dl : Delay)
  /-- `fence` (R252): Wait until earlier relaxed atomics are performed for the scope. -/
  | fence (sc : Scope)
  /-- `fence.x` (R228): Wait for all earlier accesses and merge the core clock with the scope clock. -/
  | fenceX (sc : Scope)
  /-- `boinit` (R244): Initialise a barrier object and arm it. -/
  | boinit (a b : Src)
  /-- `boarm` (R244): Set a new expected count and arm, keeping arrivals. -/
  | boarm (a b : Src)
  /-- `bowait` (R245): Wait until the object is unarmed or faulted, then trap on a fault or acquire its stamp. -/
  | bowait (a : Src)
  /-- `cwb` (R246): Write modified owned lines of a range back to their home. -/
  | cwb (a b : Src)
  /-- `cinv` (R246): Write back and drop the core's L1 copies of a range. -/
  | cinv (a b : Src)
  /-- `sev` (R289): Send an event to a core or a gang after a fixed delay. -/
  | sev (a : Src)
  /-- `fork` (R291): Push a task entry onto the fork deque at issue + 1. -/
  | fork (task : BitVec 17) (a b : Src)
  /-- `launch` (R315): Dispatch a child launch from a launch record, returning a handle or refusal code. -/
  | launch (d : Dst) (a : Src)
  /-- `shape` (R316): Deliver the true shape to a launch, committing or trimming provisional instances. -/
  | shape (a b : Src)
  /-- `qsig.set` (R317): Set a signal word as a .sc atomic and make the front end re-read it. -/
  | qsigSet (a b : Src)
  /-- `qsig.add` (R317): Add to a signal word and make the front end re-read it. -/
  | qsigAdd (a b : Src)
  /-- `qsig.or` (R317): OR into a signal word and make the front end re-read it. -/
  | qsigOr (a b : Src)
  /-- `pqpush` (R325): Reserve a ready-list place, read proposal entries and post them with a notice. -/
  | pqpush (a b : Src)
  /-- `sqrun` (R328): Submit a round record to the Scruple's round queue. -/
  | sqrun (a b : Src)
  /-- `sqcfg` (R338): Configure a sequence-table entry from an image, returning 0 or a refusal code. -/
  | sqcfg (d : Dst) (a b : Src)
  /-- `pqtake` (R326): Remove the oldest notice from the ready list, or return 0. -/
  | pqtake (d : Dst) (dl : Delay)
  /-- `depth` (R337): Read a sequence's depth, maximum, alpha and status. -/
  | depth (d : Dst) (a : Src) (dl : Delay)
  /-- `rbread` (R335): Remove the oldest rollback record from the core's list, or return 0. -/
  | rbread (d : Dst) (dl : Delay)
  /-- `sysc` (R364): Commit and trap with cause SYSC into the next level. -/
  | sysc (a : Src)
  /-- `tlbi.va` (R365): Invalidate translations of one address and ASID. -/
  | tlbiVa (a b : Src)
  /-- `tlbi.asid` (R365): Invalidate all non-global translations of an ASID. -/
  | tlbiAsid (b : Src)
  /-- `lockw` (R367): Set the number of locked verify L2 ways, or return LWBUSY. -/
  | lockw (d : Dst) (a : Src)
  /-- `prmt` (R379): Request pre-emption of a gang for an urgent launch, returning 0 or a refusal code. -/
  | prmt (d : Dst) (a b : Src)
  /-- `rsum` (R380): Resume a pre-empted gang once its urgent launch has completed. -/
  | rsum (d : Dst) (a : Src)
  /-- `trap` (R411): Commit and trap TRAPI with the immediate in TRAPINFO. -/
  | trap (code : BitVec 17)
  /-- `vadd` (R113): Lane-wise add. -/
  | vadd (d : Dst) (a b : Src) (k : Small) (ty : Ty)
  /-- `vsub` (R113): Lane-wise subtract. -/
  | vsub (d : Dst) (a b : Src) (k : Small) (ty : Ty)
  /-- `vmul` (R113): Lane-wise multiply. -/
  | vmul (d : Dst) (a b : Src) (k : Small) (ty : Ty)
  /-- `vmin` (R113): Lane-wise minimum. -/
  | vmin (d : Dst) (a b : Src) (k : Small) (ty : Ty)
  /-- `vmax` (R113): Lane-wise maximum. -/
  | vmax (d : Dst) (a b : Src) (k : Small) (ty : Ty)
  /-- `vdiv` (R114): Correctly rounded lane-wise divide. -/
  | vdiv (d : Dst) (a b : Src) (k : Small) (ty : Ty)
  /-- `vabs` (R113): Lane-wise absolute value. -/
  | vabs (d : Dst) (a : Src) (k : Small) (ty : Ty)
  /-- `vneg` (R113): Lane-wise negation. -/
  | vneg (d : Dst) (a : Src) (k : Small) (ty : Ty)
  /-- `vand` (R116): Lane-wise AND. -/
  | vand (d : Dst) (a b : Src) (k : Small) (ty : Ty)
  /-- `vor` (R116): Lane-wise OR. -/
  | vor (d : Dst) (a b : Src) (k : Small) (ty : Ty)
  /-- `vxor` (R116): Lane-wise XOR. -/
  | vxor (d : Dst) (a b : Src) (k : Small) (ty : Ty)
  /-- `vshl` (R116): Lane-wise shift left. -/
  | vshl (d : Dst) (a b : Src) (k : Small) (ty : Ty)
  /-- `vshr` (R116): Lane-wise logical shift right. -/
  | vshr (d : Dst) (a b : Src) (k : Small) (ty : Ty)
  /-- `vsra` (R116): Lane-wise arithmetic shift right. -/
  | vsra (d : Dst) (a b : Src) (k : Small) (ty : Ty)
  /-- `vsel` (R116): Select lanes of A or B by a mask. -/
  | vsel (d : Dst) (a b : Src) (k : Small) (ty : Ty)
  /-- `vsqrt` (R114): Correctly rounded square root. -/
  | vsqrt (d : Dst) (a : Src) (k : Small) (ty : Ty)
  /-- `vrcp` (R119): Reciprocal by seed table and Newton steps. -/
  | vrcp (d : Dst) (a : Src) (k : Small) (ty : Ty)
  /-- `vrsq` (R120): Reciprocal square root by seed table and Newton steps. -/
  | vrsq (d : Dst) (a : Src) (k : Small) (ty : Ty)
  /-- `vfex2` (R117): Base-2 exponential by table and polynomial. -/
  | vfex2 (d : Dst) (a : Src) (k : Small) (ty : Ty)
  /-- `vlg2` (R118): Base-2 logarithm by tables and polynomial. -/
  | vlg2 (d : Dst) (a : Src) (k : Small) (ty : Ty)
  /-- `vgetx` (R121): Exponent floor(log2|A|). -/
  | vgetx (d : Dst) (a : Src) (k : Small) (ty : Ty)
  /-- `vinsx` (R121): Scale A by 2^n with one rounding. -/
  | vinsx (d : Dst) (a b : Src) (k : Small) (ty : Ty)
  /-- `vrndi` (R121): Round to an integral value by a mode. -/
  | vrndi (d : Dst) (a : Src) (rm : Rm) (k : Small) (ty : Ty)
  /-- `vfma` (R115): Fused A × B + C. -/
  | vfma (d : Dst) (a b c : Src) (tf : FTy) (k : Small)
  /-- `vfms` (R115): Fused A × B − C. -/
  | vfms (d : Dst) (a b c : Src) (tf : FTy) (k : Small)
  /-- `vfnma` (R115): Fused −(A × B) + C. -/
  | vfnma (d : Dst) (a b c : Src) (tf : FTy) (k : Small)
  /-- `vcvt` (R122): Lane-wise type conversion. -/
  | vcvt (d : Dst) (a : Src) (tyd tys : Ty) (rm : Rm) (k : Small) (sat : Bool)
  /-- `vcmp` (R123): Lane-wise compare writing a mask. -/
  | vcmp (kd : Small) (cc : VCond) (a b : Src) (k : Small) (ty : Ty)
  /-- `kand` (R124): Mask AND. -/
  | kand (kd ka kb : Small)
  /-- `kor` (R124): Mask OR. -/
  | kor (kd ka kb : Small)
  /-- `knot` (R124): Mask NOT. -/
  | knot (kd ka : Small)
  /-- `kpopc` (R124): Count mask bits into a scalar. -/
  | kpopc (d : Dst) (ka : Small)
  /-- `vctw` (R124): Write the next condition vector from a mask. -/
  | vctw (ka : Small)
  /-- `vbcast` (R125): Broadcast a scalar to active lanes. -/
  | vbcast (d : Dst) (a : Src) (k : Small) (ty : Ty)
  /-- `vext` (R125): Extract one lane into a scalar. -/
  | vext (d : Dst) (a b : Src) (ty : Ty)
  /-- `vins` (R125): Insert a scalar into selected lanes. -/
  | vins (d : Dst) (a b : Src) (k : Small) (ty : Ty)
  /-- `viota` (R125): Write lane indices. -/
  | viota (d : Dst) (k : Small) (ty : Ty)
  /-- `vperm` (R126): Permute lanes by an index vector. -/
  | vperm (d : Dst) (a b : Src) (k : Small) (ty : Ty)
  /-- `vredadd` (R127): Pairwise-tree sum of lanes into a scalar. -/
  | vredadd (d : Dst) (a : Src) (k : Small) (ty : Ty)
  /-- `vredmax` (R127): Pairwise-tree maximum into a scalar. -/
  | vredmax (d : Dst) (a : Src) (k : Small) (ty : Ty)
  /-- `vredmin` (R127): Pairwise-tree minimum into a scalar. -/
  | vredmin (d : Dst) (a : Src) (k : Small) (ty : Ty)
  /-- `vmaxb` (R129): Choose block side data for MX or PX quantisation. -/
  | vmaxb (d : Dst) (a : Src) (bf : Bf)
  /-- `vqnt` (R131): Quantise under the latched side data into a code vector. -/
  | vqnt (d : Dst) (a : Src) (bf : Bf)
  /-- `vdqnt` (R132): Decode block codes to FP32 or FP64. -/
  | vdqnt (d : Dst) (a b : Src) (bf : Bf)
  /-- `vdefer` (R134): Append active lanes to the deferral queue, trapping DQOVF on overflow. -/
  | vdefer (v : RegNo) (n : BitVec 2) (b : Src) (k : Small)
  /-- `vdrain` (R135): Take matching deferral entries into vectors with an origin vector. -/
  | vdrain (v : RegNo) (n : BitVec 2) (b : Src)
  /-- `vld` (R137): Contiguous vector load. -/
  | vld (d : Dst) (a : Src) (off : BitVec 6) (k : Small) (dl : Delay)
  /-- `vlds` (R137): Strided vector load. -/
  | vlds (d : Dst) (a b : Src) (k : Small) (dl : Delay)
  /-- `vgath` (R137): Indexed gather. -/
  | vgath (d : Dst) (a vi : Src) (w64 : Bool) (k : Small) (dl : Delay)
  /-- `vldl` (R138): Load from the lane slices. -/
  | vldl (d : Dst) (a : Src) (off : BitVec 6) (k : Small) (dl : Delay)
  /-- `vldv` (R334): Read a draft-state part with its validity mask. -/
  | vldv (d : Dst) (a b : Src) (k : Small) (dl : Delay)
  /-- `vst` (R137): Contiguous vector store. -/
  | vst (b a : Src) (off : BitVec 14) (k : Small)
  /-- `vsts` (R137): Strided vector store. -/
  | vsts (b a sb : Src) (k : Small)
  /-- `vscat` (R139): Indexed scatter; the highest lane wins on repeated addresses. -/
  | vscat (b a vi : Src) (w64 : Bool) (k : Small)
  /-- `vstl` (R138): Store to the lane slices. -/
  | vstl (b a : Src) (off : BitVec 14) (k : Small)
  /-- `vstv` (R333): Write a draft-state part tagged with the current generation. -/
  | vstv (b a sb : Src) (k : Small)
  /-- `mstrm` (R158): Load a stream register from a descriptor at issue + 6. -/
  | mstrm (s : RegNo) (a : Src)
  /-- `mnest` (R158): Load the nest configuration from a descriptor at issue + 6. -/
  | mnest (a : Src)
  /-- `mgo` (R159): Start a matrix loop nest, copying streams and nest into the shadow. -/
  | mgo (sa sb : RegNo) (acc : Small) (accum ser : Bool)
  /-- `mza` (R161): Zero an accumulator tile at issue + 2. -/
  | mza (acc : Small)
  /-- `mepi` (R165): Queue an epilogue that scales, biases, activates and writes a tile. -/
  | mepi (acc : Small) (a : Src)
  /-- `mtov` (R162): Move a tile row part to a vector. -/
  | mtov (d : Dst) (acc : Small) (row : BitVec 6) (part : BitVec 2)
  /-- `mfromv` (R162): Move a vector to a tile row part. -/
  | mfromv (a : Src) (acc : Small) (row : BitVec 6) (part : BitVec 2)
  /-- `speshp` (R179): Load a shape-table entry at issue + 6. -/
  | speshp (sh : BitVec 6) (a : Src)
  /-- `speld` (R180): Load 32 scratch registers from a vector. -/
  | speld (a : Src) (z : BitVec 12)
  /-- `spest` (R180): Store 32 scratch registers to a vector. -/
  | spest (d : Dst) (z : BitVec 12)
  /-- `speup` (R172): Evaluate up to four sum-product trees and write their roots at issue + 12. -/
  | speup (sh : BitVec 6) (tm : BitVec 4) (z : BitVec 12)
  /-- `spedn` (R173): Propagate adjoints and accumulate leaf adjoints at issue + 16. -/
  | spedn (sh : BitVec 6) (tm : BitVec 4) (z : BitVec 12)
  /-- `specvt.f32.sp32` (R180): Convert 32 scratch registers from FP32 to SP32. -/
  | specvtF32Sp32 (z : BitVec 12)
  /-- `specvt.sp32.f32` (R180): Convert 32 scratch registers from SP32 to FP32. -/
  | specvtSp32F32 (z : BitVec 12)
  /-- `speza` (R180): Zero 32 scratch registers. -/
  | speza (z : BitVec 12)
  /-- `cpy` (R255): Queue a byte copy counted on a barrier object. -/
  | cpy (o a b c : Src)
  /-- `cpyp` (R256): Queue a conversion of element-major data into planar units. -/
  | cpyp (o a b c : Src)
  /-- `cpyg` (R257): Queue an indexed gather copy. -/
  | cpyg (o a b c : Src)
  /-- `stbind` (R258): Bind a stream register to a barrier object with a granule. -/
  | stbind (o : Src) (s : RegNo) (c : Src)
  /-- `cpys` (R190): Queue streaming of a logit segment into a sampling record. -/
  | cpys (o a b c : Src)
  /-- `smrg` (R193): Queue joining of sampling record B into A. -/
  | smrg (o a b : Src)
  /-- `(event)` (R254): A copy engine checks the whole extent and moves the data of a CPY, CPYP or CPYG, faulting or counting. -/
  | copyEngineRun (eng : Fin 2)
  /-- `(event)` (R192): The engine applies a segment to a record and writes it as one 1,024-byte write. -/
  | cpysRecordUpdate (eng : Fin 2)
  /-- `(event)` (R193): The engine joins two records and writes A as one write. -/
  | smrgRecordUpdate (eng : Fin 2)
  /-- `(event)` (R240): An engine adds its byte count and stamp to a barrier object at its home. -/
  | boAddition (obj n stamp : Nat)
  /-- `send` (R264): Direct transfer of chunks from the core scratchpad to a destination core. -/
  | send (o a b c : Src)
  /-- `(event)` (R265): A chunk from another package is performed as an arrival with no fixed landing and raises the counter. -/
  | remoteChunkArrival (win : Bool) (off : BitVec 22) (ctr : RegNo) (data : List Byte)
  /-- `recv` (R266): Wait until an arrival counter reaches a threshold and subtract it. -/
  | recv (a b : Src)
  /-- `recvadd` (R267): Queue a summation of contributions in declared order into an accumulator region. -/
  | recvadd (o a b c : Src)
  /-- `ttset` (R274): Queue writing of a tile-table entry from an image. -/
  | ttset (o a b : Src)
  /-- `tready` (R274): After a package-scope drain, set a tile entry's ready flag. -/
  | tready (a : Src)
  /-- `twait` (R274): Wait until the entry has no open send phase. -/
  | twait (a : Src)
  /-- `(event)` (R270): A firing reads its contribution once and sends it to every peer. -/
  | tileFiringStart (die : Bool) (idx : Nat)
  /-- `(event)` (R273): A receiving die stages a contribution chunk, or discards a mismatching one. -/
  | tileChunkStage (die : Bool) (idx : Nat) (chunk : TileChunk)
  /-- `(event)` (R272): With all slots full and the send phase ended the entry combines in list order, counts and starts pending or NEXT. -/
  | tileFiringComplete (die : Bool) (idx : Nat)
  /-- `(event)` (R270): Every peer acknowledges receipt of the firing's contribution, or another package refuses it (R273). -/
  | sendPhaseEnd (die : Bool) (answer : PeerAnswer)
  /-- `(event)` (R276): A chunk that UET cannot deliver within the transport timeout is abandoned with a fault. -/
  | transportTimeout (what : NetOp)
  /-- `(event)` (R37): Data of a pending request arrives into the landing buffer, ending a late-landing freeze. -/
  | landingDataArrival (issue slot : Nat)
  /-- `(event)` (R216): An engine access to a scheduled memory is performed in the first free bank cycle. -/
  | engineBankAccess (eng : Fin 2)
  /-- `(event)` (R279): The front end writes instruction memory, presets and registers, then releases all cores on one cycle. -/
  | instanceLoad (launch inst : Nat)
  /-- `(event)` (R280): Every core has exited and no engine work remains outstanding. -/
  | instanceComplete (launch inst : Nat)
  /-- `(event)` (R300): A LAUNCH packet is taken and its launch dispatched. -/
  | launchPacket (part : Fin 4) (q : Nat)
  /-- `(event)` (R300): A WAIT packet holds the queue until a signal satisfies a comparison. -/
  | waitPacket (part : Fin 4) (q : Nat)
  /-- `(event)` (R300): After earlier launches complete the front end applies an operation to a signal. -/
  | signalPacket (part : Fin 4) (q : Nat)
  /-- `(event)` (R301): The front end re-reads a waited signal, on writes or every 10 us. -/
  | signalReread (part : Fin 4) (q : Nat)
  /-- `(event)` (R302): A queue waiting on a signal for 50 us parks and releases its slot. -/
  | queuePark (part : Fin 4) (q : Nat)
  /-- `(event)` (R303): A waiting queue's effective priority rises one level per tolerance interval. -/
  | priorityRaise (part : Fin 4) (q : Nat)
  /-- `(event)` (R304): A wait or launch reaching TMO puts the queue in Error with QTIMEOUT. -/
  | queueTimeout (part : Fin 4) (q : Nat)
  /-- `(event)` (R310): A waiting instance is placed on available or idle clusters when cores are free. -/
  | instancePlace (launch inst : Nat)
  /-- `(event)` (R311): Provisional instances on a needed cluster are stopped, discarded and returned to waiting. -/
  | provisionalEvict (launch inst : Nat)
  /-- `(event)` (R313): The front end reads a shape signal with bit 63 set, delivering the true shape. -/
  | shapeSignalRead (launch : Nat)
  /-- `(event)` (R308): When every surviving instance and child completes, the completion word is written to DONE. -/
  | launchComplete (launch : Nat)
  /-- `(event)` (R409): A supervisor-level program trap is forwarded to the monitor, which resumes a granted SYSC or ends the launch. -/
  | trapForward (grant : Bool)
  /-- `(event)` (R397): A bank is marked failed after 16 corrections in a pass or by firmware, and decoding uses erasure. -/
  | bankFailMark (store : RowStore) (bank : Nat)
  /-- `(event)` (R397): The rebuild pointer reconstructs one row into the spare bank in a free cycle. -/
  | rebuildRow (store : RowStore)
  /-- `(event)` (R398): The scrubber reads and corrects one row in a free bank cycle. -/
  | scrubRow (store : RowStore) (row : Nat)
  /-- `(event)` (R23): Firmware steps the common core clock by 125 MHz at a cycle between bundles. -/
  | clockChange (up : Bool)
  /-- `(event)` (R238): A posted host write to device memory enters T in arrival order. -/
  | hostWrite (addr : Nat) (data : List Byte)
  /-- `(event)` (R238): A host read returns a value after the requester's earlier posted writes. -/
  | hostRead (addr n : Nat)
  /-- `(event)` (R416): After the target's launches show ERR, resume a queue at NEWRD or retire it. -/
  | repairPacket (part : Fin 4)
  /-- `(event)` (R418): Create a queue from a record. -/
  | qcreate (part : Fin 4)
  /-- `(event)` (R418): Write the partition's Scruple block, resetting ring tags and (F, G) words. -/
  | scrblk (part : Fin 4)
  /-- `(event)` (R344): Set the ready-list limit word. -/
  | rllimit (part : Fin 4)
  /-- `(event)` (R418): Write entries of the partition's peer table. -/
  | peerset (part : Fin 4)
  /-- `(event)` (R386): The monitor writes, verifies and marks an image in the other slot. -/
  | firmwareUpdate (img : FwImage)
  /-- `(event)` (R388): In recovery a PLDM update is verified, written to slot A and the package reset. -/
  | recoveryUpdate (img : FwImage)
  /-- `(event)` (R385): The monitor raises the fused minimum security version. -/
  | svnRaise (svn : BitVec 32)
  /-- `(event)` (R389): The monitor loads a key into the slot named by KSEL unless locked. -/
  | keyLoad (key : List Byte)
  /-- `(event)` (R390): SPDM version request. -/
  | getVersion (msg : List Byte)
  /-- `(event)` (R390): SPDM capabilities request. -/
  | getCapabilities (msg : List Byte)
  /-- `(event)` (R390): SPDM algorithm negotiation. -/
  | negotiateAlgorithms (msg : List Byte)
  /-- `(event)` (R390): SPDM certificate digests request. -/
  | getDigests (msg : List Byte)
  /-- `(event)` (R390): SPDM certificate request. -/
  | getCertificate (msg : List Byte)
  /-- `(event)` (R390): SPDM challenge signed with the identity key. -/
  | challenge (msg : List Byte)
  /-- `(event)` (R390): Signed measurement blocks of the booted image and configuration. -/
  | getMeasurements (msg : List Byte)
  /-- `(event)` (R390): SPDM key exchange opening a secured session. -/
  | keyExchange (msg : List Byte)
  /-- `(event)` (R390): SPDM session finish, programming IDE keys. -/
  | finish (msg : List Byte)
  /-- `(event)` (R390): SPDM session key update. -/
  | keyUpdate (msg : List Byte)
  /-- `(event)` (R390): SPDM session end. -/
  | endSession (msg : List Byte)
  /-- `(event)` (R391): PLDM base type request. -/
  | pldmBase (msg : List Byte)
  /-- `(event)` (R391): Report temperatures, power, thermal-trip and error records. -/
  | pldmPlatformMonitoring (msg : List Byte)
  /-- `(event)` (R391): Return the device identity record. -/
  | pldmFru (msg : List Byte)
  /-- `(event)` (R391): A Type 5 update handed to the monitor. -/
  | pldmFirmwareUpdate (img : FwImage)
  /-- `(event)` (R387): Power is lost, possibly in the middle of a boot-flash image or marker-record write, leaving a partly written slot or a record that fails RDIG. -/
  | powerLoss (cut : FlashCut)
  /-- `(event)` (R276): A network port of the package goes down or comes back up, changing which of a peer entry's allowed ports carry its flows. -/
  | portDown (port : Fin 8) (up : Bool)
  /-- `nop` (R108): The all-zero slot: no class and no effect. -/
  | nop
  /-- `(event)` (R48): A lock hold ends when the last access of the span has been performed, and queued arrivals to the held banks are then performed. -/
  | lockHoldEnd
  /-- `(event)` (R58): A bundle that binds two operations to one engine instance adds one frozen split cycle, in which the engine takes the second operation. -/
  | splitCycle
  /-- `cvadv` (R105): At issue + 1 copy next condition vector to current, clear next and reset the cursor. -/
  | cvadv
  /-- `isync` (R107): Discard fetched words and refill every target-buffer entry. -/
  | isync
  /-- `(event)` (R101): A held ST.REL is performed once earlier copies complete, releasing held later coherent accesses. -/
  | stRelPerform
  /-- `(event)` (R251): The home applies combined .com atomics to a location; an uncorrectable error leaves it unchanged and holds an MCHECK report. -/
  | comAtomicApply
  /-- `(event)` (R246): A CWB or CINV completes at a nominal time, releasing waiting fences. -/
  | cacheOpComplete
  /-- `bar` (R284): Arrive at the gang barrier and wait idle, taking tasks meanwhile. -/
  | bar
  /-- `ebar` (R285): Arrive at the ensemble barrier and wait idle. -/
  | ebar
  /-- `(event)` (R284): Two cycles after the last arrival with empty deques, every participant's BAR issues and clocks merge. -/
  | barRelease
  /-- `(event)` (R285): At q + 2 + delta the EBAR of every participant issues at its gang's first unfrozen cycle. -/
  | ebarRelease
  /-- `wfe` (R288): Wait until the event latch is set, then clear it. -/
  | wfe
  /-- `(event)` (R287): An event reaches a core and sets its sticky event latch. -/
  | eventLanding
  /-- `join` (R292): Wait for the current frame's tasks, running own or stolen tasks meanwhile. -/
  | join
  /-- `taskend` (R293): End a task: implicit join, fence, pop the frame, send a completion notice and return. -/
  | taskend
  /-- `exit` (R286): Implicit join and drain, then leave barrier participation and stop issuing. -/
  | exit
  /-- `(event)` (R294): A waiting core probes another core's deque tail, taking the tail entry if one remains. -/
  | stealProbe
  /-- `(event)` (R292): A waiting core pushes a frame, writes g13 and g14, and issues the task 4 cycles later. -/
  | taskDispatch
  /-- `(event)` (R293): A TASKEND's notice reaches the forking frame and decrements its count. -/
  | completionNotice
  /-- `(event)` (R325): After the window writes are performed, the notice enters the ready list with their timestamp. -/
  | noticePost
  /-- `(event)` (R338): The Scruple applies or refuses an SQCFG image, raising GEN and writing the (F, G) word. -/
  | sqcfgApply
  /-- `tlbi.all` (R365): Invalidate every translation in the scope. -/
  | tlbiAll
  /-- `idle` (R366): Wait as WFE with clocks gated, ending on an event or a pre-emption request. -/
  | idle
  /-- `bkpt` (R411): Commit and trap BKPT. -/
  | bkpt
  /-- `eret` (R412): Restore the level and the shadow and resume the gang on a common cycle. -/
  | eret
  /-- `(event)` (R130): At issue + 4 a VMAXB writes its side vector and format to the scale latch. -/
  | scaleLatchWrite
  /-- `(event)` (R333): At its place in the region order a VSTV writes its part or is dropped on a stale generation. -/
  | draftPartWrite
  /-- `(event)` (R153): One nest step multiplies a tile pair exactly and rounds into the accumulator; a bad unit stops the nest. -/
  | arrayStep
  /-- `(event)` (R151): The last accumulator write lands and the MGO frees its array-queue place. -/
  | mgoComplete
  /-- `msync` (R160): Wait for earlier MGO and MEPI, merge array flags and trap a recorded fault. -/
  | msync
  /-- `(event)` (R165): After earlier MGOs complete, the epilogue writes its elements, counts on its barrier object and sets the ready flag. -/
  | epilogueRun
  /-- `(event)` (R264): A chunk is performed at the destination bank at its fixed cycle and raises the arrival counter. -/
  | sendChunkLanding
  /-- `(event)` (R267): Once the counter holds N × LEN, the engine claims it and sums the contributions. -/
  | recvaddCombine
  /-- `(event)` (R274): When the entry is idle the engine checks the image, reserves slots and writes the entry. -/
  | ttsetApply
  /-- `(event)` (R33): At its completion cycle a fixed-latency result is written and appended to its queue. -/
  | resultWrite
  /-- `(event)` (R36): A timed landing is written at its landing cycle, freezing the domain if data has not arrived. -/
  | landing
  /-- `(event)` (R214): Scheduled accesses due in a cycle take bank cycles in the stated order. -/
  | scheduledAccessPerform
  /-- `(event)` (R224): A coherent load or store is performed at its line, moving the logical clocks. -/
  | coherentAccessPerform
  /-- `(event)` (R224): Every 64 cycles each core's pts increases by 1. -/
  | ptsDrift
  /-- `(event)` (R360): A walk fills the TLBs of every waiter, or reports a translation fault. -/
  | pageWalkComplete
  /-- `(event)` (R328): The Scruple tests one round entry and writes table, (F, G), rollback record, result and count. -/
  | roundEntryProcess
  /-- `(event)` (R372): Each victim core stops at its first bundle boundary after the request, freezing the gang. -/
  | preemptionStop
  /-- `(event)` (R377): The urgent gang is loaded into reserved parts and released, setting ACTIVE. -/
  | urgentRelease
  /-- `(event)` (R378): The urgent launch completes, writes its DONE and clears ACTIVE. -/
  | urgentComplete
  /-- `(event)` (R381): The monitor saves a frozen instance's complete state at a supervisor request. -/
  | fullStateSave
  /-- `(event)` (R406): After the drain, the shadow is taken, trap registers set and the handler issues at d + 4. -/
  | trapEntry
  /-- `(event)` (R431): The monitor serves a supervisor SYSC, TRAPI or BKPT, or records and resets on any other cause. -/
  | monitorTrapHandle
  /-- `(event)` (R412): At e + 4 after the last ERET every core of the gang resumes on a common cycle. -/
  | trapResume
  /-- `(event)` (R398): A scrub pass ends and resets the per-bank correction counters. -/
  | scrubPassEnd
  /-- `(event)` (R24): At 115 °C hardware stops both clocks and removes core power, keeping a record. -/
  | thermalTrip
  /-- `(event)` (R387): The boot ROM chooses and verifies a slot by the marker journal, or enters recovery. -/
  | boot
  /-- `(event)` (R368): Package reset returns registers to their reset values and boots. -/
  | packageReset
  /-- `(event)` (R381): The monitor restores a saved instance, possibly on other cores, after which RSUM can resume it, and holds any request made within 1 ms of the last restore. -/
  | fullStateRestore
  deriving DecidableEq, Repr

end Sys2Proof
end

