-- ==== Sys2Proof/Machine/Flags.lean ====
section
/-! DEFINITION. Number formats, rounding and the `FLAGS` bits (05_formats.md): every arithmetic result is computed exactly
as a signed dyadic number and rounded once by the functions here. -/

namespace Sys2Proof.Machine

/-- `FLAGS` bits (R41). -/
abbrev Fl := BitVec 8
def flNone : Fl := 0#8
def flInv : Fl := 1#8
def flDivz : Fl := 2#8
def flOvf : Fl := 4#8
def flUnf : Fl := 8#8
def flInx : Fl := 16#8
def flSpovf : Fl := 32#8
def flSpunf : Fl := 64#8
def flSat : Fl := 128#8

def flIf (b : Bool) (f : Fl) : Fl := if b then f else 0#8

/-- The exact value of an operand: a NaN (signalling or not), an infinity, or (−1)^neg × m × 2^e. -/
inductive Fp where
  | nan (sig : Bool)
  | inf (neg : Bool)
  | fin (neg : Bool) (m : Nat) (e : Int)
  deriving DecidableEq, Repr

/-- How a format uses its all-ones exponent (R73, R76): infinities and NaNs, one NaN code of each sign, or values only. -/
inductive Top where
  | ieee | oneNan | values
  deriving DecidableEq, Repr

/-- A binary floating-point format: exponent bits, fraction bits, bias (R73, R76). -/
structure Fmt where
  eb   : Nat
  mb   : Nat
  bias : Nat
  top  : Top
  deriving DecidableEq, Repr

def fF64 : Fmt := ⟨11, 52, 1023, .ieee⟩
def fF32 : Fmt := ⟨8, 23, 127, .ieee⟩
def fF16 : Fmt := ⟨5, 10, 15, .ieee⟩
def fBf16 : Fmt := ⟨8, 7, 127, .ieee⟩
def fE4m3 : Fmt := ⟨4, 3, 7, .oneNan⟩
def fE5m2 : Fmt := ⟨5, 2, 15, .ieee⟩
def fE2m3 : Fmt := ⟨2, 3, 1, .values⟩
def fE3m2 : Fmt := ⟨3, 2, 3, .values⟩
def fE2m1 : Fmt := ⟨2, 1, 1, .values⟩

def Fmt.width (f : Fmt) : Nat := 1 + f.eb + f.mb

/-- The exponent of the last place of a subnormal, and of the smallest normal. -/
def Fmt.quantum (f : Fmt) : Int := 1 - (f.bias : Int) - f.mb

/-- The largest exponent field that holds ordinary values, and the largest fraction under it. -/
def Fmt.maxField (f : Fmt) : Nat := if f.top = .ieee then 2 ^ f.eb - 2 else 2 ^ f.eb - 1
def Fmt.maxFrac (f : Fmt) : Nat := if f.top = .oneNan then 2 ^ f.mb - 2 else 2 ^ f.mb - 1

/-- The code of the largest finite value of a sign. -/
def Fmt.maxCode (f : Fmt) (neg : Bool) : Nat :=
  (if neg then 2 ^ (f.eb + f.mb) else 0) + f.maxField * 2 ^ f.mb + f.maxFrac

/-- The code of an infinity. -/
def Fmt.infCode (f : Fmt) (neg : Bool) : Nat := (if neg then 2 ^ (f.eb + f.mb) else 0) + (2 ^ f.eb - 1) * 2 ^ f.mb

/-- The canonical NaN (R74). -/
def Fmt.nanCode (f : Fmt) : Nat :=
  match f.top with
  | .ieee => (2 ^ f.eb - 1) * 2 ^ f.mb + 2 ^ (f.mb - 1)
  | .oneNan => 2 ^ (f.eb + f.mb) - 1
  | .values => 0

/-- The value of a code (R73, R76). -/
def Fmt.dec (f : Fmt) (x : Nat) : Fp :=
  let neg := x.testBit (f.eb + f.mb)
  let e := (x >>> f.mb) % 2 ^ f.eb
  let m := x % 2 ^ f.mb
  if f.top = .ieee ∧ e = 2 ^ f.eb - 1 then (if m = 0 then .inf neg else .nan (!m.testBit (f.mb - 1)))
  else if f.top = .oneNan ∧ e = 2 ^ f.eb - 1 ∧ m = 2 ^ f.mb - 1 then .nan false
  else if e = 0 then .fin neg m f.quantum
  else .fin neg (2 ^ f.mb + m) (f.quantum + (e - 1 : Nat))

/-- Whether a rounding goes up in magnitude: `odd` is the last kept bit, `cmp` compares the discarded part with a half
(`none` when nothing is discarded) (R85). -/
def roundUp (rm : Rm) (neg odd : Bool) (cmp : Option Ordering) : Bool :=
  match cmp with
  | none => false
  | some c =>
    match rm with
    | .rne => c == .gt || (c == .eq && odd)
    | .rtz => false
    | .rup => !neg
    | .rdn => neg
    | .rna => c != .lt

/-- m × 2^e in units of 2^q: quotient, and how the discarded part compares with a half. -/
def shiftTo (m : Nat) (e q : Int) : Nat × Option Ordering :=
  if m = 0 then (0, none)
  else if q ≤ e then (m <<< (e - q).toNat, none)
  else
    let k := (q - e).toNat
    if k > m.log2 + 2 then (0, some .lt)
    else
      let r := m % 2 ^ k
      (m >>> k, if r = 0 then none else some (compare (2 * r) (2 ^ k)))

/-- Round in units of 2^q. -/
def roundAt (rm : Rm) (neg : Bool) (m : Nat) (e q : Int) : Nat × Bool :=
  let (n, c) := shiftTo m e q
  (if roundUp rm neg (n % 2 == 1) c then n + 1 else n, c.isSome)

/-- Round m × 2^e, m not 0, to a format (R85, R86): the code and the flags. -/
def Fmt.round (f : Fmt) (rm : Rm) (neg : Bool) (m : Nat) (e : Int) : Nat × Fl :=
  let sign := if neg then 2 ^ (f.eb + f.mb) else 0
  if m = 0 then (sign, flNone)
  else
    let top : Int := m.log2 + e
    let emax : Int := (f.maxField : Int) - f.bias
    let free := roundAt rm neg m e (top - f.mb)
    -- the value rounded with unbounded exponent: free.1 × 2^(top − mb)
    let tooBig : Bool := decide (top > emax) ||
      (decide (top = emax) && decide (free.1 > 2 ^ f.mb + f.maxFrac))
    if tooBig then
      match f.top with
      | .ieee =>
        let toInf := match rm with
          | .rne => true | .rna => true | .rtz => false | .rup => !neg | .rdn => neg
        (if toInf then f.infCode neg else f.maxCode neg, flOvf ||| flInx)
      | _ => (f.maxCode neg, flSat ||| flInx)
    else if top ≥ 1 - (f.bias : Int) then
      let (n, inx) := free
      -- a carry out of the fraction raises the exponent field by the addition itself
      (sign + ((top + f.bias - 1).toNat * 2 ^ f.mb + n), flIf inx flInx)
    else
      let (n, inx) := roundAt rm neg m e f.quantum
      let tiny := decide (top < -(f.bias : Int)) || decide (free.1 < 2 ^ (f.mb + 1))
      (sign + n, flIf inx flInx ||| flIf (inx && tiny) flUnf)

/-- Deliver an exact value in a format: a NaN is canonical; an infinity in a format without one saturates with SAT (R85).
The flags given are those the operation found. -/
def Fmt.enc (f : Fmt) (rm : Rm) (x : Fp) (fl : Fl) : Nat × Fl :=
  match x with
  | .nan _ => (f.nanCode, fl)
  | .inf neg => if f.top = .ieee then (f.infCode neg, fl) else (f.maxCode neg, fl ||| flSat)
  | .fin neg m e => let (c, g) := f.round rm neg m e; (c, fl ||| g)

/-- INV for a signalling NaN (R74). -/
def Fp.sigFl : Fp → Fl
  | .nan true => flInv
  | _ => flNone

def Fp.isNan : Fp → Bool
  | .nan _ => true
  | _ => false

def Fp.isZero : Fp → Bool
  | .fin _ 0 _ => true
  | _ => false

def Fp.isFin : Fp → Bool
  | .fin _ _ _ => true
  | _ => false

def Fp.neg? : Fp → Bool
  | .nan _ => false
  | .inf n => n
  | .fin n _ _ => n

def Fp.negate : Fp → Fp
  | .nan s => .nan s
  | .inf n => .inf !n
  | .fin n m e => .fin (!n) m e

/-- The signed integer that a value is in units of 2^q, q at most its exponent. -/
def signedAt (neg : Bool) (m : Nat) (e q : Int) : Int :=
  let v : Int := (m <<< (e - q).toNat : Nat)
  if neg then -v else v

/-- An integer in units of 2^q as a value; zero is +0 (R75, every mode of this use is RNE). -/
def ofSigned (v q : Int) : Fp := .fin (decide (v < 0)) v.natAbs q

/-- Exact sum (R75, R113). -/
def Fp.add (a b : Fp) : Fp × Fl :=
  let fl := a.sigFl ||| b.sigFl
  match a, b with
  | .nan _, _ => (.nan false, fl)
  | _, .nan _ => (.nan false, fl)
  | .inf x, .inf y => if x = y then (.inf x, fl) else (.nan false, flInv)
  | .inf x, _ => (.inf x, fl)
  | _, .inf y => (.inf y, fl)
  | .fin x m e, .fin y n g =>
    if m = 0 ∧ n = 0 then (.fin (x && y) 0 0, fl)
    else if m = 0 then (b, fl)
    else if n = 0 then (a, fl)
    else let q := min e g; (ofSigned (signedAt x m e q + signedAt y n g q) q, fl)

/-- Exact product (R75, R113). -/
def Fp.mul (a b : Fp) : Fp × Fl :=
  let fl := a.sigFl ||| b.sigFl
  match a, b with
  | .nan _, _ => (.nan false, fl)
  | _, .nan _ => (.nan false, fl)
  | .inf x, .inf y => (.inf (x != y), fl)
  | .inf x, .fin y n _ => if n = 0 then (.nan false, flInv) else (.inf (x != y), fl)
  | .fin x m _, .inf y => if m = 0 then (.nan false, flInv) else (.inf (x != y), fl)
  | .fin x m e, .fin y n g => (.fin (x != y) (m * n) (e + g), fl)

/-- Exact A × B + C; a zero times an infinity is invalid even when C is a quiet NaN (R115). -/
def Fp.fma (a b c : Fp) : Fp × Fl :=
  let (p, fp) := a.mul b
  let (r, fr) := p.add c
  (r, fp ||| fr ||| c.sigFl)

/-- The order of two values that are not NaN; zeros of both signs are equal (R75). -/
def Fp.cmp (a b : Fp) : Ordering :=
  match a, b with
  | .inf x, .inf y => if x = y then .eq else if x then .lt else .gt
  | .inf x, _ => if x then .lt else .gt
  | _, .inf y => if y then .gt else .lt
  | .fin x m e, .fin y n g =>
    let q := min e g
    if m = 0 ∧ n = 0 then .eq
    else if m = 0 then (if y then .gt else .lt)
    else if n = 0 then (if x then .lt else .gt)
    else if x ≠ y then (if x then .lt else .gt)
    else
      -- compare leading bits first, so that no wide shift is made for operands far apart
      let la : Int := m.log2 + e
      let lb : Int := n.log2 + g
      let mag := if la ≠ lb then compare la lb else compare (m <<< (e - q).toNat) (n <<< (g - q).toNat)
      if x then mag.swap else mag
  | _, _ => .eq

/-- Smaller or larger of two values with −0 below +0 and NaN canonical (R113). -/
def Fp.least (max : Bool) (a b : Fp) : Fp × Fl :=
  let fl := a.sigFl ||| b.sigFl
  if a.isNan || b.isNan then (.nan false, fl)
  else
    let c : Ordering := match a.cmp b with
      | .eq => if a.neg? && !b.neg? then .lt else if !a.neg? && b.neg? then .gt else .eq
      | .lt => .lt
      | .gt => .gt
    (if (c == .gt) == max then a else b, fl)

/-- A positive rational n / d × 2^e as a dyadic number with a sticky last bit, enough for any format (R114). -/
def ratio (n d : Nat) (e : Int) : Nat × Int :=
  let k := 70 + d.log2
  let q := (n <<< k) / d
  let r := (n <<< k) % d
  (2 * q + (if r = 0 then 0 else 1), e - k - 1)

/-- Quotient (R114), before rounding. -/
def Fp.div (a b : Fp) : Fp × Fl :=
  let fl := a.sigFl ||| b.sigFl
  match a, b with
  | .nan _, _ => (.nan false, fl)
  | _, .nan _ => (.nan false, fl)
  | .inf _, .inf _ => (.nan false, flInv)
  | .inf x, .fin y _ _ => (.inf (x != y), fl)
  | .fin x _ _, .inf y => (.fin (x != y) 0 0, fl)
  | .fin x m e, .fin y n g =>
    if n = 0 then (if m = 0 then (.nan false, flInv) else (.inf (x != y), fl ||| flDivz))
    else if m = 0 then (.fin (x != y) 0 0, fl)
    else let (q, k) := ratio (m <<< (n.log2)) n (e - g - n.log2); (.fin (x != y) q k, fl)

/-- Integer square root by halving steps on fuel. -/
def isqrtAux (x : Nat) : Nat → Nat → Nat → Nat
  | 0, lo, _ => lo
  | f + 1, lo, hi =>
    if hi ≤ lo + 1 then lo
    else let mid := (lo + hi) / 2; if mid * mid ≤ x then isqrtAux x f mid hi else isqrtAux x f lo mid

def isqrt (x : Nat) : Nat := if x = 0 then 0 else isqrtAux x (x.log2 + 2) 0 (2 ^ (x.log2 / 2 + 1))

/-- Square root of m × 2^e, m not 0, with a sticky last bit. -/
def rootOf (m : Nat) (e : Int) : Nat × Int :=
  let k : Nat := 132 - m.log2
  let k := if (e - k) % 2 = 0 then k else k + 1
  let x := m <<< k
  let r := isqrt x
  (2 * r + (if r * r = x then 0 else 1), (e - k) / 2 - 1)

/-- Square root (R114), before rounding. -/
def Fp.sqrt (a : Fp) : Fp × Fl :=
  match a with
  | .nan _ => (.nan false, a.sigFl)
  | .inf neg => if neg then (.nan false, flInv) else (.inf false, flNone)
  | .fin neg m e =>
    if m = 0 then (a, flNone)
    else if neg then (.nan false, flInv)
    else let (r, k) := rootOf m e; (.fin false r k, flNone)

/-- A value rounded to an integer by a mode, and whether that changed it (R85, R88). -/
def toInt (rm : Rm) (neg : Bool) (m : Nat) (e : Int) : Int × Bool :=
  let (n, inx) := roundAt rm neg m e 0
  (if neg then -(n : Int) else n, inx)

/-- ⌊log2⌋ of a nonzero magnitude. -/
def log2At (m : Nat) (e : Int) : Int := m.log2 + e

end Sys2Proof.Machine

namespace Sys2Proof

/-! ### Lane types (R51, R109) -/

/-- The floating-point format of a lane type. -/
def Ty.fmt? : Ty → Option Machine.Fmt
  | .f64 => some Machine.fF64
  | .f32 => some Machine.fF32
  | .bf16 => some Machine.fBf16
  | .f16 => some Machine.fF16
  | .e4m3 => some Machine.fE4m3
  | .e5m2 => some Machine.fE5m2
  | _ => none

/-- Width in bits of a value of a type. -/
def Ty.bits : Ty → Nat
  | .i8 | .n8 | .e4m3 | .e5m2 => 8
  | .i16 | .n16 | .bf16 | .f16 => 16
  | .i32 | .n32 | .f32 => 32
  | .i64 | .n64 | .f64 => 64

/-- Whether an integer type is signed. -/
def Ty.signed : Ty → Bool
  | .i8 | .i16 | .i32 | .i64 => true
  | _ => false

/-- Width in bits of the lane a type uses (R109). -/
def Ty.lane (t : Ty) : Nat := if t.bits = 64 then 64 else 32

/-- Number of lanes (R109). -/
def Ty.lanes (t : Ty) : Nat := if t.bits = 64 then 16 else 32

def FTy.ty : FTy → Ty
  | .f64 => .f64
  | .f32 => .f32
  | .bf16 => .bf16
  | .f16 => .f16

/-- The integer that a code of an integer type is. -/
def Ty.toInt (t : Ty) (x : Nat) : Int :=
  let n := t.bits
  if t.signed && (x % 2 ^ n).testBit (n - 1) then ((x % 2 ^ n : Nat) : Int) - (2 ^ n : Nat) else (x % 2 ^ n : Nat)

/-- The range of an integer type (R78). -/
def Ty.lo (t : Ty) : Int := if t.signed then -((2 ^ (t.bits - 1) : Nat) : Int) else 0
def Ty.hi (t : Ty) : Int := if t.signed then ((2 ^ (t.bits - 1) : Nat) : Int) - 1 else ((2 ^ t.bits : Nat) : Int) - 1

end Sys2Proof

namespace Sys2Proof.Machine

/-- The low bits of an integer, as a code. -/
def ofIntN (n : Nat) (i : Int) : Nat := (i % ((2 ^ n : Nat) : Int)).toNat

/-- Clamp to the range of a type, with SAT when that changed the value (R78). -/
def clampTo (t : Ty) (i : Int) : Nat × Fl :=
  if i < t.lo then (ofIntN t.bits t.lo, flSat)
  else if i > t.hi then (ofIntN t.bits t.hi, flSat)
  else (ofIntN t.bits i, flNone)

/-- Conversion of a value to an integer type (R88). -/
def fpToInt (td : Ty) (rm : Rm) (sat : Bool) (v : Fp) : Nat × Fl :=
  match v with
  | .nan _ => (0, flInv)
  | .inf neg => if sat then (ofIntN td.bits (if neg then td.lo else td.hi), flSat) else (0, flInv)
  | .fin neg m e =>
    -- beyond 2^1100 only the range decides, so no wide shift is made
    let huge := decide (log2At m e > 1100)
    let (n, inx) := if huge then ((if neg then -(2 ^ 80 : Nat) else (2 ^ 80 : Nat) : Int), false) else toInt rm neg m e
    let g := flIf inx flInx
    if n < td.lo ∨ n > td.hi then
      if sat then (ofIntN td.bits (if n < td.lo then td.lo else td.hi), g ||| flSat) else (ofIntN td.bits n, g ||| flInv)
    else (ofIntN td.bits n, g)

/-- Conversion of one value (R87, R88). -/
def convert (td ts : Ty) (rm : Rm) (sat : Bool) (x : Nat) : Nat × Fl :=
  match td.fmt?, ts.fmt? with
  | some fd, some fs =>
    let v := fs.dec x
    if td = ts then (if v.isNan then fd.nanCode else x % 2 ^ ts.bits, v.sigFl)
    else fd.enc rm v v.sigFl
  | some fd, none =>
    let i := ts.toInt x
    fd.enc rm (.fin (decide (i < 0)) i.natAbs 0) flNone
  | none, some fs => fpToInt td rm sat (fs.dec x)
  | none, none =>
    let i := ts.toInt x
    if sat then clampTo td i else (ofIntN td.bits i, flNone)

/-! ### SP32 (R83, R84) -/

def spInvalid : Nat := 0xFFFFFFFF

/-- The value of an SP32 pattern: `none` when invalid, else m × 2^e. -/
def spDec (x : Nat) : Option (Nat × Int) :=
  let e := (x >>> 20) % 4096
  if e = 0 then some (0, 0)
  else if e = 4095 then none
  else some (2 ^ 20 + x % 2 ^ 20, (e : Int) - 2067)

/-- `SPR` (R84). -/
def spr (m : Nat) (e : Int) : Nat × Fl :=
  if m = 0 then (0, flNone)
  else
    let top : Int := log2At m e
    let (n, inx) := roundAt .rne false m e (top - 20)
    let (n, top) := if n = 2 ^ 21 then (2 ^ 20, top + 1) else (n, top)
    if top ≥ 2048 then (0xFFEFFFFF, flSpovf)
    else if top < -2046 then (0, flSpunf)
    else ((top + 2047).toNat * 2 ^ 20 + (n - 2 ^ 20), flIf inx flInx)

/-- Addition of two SP32 values with SPR (R84). -/
def spAdd (a b : Nat) : Nat × Fl :=
  match spDec a, spDec b with
  | some (m, e), some (n, g) =>
    if m = 0 then spr n g else if n = 0 then spr m e
    else let q := min e g; spr (m <<< (e - q).toNat + n <<< (g - q).toNat) q
  | _, _ => (spInvalid, flInv)

/-- Multiplication of two SP32 values with SPR (R84). -/
def spMul (a b : Nat) : Nat × Fl :=
  match spDec a, spDec b with
  | some (m, e), some (n, g) => spr (m * n) (e + g)
  | _, _ => (spInvalid, flInv)

/-- FP32 addition and multiplication on codes, RNE. -/
def f32Add (a b : Nat) : Nat × Fl := let (x, f) := (fF32.dec a).add (fF32.dec b); fF32.enc .rne x f
def f32Mul (a b : Nat) : Nat × Fl := let (x, f) := (fF32.dec a).mul (fF32.dec b); fF32.enc .rne x f

end Sys2Proof.Machine
end

