-- ==== Sys2Proof/Machine/Cells.lean ====
section
/-! DEFINITION. Sparse storage in one canonical form: a list of (index, value) pairs with strictly rising indexes, none
holding the value that an unlisted index reads as. Memory is such a list of bytes. -/

namespace Sys2Proof.Machine

/-- Sparse storage keyed by a number. -/
abbrev Cells (α : Type) := List (Nat × α)

/-- The value at index `k`; an unlisted index reads as `d`. -/
def cget {α : Type} (d : α) : Cells α → Nat → α
  | [], _ => d
  | (j, v) :: r, k => if k = j then v else cget d r k

/-- Insert `v` at index `k`, without regard to the default. -/
def cins {α : Type} : Cells α → Nat → α → Cells α
  | [], k, v => [(k, v)]
  | (j, w) :: r, k, v =>
    if k < j then (k, v) :: (j, w) :: r
    else if k = j then (k, v) :: r
    else (j, w) :: cins r k v

/-- Remove index `k`. -/
def cdel {α : Type} : Cells α → Nat → Cells α
  | [], _ => []
  | (j, w) :: r, k => if k = j then r else (j, w) :: cdel r k

/-- Write `v` at index `k`, keeping the canonical form: the default value is not listed. -/
def cput {α : Type} [DecidableEq α] (d : α) (m : Cells α) (k : Nat) (v : α) : Cells α :=
  if v = d then cdel m k else cins m k v

/-- Every index of `m` is above `k`. -/
def cabove {α : Type} (k : Nat) : Cells α → Bool
  | [] => true
  | (j, _) :: _ => decide (k < j)

/-- The canonical form: strictly rising indexes, no default value listed. -/
def cwf {α : Type} [DecidableEq α] (d : α) : Cells α → Bool
  | [] => true
  | (j, v) :: r => decide (v ≠ d) && cabove j r && cwf d r

/-- Memory: bytes by physical key (Ops.lean lays the keys out). -/
abbrev Mem := List Host.Cell

/-- The byte at key `a`. A byte that nothing has written reads 0 (DESIGN CHOICE, log entry 3). -/
def memGet (m : Mem) (a : Nat) : Byte := cget 0#8 m a

/-- Write one byte. -/
def memPut (m : Mem) (a : Nat) (b : Byte) : Mem := cput 0#8 m a b

/-- Write bytes at rising keys from `a`. -/
def memPutList (m : Mem) (a : Nat) : List Byte → Mem
  | [] => m
  | b :: bs => memPutList (memPut m a b) (a + 1) bs

/-- The `n` bytes from key `a` as one little-endian number (R4). -/
def memNat (m : Mem) (a : Nat) : Nat → Nat
  | 0 => 0
  | n + 1 => (memGet m a).toNat + 256 * memNat m (a + 1) n

/-- The `n` bytes from key `a`. -/
def memBytes (m : Mem) (a : Nat) : Nat → List Byte
  | 0 => []
  | n + 1 => memGet m a :: memBytes m (a + 1) n

/-- The low `n` bytes of a number, lowest first (R4). -/
def natBytes (x : Nat) : Nat → List Byte
  | 0 => []
  | n + 1 => BitVec.ofNat 8 x :: natBytes (x / 256) n

/-- Bytes as one little-endian number. -/
def bytesNat : List Byte → Nat
  | [] => 0
  | b :: bs => b.toNat + 256 * bytesNat bs

/-- The canonical form of memory. -/
abbrev Mem.wf (m : Mem) : Bool := cwf 0#8 m

end Sys2Proof.Machine
end

