-- ==== Sys2Proof/Machine/State.lean ====
section
/-! DEFINITION. The state of one GK1 package as plain data, and `State.reset`. INVENTORY.md lists every piece with its rule. -/

namespace Sys2Proof.Machine

/-- What a step stops with as a fault. The GK1 itself reports every error by a trap, a barrier object or an error record,
all of which are next states, so only a package that cannot move at all faults. -/
inductive Fault where
  /-- Raised by `step` when both clocks are stopped after a thermal trip (R24) and no reset or power event is waiting.
  Safe: the package does nothing more until it is booted again. -/
  | clocksStopped
  /-- Raised by `step` when power is lost (R387) and no boot is waiting. Safe, as above. -/
  | poweredOff
  /-- Raised by `step` when no core runs and no event is waiting, so that nothing is left to do (for example in recovery,
  R388, without an image). Safe: the machine waits for the outside world. -/
  | nothingToDo
  deriving DecidableEq, Repr

/-- What a step stops with as a refusal. -/
inductive Refusal where
  /-- An instruction whose meaning is not written. Safe: nothing is claimed of it. -/
  | notModelled (mnemonic : String)
  deriving DecidableEq, Repr

/-- State of a target-buffer entry (R102). -/
inductive TbState where
  | empty | filling | ready
  deriving DecidableEq, Repr

/-- A target-buffer entry (R29, R102): the words it holds are the target's first eight. -/
structure TbEntry where
  st      : TbState
  target  : BitVec 12
  lk      : Bool
  readyAt : Nat
  words   : Cells (Option BWord)
  deriving DecidableEq, Repr

/-- Causes of a freeze or an idle wait that a bundle begins (R38 and the entries that freeze "with the same effect"). -/
inductive Wait where
  | lateLanding | tlbMiss | tbFill | lockBanks | engineQueue | arrayQueue | barrierObject (key : Nat) | arrayWork | fence | reply
  | readyList | provisional | recv | tile | transition | drain | idle | stall
  deriving DecidableEq, Repr

/-- A trap as a bundle raises it (R28, R407). `next` is true for TRAP, SYSC and BKPT, whose bundle commits. -/
structure TrapReq where
  code      : BitVec 8
  slot      : Nat
  info      : Word
  next      : Bool
  afterWait : Bool
  deriving DecidableEq, Repr

/-- What became of the operation in hand (R28, R430). -/
inductive Verdict where
  | issued
  | waits (w : Wait)
  | trapped (t : TrapReq)
  deriving DecidableEq, Repr

/-- The state a core is in (R282); `idle` is IDLE of R366. -/
inductive WaitState where
  | running | atBar | atEbar | atWfe | atJoin | atTaskend | atIdle | atExit | exited
  deriving DecidableEq, Repr

/-- An entry of the deferral queue (R133). -/
structure DqEntry where
  lane : BitVec 5
  tag  : BitVec 27
  w0   : BitVec 32
  w1   : BitVec 32
  w2   : BitVec 32
  w3   : BitVec 32
  deriving DecidableEq, Repr

/-- An entry of the fork deque (R290); `owner` is the core that forked the task. -/
structure ForkEntry where
  task  : BitVec 8
  depth : Nat
  arg0  : Word
  arg1  : Word
  owner : Nat
  deriving DecidableEq, Repr

/-- A frame of the frame stack (R290, R292): tasks outstanding, return word, the clock that completion notices carried,
and the core and depth that are told when the frame's task ends. -/
structure Frame where
  count    : Nat
  ret      : BitVec 12
  clock    : Nat
  owner    : Nat
  ownerDepth : Nat
  deriving DecidableEq, Repr

/-- A completion notice on its way: the core and depth that forked the task, the clock it carries, and the unfrozen cycle
in which it arrives (R293). -/
structure TaskNotice where
  core  : Nat
  depth : Nat
  clock : Nat
  due   : Nat
  deriving DecidableEq, Repr

/-- The general registers of a core (R29). Queues are newest first. -/
structure Regs where
  g  : Vector Word 16
  q  : List Word
  p  : Vector Bool 8
  v  : Vector Vec 16
  vq : List Vec
  k  : Vector (BitVec 32) 8
  deriving DecidableEq, Repr

/-- The program-level control registers (R41) that are not views of other state. `releasedAt` is the physical cycle of
release, from which `CYCLE` counts. -/
structure Ctl where
  chk        : Bool
  slotmap    : BitVec 8
  releasedAt : Nat
  vcore      : BitVec 8
  gang       : BitVec 16
  inst       : BitVec 32
  extent     : BitVec 32
  spemode    : Bool
  speqs      : BitVec 12
  adjoff     : BitVec 12
  flags      : BitVec 8
  latch      : Bool
  lrfirst    : BitVec 8
  lrlast     : BitVec 8
  solo       : Bool
  own        : Bool
  deriving DecidableEq, Repr

/-- A SEND chunk on its way (R264): due in the sender's unfrozen cycles; `sender` names the sending core and its job, and is
absent for a chunk of another package (R265). -/
structure Chunk where
  due    : Nat
  dest   : Nat
  key    : Nat
  ctr    : RegNo
  data   : List Byte
  sender : Option (Nat × Nat)
  deriving DecidableEq, Repr

/-- What trap entry keeps aside and ERET restores (R406), and the gang's unfrozen count at the trap (R412), by which the chunks of the
program's SENDs and its events land (R264, R289): they wait with the gang. -/
structure Shadow where
  q      : List Word
  vq     : List Vec
  tb     : Vector TbEntry 8
  cur    : BitVec 32
  nxt    : BitVec 32
  cursor : BitVec 5
  latch  : Option (Vec × Bf)
  unf    : Nat
  chunks : List Chunk
  events : List (Nat × Nat)
  deriving DecidableEq, Repr

/-- Privilege, translation and trap registers of a core (R349, R368), the trap shadow, and a trap that is still draining,
forwarded or held by a provisional instance (R406, R409, R312), with the drain cycles it has taken. -/
structure Exc where
  level    : BitVec 2
  trapvec  : BitVec 12
  trappc   : BitVec 12
  cause    : BitVec 8
  plvl     : BitVec 2
  info     : Word
  asid     : BitVec 16
  ttlo     : BitVec 12
  tthi     : BitVec 12
  ptroot   : BitVec 44
  allow    : Bool
  pend     : Bool
  active   : Bool
  shadow   : Option Shadow
  entering : Option TrapReq
  drains   : Nat
  deriving DecidableEq, Repr

/-- A lock span in progress: bundles still to come, and the banks (R48). -/
structure Lock where
  left  : Nat
  banks : BitVec 16
  deriving DecidableEq, Repr

/-- A lock hold: its banks, and the issue cycles of the bundles of its spans so far (R48). -/
structure Hold where
  banks  : BitVec 16
  issues : List Nat
  deriving DecidableEq, Repr

/-- Fetch and control flow of a core (R40, R43, R102). `slot`, `len`, `advance` (whether
its commit advances the cursor, R105) and `verdict` belong to the bundle in hand.
`issued` says that the core has had its turn of this unfrozen cycle, in which a peer froze the gang after it (R38, R278).
`skip` counts unfrozen cycles without an issue before the next fetch (R284, R292, R293). `prefetch` holds the words that a
transfer brought and that are not yet fetched (R102). -/
structure Flow where
  pc       : BitVec 12
  nextPc   : BitVec 12
  len      : Nat
  slot     : Nat
  stall    : Option Nat
  skip     : Nat
  issued   : Bool
  tb       : Vector TbEntry 8
  cur      : BitVec 32
  nxt      : BitVec 32
  cursor   : BitVec 5
  advance  : Bool
  prefetch : Cells (Option BWord)
  lock     : Option Lock
  hold     : Option Hold
  verdict  : Verdict
  deriving DecidableEq, Repr

/-- What a fixed-latency result writes when it completes (R33). -/
inductive Result where
  | scalar (d : Dst) (v : Word)
  | link (v : Word)
  | vector (d : Dst) (v : Vec)
  | pred (p : Small) (b : Bool)
  | mask (k : Small) (m : BitVec 32)
  | condNext (m : BitVec 32)
  | cvadv
  | ctl (idx : BitVec 12) (v : Word)
  | flags (f : BitVec 8)
  | scratch (zs : List (Nat × BitVec 32))
  | adjoints (sp : Bool) (zs : List (Nat × BitVec 32)) (f : BitVec 8)
  | latch (side : Vec) (bf : Bf)
  | defer (es : List DqEntry)
  | tile (ws : List (Nat × BitVec 32))
  | zeroTile (t : Nat)
  | bind (s : RegNo) (obj : Option (Nat × Nat))
  | fork (e : ForkEntry)
  | solo (b : Bool)
  | freeze (n : Nat)
  deriving DecidableEq, Repr

/-- A result in flight: its completion cycle, and the issue cycle and slot that order it (R33). -/
structure Pending where
  due   : Nat
  issue : Nat
  slot  : Nat
  act   : Result
  deriving DecidableEq, Repr

/-- Where a landing writes (R36, R158, R179, R326, R334). A notice carries its timestamp above its 64 bits. -/
inductive LandDst where
  | scalar (d : Dst) (n : Nat) (sx : Bool)
  | notice (d : Dst)
  | vector (d : Dst)
  | vldv (d : Dst) (k : Small)
  | stream (s : RegNo)
  | nest
  | shape (n : Nat)
  | mepi
  deriving DecidableEq, Repr

/-- A pending landing (R37). `val` is the value once the access is performed; `bad` is the `TRAPINFO` of an
uncorrectable error; `counts` is false for descriptor reads, which take no landing-buffer entry. `need` is the latency of
the window, from which a shortfall is frozen (R37, R432). -/
structure Landing where
  due     : Nat
  issue   : Nat
  slot    : Nat
  dst     : LandDst
  val     : Option Vec
  valid   : Bool
  bad     : Option Word
  arrived : Bool
  counts  : Bool
  need    : Nat
  deriving DecidableEq, Repr

/-- One piece of a load: bit offset in the result, physical key, bytes. -/
structure LoadPiece where
  lo  : Nat
  key : Nat
  n   : Nat
  deriving DecidableEq, Repr

/-- One piece of a store: physical key and bytes. -/
structure StorePiece where
  key  : Nat
  data : List Byte
  deriving DecidableEq, Repr

/-- Where a chunk of a SEND goes (R260): a core of this package with its physical key, or a package with the gang, virtual
core, memory and offset that its peer resolves. -/
inductive SendTo where
  | here (core key : Nat)
  | there (pkg gang vc : Nat) (win : Bool) (off : Nat)
  deriving DecidableEq, Repr

/-- What a scheduled access does when it is performed (R212, R264); a BOINIT or BOARM of an object in a scheduled window
takes no bank cycle (R244). -/
inductive SchedKind where
  | load (base : Vec) (ps : List LoadPiece) (addr : Word)
  | store (ps : List StorePiece)
  | send (key lat : Nat) (dest : SendTo) (ctr : RegNo) (seq : Nat)
  | bo (key exp : Nat) (arm : Bool)
  deriving DecidableEq, Repr

/-- A scheduled access in flight, by perform cycle (R212). -/
structure Sched where
  due   : Nat
  issue : Nat
  slot  : Nat
  kind  : SchedKind
  deriving DecidableEq, Repr

/-- A coherent access of a core waiting for its place in T, in program order (R223, R224). `early` is a value that an
atomic's location held at its issue (R232, .spc); `bo` is a BOINIT, or with `arm` a BOARM (R244); `tag` reads an (F, G) word for
the VSTV of the same bundle and slot (R333). -/
inductive CohKind where
  | load (base : Vec) (ps : List LoadPiece) (addr : Word) (acq : Bool)
  | store (ps : List StorePiece) (rel : Bool)
  | atomic (op : AtOp) (ty : AtTy) (use : AtUse) (key : Nat) (b : Word) (addr : Word) (early : Option Nat)
  | cas (use : AtUse) (key n : Nat) (b c : Word) (addr : Word) (early : Option Nat)
  | bo (key exp : Nat) (arm : Bool)
  | tag (fgKey : Nat)
  deriving DecidableEq, Repr

structure Coh where
  seq   : Nat
  issue : Nat
  slot  : Nat
  kind  : CohKind
  deriving DecidableEq, Repr

/-- A `.com` atomic that is not yet applied (R251). -/
structure ComAtomic where
  seq   : Nat
  issue : Nat
  op   : AtOp
  ty   : AtTy
  key  : Nat
  b    : Word
  addr : Word
  deriving DecidableEq, Repr

/-- A CWB, or with `drop` a CINV, that is not yet complete: its range (R246). -/
structure CacheOp where
  issue : Nat
  addr  : Nat
  len   : Nat
  drop  : Bool
  deriving DecidableEq, Repr

/-- An operation of the draft-state region (R237): a part write with its tag once it is known, or a part read for a landing. -/
inductive RegionOp where
  | vstv (issue slot key fgKey : Nat) (pos : BitVec 32) (gen : Option (BitVec 32)) (lanes : List (Nat × List Byte))
  | vldv (issue slot key fgKey : Nat) (pos : BitVec 32)
  deriving DecidableEq, Repr

/-- A copy of a line in an L1 or in the draft L2, with its lease (R219, R224). -/
structure Lease where
  line : Nat
  wts  : Nat
  rts  : Nat
  data : Mem
  deriving DecidableEq, Repr

/-- A line of the verify L2 (R219): its way, and whether it is newer than HBM. Its bytes are those of memory. -/
structure L2Line where
  line  : Nat
  way   : Nat
  dirty : Bool
  deriving DecidableEq, Repr

/-- A TLB entry: tag, global bit, virtual base and size, physical base, permissions (R356, R359). -/
structure TlbEntry where
  asid : BitVec 16
  g    : Bool
  va   : Nat
  size : Nat
  pa   : Nat
  w    : Bool
  u    : Bool
  h    : Bool
  deriving DecidableEq, Repr

/-- The access that a walk serves: virtual address, whether it writes, whether it is an atomic (R358, R360). -/
structure WalkReq where
  va     : Nat
  write  : Bool
  atomic : Bool
  deriving DecidableEq, Repr

/-- What an engine keeps of the issue of its operation: its place in program order, its unfrozen and its physical cycle, the level and
the translation registers that its checks use (R226, R254, R350, R363), and its clock once it has one (R230). -/
structure Issued where
  seq    : Nat
  issue  : Nat
  since  : Nat
  level  : BitVec 2
  asid   : BitVec 16
  ptroot : BitVec 44
  clock  : Option Nat
  deriving DecidableEq, Repr

/-- What the copy engines do (R255 to R257, R190, R193). Operands are generic addresses and words; `tile` is the physical
tile that a CPYS of KIND 2 reads. -/
inductive CopyOp where
  | cpy (a b c : Word)
  | cpyp (a b c : Word)
  | cpyg (a b c : Word)
  | cpys (a b c : Word) (tile : Nat)
  | smrg (a b : Word)
  deriving DecidableEq, Repr

/-- A job of a copy engine: its object, how far a plain copy has moved, and the largest timestamp it has written
(R216, R230, R253). -/
structure CopyJob extends Issued where
  obj   : Nat
  op    : CopyOp
  moved : Nat
  stamp : Nat
  deriving DecidableEq, Repr

/-- A job of the communication engine (R262, R267, R274): a SEND with what is still to be performed, a remote SEND with its peer and flow and
the chunks still to be acknowledged, a SEND that is over and has its bytes, or with a cause its fault, still to report on its object (R217,
R241), a RECVADD that has claimed or not, a TTSET with its image's address. -/
inductive CommOp where
  | send (left total : Nat)
  | sendRemote (pkg flow left total : Nat)
  | report (n cause : Nat)
  | recvadd (a b c : Word) (claimed : Bool)
  | ttset (addr : Nat) (idx : Nat)
  deriving DecidableEq, Repr

structure CommJob extends Issued where
  obj   : Nat
  op    : CommOp
  deriving DecidableEq, Repr

/-- What the Scruple or the front end answers to an operation that waits for it (R338): a value, or a trap. -/
inductive Reply where
  | value (v : Word)
  | trap (t : TrapReq)
  deriving DecidableEq, Repr

/-- Loads, stores, engines, clocks and arrivals of a core. `events` lists the events that it has sent, with the unfrozen cycle in which each
lands, and its target (R289). `taken` lists the scheduled accesses performed in this unfrozen
cycle (R215, R432). `grants` lists, by engine and by the place of its operation, the bank cycles that an access still waits for (R216). `relaxed` lists the lines
that relaxed atomics wrote since the last fence (R232, R233); `mcheck` is a bad landing of this cycle that the bundle due now
reports (R400); `walkOwn` holds the stores of the waiting bundle that precede the access of `walk` (R361); `drift` is the physical cycle of the next drift of `pts` (R224), and `stamp` the largest timestamp that the core's engines
have written (R280). -/
structure Port where
  sched    : List Sched
  taken    : List Sched
  grants   : List (Nat × Nat × Cells Nat)
  cohQ     : List Coh
  landings : List Landing
  pend     : List Pending
  comQ     : List ComAtomic
  comErr   : Option Word
  cacheOps : List CacheOp
  relaxed  : List Nat
  region   : List RegionOp
  chunks   : List Chunk
  events   : List (Nat × Nat)
  cq0      : List CopyJob
  cq1      : List CopyJob
  nq       : List CommJob
  seq      : Nat
  pts      : Nat
  stamp    : Nat
  drift    : Nat
  l1       : List Lease
  tlb      : List TlbEntry
  walk     : Option WalkReq
  walkOwn  : List StorePiece
  walkFault : List (WalkReq × BitVec 3)
  walkBad  : List WalkReq
  counters : Vector (BitVec 32) 16
  rollback : List Word
  reply    : Option Reply
  mcheck   : Option Word
  deriving DecidableEq, Repr

/-- Element format of an accumulator tile (R156). -/
inductive TileFmt where
  | fp32 | fp64 | int32
  deriving DecidableEq, Repr

/-- A stream register with the binding that STBIND gives it: object and granule (R144, R258). -/
structure StreamReg where
  bits : BitVec 256
  bind : Option (Nat × Nat)
  deriving DecidableEq, Repr

/-- The shadow of a running MGO (R149): configuration copied at the read step, the steps done, the accumulator indexes
that they wrote. `due` is the physical cycle in which the step under way ends (R34, R151). -/
structure Nest extends Issued where
  sa    : StreamReg
  sb    : StreamReg
  nest  : BitVec 256
  acc   : Nat
  accum : Bool
  ser   : Bool
  done  : Nat
  due   : Option Nat
  touched : List Nat
  deriving DecidableEq, Repr

/-- An epilogue in the array queue (R164): tile name, descriptor once it is read, its address, whether it was bad. Once it has begun,
`left` holds the 64-byte writes that are still to come (R374), `stuck` whether the last of them meets an uncorrectable unit, and `stamp`
its largest timestamp so far. -/
structure Epi extends Issued where
  acc   : Nat
  desc  : Option (BitVec 512)
  addr  : Word
  bad   : Bool
  left  : Option (List StorePiece)
  stuck : Bool
  stamp : Nat
  deriving DecidableEq, Repr

/-- A place of the array queue (R151). -/
inductive ArrJob where
  | mgo (n : Nest)
  | mepi (e : Epi)
  deriving DecidableEq, Repr

/-- Matrix state of a core (R141 to R156, R167) and the scale latch of R130. -/
structure Mtx where
  streams : Vector StreamReg 16
  nest    : BitVec 256
  arrQ    : List ArrJob
  flags   : BitVec 8
  fault   : Option (BitVec 8 × Word)
  latch   : Option (Vec × Bf)
  deriving DecidableEq, Repr

/-- Sum-product state of a core (R168). -/
structure Spe where
  z      : Cells (BitVec 32)
  shapes : Cells (BitVec 256)
  deriving DecidableEq, Repr

/-- Tasks and waiting of a core (R282, R290). `probe` is the place in ring order of the probe under way and `probeAt` the
unfrozen cycle in which it ends, `taken` a task in hand, `releaseAt` the cycle of a barrier release (unfrozen for BAR,
physical for EBAR), `probed` the unfrozen cycle in which the tail of the deque was last probed (R294). -/
structure Tasks where
  deque  : List ForkEntry
  frames : List Frame
  wait   : WaitState
  probe  : Nat
  probeAt : Option Nat
  taken  : Option ForkEntry
  releaseAt : Option Nat
  probed : Option Nat
  deriving DecidableEq, Repr

/-- One core, or the urgent context that runs on a core (`urg`, R369). `id` is the value of `CORE`: die × 1024 + index;
`name`, by which other records and events name it, is `id`, or `id + 65536` for an urgent context.
`clock` is the physical cycle it has reached, `unf` its gang's unfrozen count, `owed` the frozen cycles it still owes its
gang, `lost` those that it owes from the next cycle on (R38), `dq` the deferral queue. `launch` names the launch slot and instance it belongs to, if any, and `crew` the members of
an instance that has been ended or trimmed, whose engine operations run to their end (R304, R313). -/
structure Core where
  id       : Nat
  urg      : Bool
  fw       : Bool
  clock    : Nat
  unf      : Nat
  owed     : Nat
  lost     : Nat
  imem     : Cells BWord
  regs     : Regs
  ctl      : Ctl
  exc      : Exc
  flow     : Flow
  port     : Port
  mtx      : Mtx
  spe      : Spe
  tasks    : Tasks
  dq       : List DqEntry
  launch   : Option (Nat × Nat)
  crew     : List (Nat × Nat × Nat)
  trapFrozen : Bool
  stopped  : Bool
  resumeAt : Option Nat
  prov     : Bool
  deriving DecidableEq, Repr

/-- The name of a core record. -/
def Core.name (c : Core) : Nat := if c.urg then c.id + 65536 else c.id

/-- A row store's repair state (R397, R398): corrections by bank in this pass, the failed banks, the bank the spare
serves, and the rebuild pointer. -/
structure RowRepair where
  store   : RowStore
  counts  : List (Nat × Nat)
  failed  : List Nat
  spare   : Option Nat
  pointer : Nat
  deriving DecidableEq, Repr

/-- A storage unit that holds an uncorrectable error (R395, R399): a 256-byte block of the coherent class, an 8-byte or
row unit of scheduled storage, by physical key and length; an instruction slot; a register or scratch register of a core
(coded as R408 ORIGIN 4, with kinds 6 and 7 for stream registers and shape entries, log entry 151); an element of an accumulator tile. `soft`
is a register, or with kind 8 an instruction word, that holds one wrong bit, which every read corrects and counts. -/
inductive BadUnit where
  | bytes (key n : Nat)
  | imem (core word : Nat)
  | reg (core code : Nat)
  | tile (core t : Nat)
  | soft (core code : Nat)
  deriving DecidableEq, Repr

/-- An error record (R401). -/
structure ErrRec where
  src    : BitVec 16
  seq    : Nat
  cls    : BitVec 4
  cause  : BitVec 8
  addr   : Word
  time   : Nat
  detail : Word
  deriving DecidableEq, Repr

/-- A notice of the ready list with its timestamp (R323, R325). -/
structure Notice where
  word  : Word
  stamp : Nat
  deriving DecidableEq, Repr

/-- A push whose window writes and notice are still to come (R325). -/
structure Post where
  core   : Nat
  writes : List StorePiece
  word   : Word
  clock  : Nat
  deriving DecidableEq, Repr

/-- What the Scruple has taken, in order of arrival (R328, R338): a round with its issuing core, record, barrier object, next entry, and, once
its header has been read, the place of its results, its number of entries and the sequences of the entries so far;
a configuration with the address of its image, and the stores of earlier slots of its bundle, which precede it (R340). -/
inductive ScrJob where
  | round (core part : Nat) (addr : Word) (obj : Nat) (job : Issued) (entry : Nat) (header : Option (Nat × Nat)) (seen : List Nat)
  | config (core part idx : Nat) (addr : Word) (job : Issued) (own : List StorePiece)
  deriving DecidableEq, Repr

/-- A firing of a tile-table entry (R270): the setter's clock, whether the contribution is sent, whether the send phase has
ended, the core that set the ready flag (R280), and what its engine kept of the issue that set it (R226). -/
structure Firing where
  clock    : Nat
  fired    : Bool
  sent     : Bool
  setter   : Nat
  job      : Issued
  deriving DecidableEq, Repr

/-- A tile-table entry that is not zero (R268, R269, R271): `core` is the core whose TTSET wrote it and `job` what its engine kept of that
TTSET's issue, `pending` a pending firing,
`staged` what has arrived or was placed, `written` the positions of a copy that are written, `slots` the reserved staging slots, and `owed` the
faults that a lock hold keeps from the object's bank: cause and translation fault (R217). -/
structure TileEntry where
  die     : Bool
  idx     : Nat
  core    : Nat
  job     : Issued
  image   : BitVec 512
  firing  : Option Firing
  pending : Option Firing
  staged  : List TileChunk
  written : List Nat
  slots   : List Nat
  owed    : List (Nat × Option Word)
  deriving DecidableEq, Repr

/-- State of a queue (R299, R302). -/
inductive QState where
  | idle | ready | running | waiting | parked | error
  deriving DecidableEq, Repr

/-- The front end's copy of a queue (R298, R299). `raised` is how far priority has risen (R303); `since` is the wall-clock time
at which its state was entered, and `paused` the time since then that does not count for its timeout (R376). -/
structure Queue where
  part   : Nat
  num    : Nat
  recKey : Nat
  ring   : Word
  lsz    : Nat
  prio   : Nat
  tol    : Nat
  tmo    : Nat
  rd     : Nat
  wr     : Nat
  st     : QState
  res    : Bool
  cause  : BitVec 8
  pkt    : Nat
  wsig   : Word
  raised : Nat
  asid   : BitVec 16
  since  : Nat
  paused : Nat
  deriving DecidableEq, Repr

/-- State of an instance of a launch (R309, R392). -/
inductive IState where
  | waitDef | waitProv | runDef | runProv | held | finished | trimmed | complete
  deriving DecidableEq, Repr

/-- An instance: index, state, cores placed (gang, virtual core, `CORE`), whether it is loaded, its provisional writes
(R236, R312), the ready flags that its epilogues hold back (R269): die, index, firing, the time of its last restore (R381), its gangs that are held
(R312), and whether a save of it is requested (R381). -/
structure Inst where
  idx    : Nat
  st     : IState
  cores  : List (Nat × Nat × Nat)
  loaded : Bool
  buf    : List StorePiece
  flags  : List (Bool × Nat × Firing)
  restored : Option Nat
  held   : List Nat
  save   : Bool
  deriving DecidableEq, Repr

/-- A launch (R305, R307, R308): `clock` is the pts that its cores start with, `top` the largest pts of its completed cores
(R280), `since` the wall-clock time of its dispatch and `paused` the time since then that does not count for its
timeout (R304, R376), `preset` whether its shared PBO has been preset (R279). -/
structure Launch where
  slot   : Nat
  gen    : Nat
  part   : Nat
  asid   : BitVec 16
  qnum   : Nat
  pkt    : Nat
  parent : Option Nat
  image  : Nat
  floor  : Nat
  ceil   : Nat
  src    : Nat
  pred   : Bool
  site   : Nat
  evt    : Bool
  sig    : Word
  done   : Word
  pbo    : Word
  pexp   : Nat
  shape  : Option Nat
  low    : Bool
  tail   : Bool
  err    : Bool
  fin    : Bool
  clock  : Nat
  top    : Nat
  since  : Nat
  paused : Nat
  preset : Bool
  urgent : Option Nat
  insts  : List Inst
  deriving DecidableEq, Repr

/-- A gang of a loaded image (R64, R68, R279): die, grid, array mode, urgency, task entries, and for each virtual core its
text, entry word and presets. -/
structure GangText where
  vcore : Nat
  entry : BitVec 12
  words : Cells BWord
  deriving DecidableEq, Repr

structure GangImg where
  die     : Bool
  cols    : Nat
  rows    : Nat
  solo    : Bool
  urgent  : Bool
  tasks   : List (BitVec 12)
  texts   : List GangText
  streams : List (Nat × BitVec 256)
  nest    : BitVec 256
  shapes  : List (Nat × BitVec 256)
  trapvec : BitVec 12
  deriving DecidableEq, Repr

/-- A loaded image (R305 IMAGE): number, context, gangs. -/
structure Image where
  num    : Nat
  part   : Nat
  asid   : BitVec 16
  ttlo   : BitVec 12
  tthi   : BitVec 12
  ptroot : BitVec 44
  gangs  : List GangImg
  deriving DecidableEq, Repr

/-- A pre-emption in progress (R372 to R380): the cores of the victim gang, the urgent launch slot, whether the urgent cores are
released, whether the urgent launch has completed, the physical cycle and the wall-clock time of the stop once it has come, and the launch
slot of the victim. -/
structure Preempt where
  victims  : List Nat
  launch   : Nat
  released : Bool
  done     : Bool
  since    : Nat
  wall     : Option Nat
  slot     : Option Nat
  deriving DecidableEq, Repr

/-- A saved instance (R381): its core records, tiles with their formats, scheduled memories, and errors in them, its completion notices on
their way, its pre-emptions, and whether its restore is requested. -/
structure Saved where
  cores : List Core
  tiles : Cells (BitVec 32)
  fmts  : Cells TileFmt
  mem   : Mem
  bad   : List BadUnit
  notices : List TaskNotice
  stops : List Preempt
  wanted : Bool
  deriving DecidableEq, Repr

/-- A packet handed to the network: package, local port, the address of the peer's endpoint as its entry gives it (R276, R418), and what it carries: a tile-table chunk for an entry of a die, or a
SEND chunk (R265, R270, R276), or the refusal of a chunk (R273). -/
inductive NetBody where
  | tile (die : Bool) (idx : Nat) (chunk : TileChunk)
  | send (inst gang vc : Nat) (win : Bool) (off : Nat) (ctr : RegNo) (data : List Byte)
  | refusal (die : Bool) (idx : Nat)
  deriving DecidableEq, Repr

structure NetPkt where
  pkg  : Nat
  port : Nat
  addr : BitVec 128
  body : NetBody
  deriving DecidableEq, Repr

/-- A step of a boot-flash update (R386). -/
inductive FlashStage where
  | write | verify | mark
  deriving DecidableEq, Repr

/-- An update in progress: the image, the slot that takes it, the step to come. -/
structure FlashUpdate where
  img   : FwImage
  slot  : Bool
  stage : FlashStage
  deriving DecidableEq, Repr

/-- Firmware, boot and management state (R23, R24, R384 to R391). Flash, fuse and records survive a reset; `hostPts` is the clock of
the host's writes and reads (R238). `wall` is the wall-clock time at physical cycle `wallAt`, from which `clockMHz` holds (R5), `wants`
the clock of a change that waits for its cycle (R23), `reread` the time of the front end's next re-read (R301), and `scrub` the cycle of
the next scrub pass. `update` is the update of the flash under way (R386), `idKey` the device identity key (R389), and `algs` the algorithms
negotiated (R390). -/
structure Boot where
  slotA    : Option FwImage
  slotB    : Option FwImage
  rec0     : BitVec 576
  rec1     : BitVec 576
  svn      : BitVec 32
  pending  : Bool
  recovery : Bool
  power    : Bool
  keys     : List (Nat × List Byte)
  session  : Nat
  thermal  : Bool
  clockMHz : Nat
  wall     : Nat
  wallAt   : Nat
  wants    : Option Nat
  reread   : Nat
  scrub    : Nat
  kept     : List ErrRec
  mgmtOut  : List (String × List Byte)
  hostOut  : List (List Byte)
  hostPts  : Nat
  update   : Option FlashUpdate
  idKey    : Option (BitVec 521)
  algs     : List Config.Algorithm
  deriving DecidableEq, Repr

/-- The package. `core` is the core in focus, `others` every other core that is listed. `grade` lists, by core, the `SLOTMAP` of each core
that is not whole: an engine is missing, or, with 0, the core is disabled (R1, R20, R57). `busy` gives, by bank of the scheduled memories,
the first physical cycle in which it is free (R214), and `arrived` the chunks that wait for their bank, with that cycle. `l2v` and `l2d`
are the L2 of the two dies (R219), `waiters` the cores that wait for a place of the ready list, with the cycle in which each first tried
(R325), and `owned` gives, by line, one more than the name of the core whose L1 holds it with write ownership
and modified (R246). -/
structure State where
  core      : Core
  others    : List Core
  mem       : Mem
  lines     : Cells (Nat × Nat)
  l2v       : List L2Line
  l2d       : List Lease
  owned     : Cells Nat
  tags      : Cells (BitVec 32 × BitVec 32)
  bad       : List BadUnit
  flips     : Mem
  repairs   : List RowRepair
  held      : List Chunk
  busy      : Cells Nat
  arrived   : List (Nat × Chunk)
  tiles     : Cells (BitVec 32)
  tileFmts  : Cells TileFmt
  scopeGang : Cells Nat
  scopeEns  : Cells Nat
  scopePkg  : Nat
  blocks    : Vector (BitVec 256) 4
  depthtab  : Word
  seqs      : Cells (BitVec 512)
  ready     : List Notice
  posts     : List Post
  waiters   : List (Nat × Nat)
  rllim     : BitVec 11
  scrQ      : List ScrJob
  tileTab   : List TileEntry
  ways      : Nat
  peers     : List (Nat × BitVec 256)
  portsUp   : BitVec 8
  netOut    : List NetPkt
  partmap   : Word
  keyctl    : Word
  fwslot    : Word
  ctlb      : List (Nat × TlbEntry)
  queues    : List Queue
  launches  : List Launch
  images    : List Image
  launchGen : Nat
  sites     : Cells (Nat × List (BitVec 32))
  preempts  : List Preempt
  saved     : List Saved
  logV      : List ErrRec
  logD      : List ErrRec
  srcSeq    : Cells Nat
  srcLost   : Cells (Nat × Nat)
  notices   : List TaskNotice
  boot      : Boot
  grade     : Cells (BitVec 8)
  inbox     : List (Nat × Instr)
  agenda    : List (Nat × Instr)
  fresh     : Nat
  deriving DecidableEq, Repr

/-- An empty target-buffer entry (R102: at release every entry is empty). -/
def TbEntry.none : TbEntry := ⟨.empty, 0#12, false, 0, []⟩

/-- General registers at release (R29): all zero, predicate 0 and mask 0 read as ones by the accessors. -/
def Regs.reset : Regs :=
  { g := Vector.replicate 16 0#64, q := List.replicate 16 0#64, p := Vector.replicate 8 false,
    v := Vector.replicate 16 0#1024, vq := List.replicate 16 0#1024, k := Vector.replicate 8 0#32 }

/-- Control registers at package reset (R41, R57; what the loader sets is 0 here, DESIGN CHOICE, log entry 2; every engine enabled). -/
def Ctl.reset : Ctl :=
  { chk := false, slotmap := 0xAF#8, releasedAt := 0, vcore := 0#8, gang := 0#16, inst := 0#32, extent := 0#32,
    spemode := false, speqs := 0#12, adjoff := 0#12, flags := 0#8, latch := false, lrfirst := 0#8, lrlast := 0#8,
    solo := false, own := true }

/-- Privileged registers at package reset (R368): `PRIV.LEVEL` 2, every other field 0. -/
def Exc.reset : Exc :=
  { level := 2#2, trapvec := 0#12, trappc := 0#12, cause := 0#8, plvl := 0#2, info := 0#64, asid := 0#16, ttlo := 0#12,
    tthi := 0#12, ptroot := 0#44, allow := false, pend := false, active := false, shadow := none,
    entering := none, drains := 0 }

/-- Fetch state at package reset: program counter 0 (DESIGN CHOICE, log entry 2), target buffer empty (R102). -/
def Flow.reset : Flow :=
  { pc := 0#12, nextPc := 0#12, len := 1, slot := 0, stall := none, skip := 0, issued := false, tb := Vector.replicate 8 TbEntry.none, cur := 0#32,
    nxt := 0#32, cursor := 0#5, advance := false, prefetch := [], lock := none, hold := none, verdict := .issued }

/-- Nothing in flight, clocks 0 (R29, R224, R261, R359). -/
def Port.reset : Port :=
  { sched := [], taken := [], grants := [], cohQ := [], landings := [], pend := [], comQ := [], comErr := none, cacheOps := [], relaxed := [], region := [],
    chunks := [], events := [], cq0 := [], cq1 := [], nq := [], seq := 0, pts := 0, stamp := 0, drift := 64, l1 := [], tlb := [], walk := none, walkOwn := [],
    walkFault := [], walkBad := [], counters := Vector.replicate 16 0#32, rollback := [], reply := none,
    mcheck := none }

/-- Matrix state at release (R29, R144, R155, R156): zero streams without bindings, FP32 tiles, no latch. -/
def Mtx.reset : Mtx :=
  { streams := Vector.replicate 16 ⟨0#256, none⟩, nest := 0#256, arrQ := [], flags := 0#8, fault := none,
    latch := none }

/-- A frame stack at depth 0 with count 0 (R290). -/
def Tasks.reset : Tasks :=
  { deque := [], frames := [⟨0, 0#12, 0, 0, 0⟩], wait := .running, probe := 0, probeAt := none, taken := none, releaseAt := none, probed := none }

/-- The firmware core of a die at package reset (R351, R368, R382). -/
def Core.reset (id : Nat) : Core :=
  { id := id, urg := false, fw := true, clock := 0, unf := 0, owed := 0, lost := 0, imem := [], regs := Regs.reset, ctl := Ctl.reset,
    exc := Exc.reset, flow := Flow.reset, port := Port.reset, mtx := Mtx.reset, spe := ⟨[], []⟩, tasks := Tasks.reset,
    dq := [], launch := none, crew := [], trapFrozen := false, stopped := false, resumeAt := none, prov := false }

/-- Boot state before the boot ROM has run, with a blank flash (R387; DESIGN CHOICE, log entry 2): the boot is the first event. -/
def Boot.reset : Boot :=
  { slotA := none, slotB := none, rec0 := 0#576, rec1 := 0#576, svn := 0#32, pending := true, recovery := false,
    power := true, keys := [], session := 0, thermal := false, clockMHz := 2500, wall := 0, wallAt := 0, wants := none, reread := 290990700000, scrub := 67108864, kept := [],
    mgmtOut := [], hostOut := [], hostPts := 0, update := none, idKey := none, algs := [] }

/-- The package right after reset. In focus is the firmware core of the verify die; the other listed core is that of the
draft die. No program is loaded: INSTANCE_LOAD lists program cores (DESIGN CHOICE, log entry 5). -/
def State.reset : State :=
  { core := Core.reset 0, others := [Core.reset 1024], mem := [], lines := [], l2v := [], l2d := [], owned := [], tags := [], bad := [], flips := [],
    repairs := [], held := [], busy := [], arrived := [], tiles := [], tileFmts := [], scopeGang := [], scopeEns := [], scopePkg := 0,
    blocks := Vector.replicate 4 0#256, depthtab := 0#64, seqs := [], ready := [], posts := [], waiters := [],
    rllim := 0#11, scrQ := [], tileTab := [], ways := 0, peers := [], portsUp := 0xFF#8, netOut := [], partmap := 0#64,
    keyctl := 0#64, fwslot := 0#64, ctlb := [], queues := [], launches := [], images := [], launchGen := 0, sites := [],
    preempts := [], saved := [], logV := [], logD := [], srcSeq := [], srcLost := [], notices := [],
    boot := Boot.reset, grade := [], inbox := [], agenda := [], fresh := 0 }

end Sys2Proof.Machine
end

