-- ==== Sys2Proof/Machine/Ops.lean ====
section
/-! DEFINITION. The named operations over the package: which core is in focus, registers and result queues, results in
flight, error records, trap entry and return, waits. Memory access is in Access.lean. -/

namespace Sys2Proof.Machine

/-- The answer of every meaning. -/
abbrev Out := Host.Outcome State Fault Refusal

/-- Bits `lo` to `lo + n - 1` of a number. -/
def bits (x lo n : Nat) : Nat := (x >>> lo) % 2 ^ n

/-- A number read as signed in `n` bits. -/
def signed (n x : Nat) : Int := if 2 * (x % 2 ^ n) < 2 ^ n then (x % 2 ^ n : Nat) else (x % 2 ^ n : Nat) - (2 ^ n : Nat)

/-- A word from an integer, modulo 2^64 (R90). -/
def wordOfInt (i : Int) : Word := BitVec.ofInt 64 i

/-- The member of a list that comes first under `lt` (the earliest in the list among equals). -/
def firstBy {α : Type} (lt : α → α → Bool) : List α → Option α
  | [] => none
  | a :: r =>
    match firstBy lt r with
    | none => some a
    | some b => if lt b a then some b else some a

/-- Insert before the first element that comes later. -/
def insertBy {α : Type} (lt : α → α → Bool) (x : α) : List α → List α
  | [] => [x]
  | a :: r => if lt x a then x :: a :: r else a :: insertBy lt x r

/-- Stable sort by insertion. -/
def sortBy {α : Type} (lt : α → α → Bool) (l : List α) : List α := l.foldl (fun acc x => insertBy lt x acc) []

/-- Distinct members. -/
def distinct (l : List Nat) : List Nat := l.foldl (fun a x => if a.contains x then a else x :: a) []

/-! ### The core in focus -/

/-- The die of a core: `CORE`[10] (R41). -/
def Core.die (c : Core) : Bool := decide (1024 ≤ c.id)

/-- The listed core of a name. -/
def State.coreAt (s : State) (n : Nat) : Option Core :=
  if s.core.name = n then some s.core else s.others.find? (fun c => c.name == n)

/-- Bring the core of a name into focus; a name that is not listed changes nothing. -/
def State.focus (s : State) (n : Nat) : State :=
  if s.core.name = n then s
  else match s.others.find? (fun c => c.name == n) with
    | none => s
    | some c => { s with core := c, others := s.core :: s.others.filter (fun x => x.name != n) }

/-- Run with the core of a name in focus, and come back. A name that is not listed changes nothing. -/
def State.on (s : State) (n : Nat) (f : State → State) : State :=
  match s.coreAt n with
  | none => s
  | some _ => (f (s.focus n)).focus s.core.name

/-- Every listed core. -/
def State.cores (s : State) : List Core := s.core :: s.others

/-- Change one core record. -/
def State.modAt (s : State) (n : Nat) (f : Core → Core) : State :=
  if s.core.name = n then { s with core := f s.core }
  else { s with others := s.others.map (fun c => if c.name == n then f c else c) }

/-- Change every core record. -/
def State.modAll (s : State) (f : Core → Core) : State := { s with core := f s.core, others := s.others.map f }

def State.modCore (s : State) (f : Core → Core) : State := { s with core := f s.core }
def State.modRegs (s : State) (f : Regs → Regs) : State := { s with core := { s.core with regs := f s.core.regs } }
def State.modCtl (s : State) (f : Ctl → Ctl) : State := { s with core := { s.core with ctl := f s.core.ctl } }
def State.modExc (s : State) (f : Exc → Exc) : State := { s with core := { s.core with exc := f s.core.exc } }
def State.modFlow (s : State) (f : Flow → Flow) : State := { s with core := { s.core with flow := f s.core.flow } }
def State.modPort (s : State) (f : Port → Port) : State := { s with core := { s.core with port := f s.core.port } }
def State.modMtx (s : State) (f : Mtx → Mtx) : State := { s with core := { s.core with mtx := f s.core.mtx } }
def State.modTasks (s : State) (f : Tasks → Tasks) : State := { s with core := { s.core with tasks := f s.core.tasks } }

/-! ### Registers and queues (R29, R31, R32) -/

/-- Append to the scalar queue: the oldest entry goes (R32). -/
def Regs.pushQ (r : Regs) (v : Word) : Regs := { r with q := (v :: r.q).take 16 }

/-- Append to the vector queue (R32). -/
def Regs.pushVq (r : Regs) (v : Vec) : Regs := { r with vq := (v :: r.vq).take 16 }

/-- Write a scalar destination: a named register also enters the queue (R31). -/
def Regs.writeS (r : Regs) (d : Dst) (v : Word) : Regs :=
  match d with
  | .reg n => Regs.pushQ { r with g := r.g.set n v } v
  | .queue => r.pushQ v

/-- Write a vector destination (R31). -/
def Regs.writeV (r : Regs) (d : Dst) (v : Vec) : Regs :=
  match d with
  | .reg n => Regs.pushVq { r with v := r.v.set n v } v
  | .queue => r.pushVq v

/-- Write a predicate; a write to p0 is discarded (R29). -/
def Regs.writeP (r : Regs) (p : Small) (b : Bool) : Regs := if p = 0 then r else { r with p := r.p.set p b }

/-- Write a mask; a write to k0 is discarded (R29). -/
def Regs.writeK (r : Regs) (k : Small) (m : BitVec 32) : Regs := if k = 0 then r else { r with k := r.k.set k m }

/-- Read a scalar operand (R31). -/
def State.gS (s : State) (a : Src) : Word :=
  match a with
  | .reg n => s.core.regs.g.get n
  | .age n => s.core.regs.q.getD n 0#64

/-- Read a vector operand (R31). -/
def State.gV (s : State) (a : Src) : Vec :=
  match a with
  | .reg n => s.core.regs.v.get n
  | .age n => s.core.regs.vq.getD n 0#1024

/-- Read a predicate; p0 reads 1 (R29). -/
def State.gP (s : State) (p : Small) : Bool := p = 0 || s.core.regs.p.get p

/-- Read a mask; k0 reads all ones (R29). -/
def State.gK (s : State) (k : Small) : BitVec 32 := if k = 0 then 0xFFFFFFFF#32 else s.core.regs.k.get k

/-! ### Results in flight (R33) -/

/-- Post a result of the operation in hand, `lat` unfrozen cycles after issue (R33, R34). -/
def State.post (s : State) (lat : Nat) (r : Result) : State :=
  s.modPort fun p => { p with pend := p.pend ++ [⟨s.core.unf + lat, s.core.unf, s.core.flow.slot, r⟩] }

/-- A scalar result (R90). -/
def State.scalar (s : State) (lat : Nat) (d : Dst) (v : Word) : Out := .next (s.post lat (.scalar d v))

/-- A vector result (R111). -/
def State.vector (s : State) (lat : Nat) (d : Dst) (v : Vec) : Out := .next (s.post lat (.vector d v))

/-- Order within one cycle: CVADV before VCTW (R40), clears before sets (R42, R287), then issue cycle and slot (R33); a push on the fork
deque after the removals of its cycle (R294). -/
def Result.class : Result → Nat
  | .cvadv => 0
  | .ctl _ _ => 1
  | .fork _ => 3
  | _ => 2

def Pending.before (a b : Pending) : Bool :=
  if a.due != b.due then a.due < b.due
  else if a.act.class != b.act.class then a.act.class < b.act.class
  else if a.issue != b.issue then a.issue < b.issue
  else a.slot < b.slot

def Landing.before (a b : Landing) : Bool :=
  if a.due != b.due then a.due < b.due
  else if a.issue != b.issue then a.issue < b.issue
  else a.slot < b.slot

/-- The result that is written next. -/
def Port.nextPend (p : Port) : Option Pending := firstBy Pending.before p.pend

/-- The landing that is written next. -/
def Port.nextLanding (p : Port) : Option Landing := firstBy Landing.before p.landings

/-- The landing that a core writes next; one whose data has not arrived keeps no other back while the core drains (R406). -/
def Core.nextLanding (c : Core) : Option Landing :=
  if c.exc.entering.isSome then firstBy Landing.before (c.port.landings.filter Landing.arrived) else c.port.nextLanding

/-! ### The clock of free values -/

/-- The `SLOTMAP` of a core that lacks one engine: a vector unit, or a copy engine (R20, R57). -/
def lessOne : List (BitVec 8) := [0x8D#8, 0xBE#8, 0x27#8, 0xEB#8]

/-- A grade that a package may have (R20): at least 736 verify cores and every draft core are enabled, no enabled core lacks more than one
engine, and no firmware core is disabled. -/
def gradeOk (g : Cells (BitVec 8)) : Bool :=
  g.all (fun x => (decide (x.1 < 768) || (decide (1024 ≤ x.1) && decide (x.1 < 1216))) &&
    (lessOne.contains x.2 || (x.2 == 0#8 && decide (0 < x.1) && decide (x.1 < 768)))) &&
  decide ((g.filter fun x => x.2 == 0#8).length ≤ 32)

/-- The engines that the package's grade leaves a core, as `SLOTMAP` gives them: 0 for a disabled core (R20, R57). A list that no grade
has leaves every core whole. -/
def State.gradeOf (s : State) (id : Nat) : BitVec 8 := cget 0xAF#8 (if gradeOk s.grade then s.grade else []) id

/-- A core at release, with the engines it has (R20, R29, R57). -/
def State.resetCore (s : State) (id : Nat) : Core :=
  let c := Core.reset id
  { c with ctl := { c.ctl with slotmap := s.gradeOf id } }

/-- Read the counter of free values and advance it (DESIGN CHOICE, log entry 4). -/
def State.tick (s : State) : State := { s with fresh := s.fresh + 1 }

/-! ### Gangs (R277, R278) -/

def State.launchOf (s : State) (c : Core) : Option Launch :=
  match c.launch with
  | none => none
  | some (l, _) => s.launches.find? (fun x => x.slot == l)

def State.instOf (s : State) (c : Core) : Option Inst :=
  match c.launch with
  | none => none
  | some (_, i) =>
    match s.launchOf c with
    | none => none
    | some l => l.insts.find? (fun x => x.idx == i)

/-- The members of the instance of a core: gang, virtual core, name; of an instance that has been ended, those it had (R304, R313). A core
without either is its own gang. -/
def State.members (s : State) (c : Core) : List (Nat × Nat × Nat) :=
  match s.instOf c with
  | none => if c.crew.isEmpty then [(c.ctl.gang.toNat, c.ctl.vcore.toNat, c.name)] else c.crew
  | some i => i.cores

/-- The names of the gang of a core, by rising virtual core. -/
def State.gangOf (s : State) (c : Core) : List Nat :=
  ((s.members c).filter fun m => m.1 == c.ctl.gang.toNat).map fun m => m.2.2

/-- The gang of the core in focus. -/
def State.gang (s : State) : List Nat := s.gangOf s.core

/-- A core that is in its trap handler, or on the way into it, is a lockstep domain of its own (R406). -/
def Core.apart (c : Core) : Bool := c.exc.shadow.isSome || c.exc.entering.isSome

/-- The lockstep domain of the core in focus: its gang, or a trapping core alone (R278, R406). -/
def State.domain (s : State) : List Nat := if s.core.apart then [s.core.name] else s.gang

/-- The listed cores among some names. -/
def State.pick (s : State) (ns : List Nat) : List Core := ns.filterMap s.coreAt

/-! ### Who goes on -/

/-- Nothing of the core is pending (R406, R281). -/
def Port.quiet (p : Port) : Bool := p.pend.isEmpty && p.landings.isEmpty && p.sched.isEmpty

/-- Something of the core is still to be written or performed. -/
def Port.inFlight (p : Port) : Bool := !p.quiet || !p.chunks.isEmpty || !p.events.isEmpty

/-- Nothing of the core is pending, and no conflict of its accesses is left to pay (R406). -/
def Core.still (c : Core) : Bool := c.port.quiet && c.owed == 0 && c.lost == 0

/-- Whether the domain of a core can go on: a core on its way into a trap only drains, and takes the frozen cycles that it owes; a gang
stands while a core of it is in a handler or stopped (R372, R406). -/
def State.runnable (s : State) (c : Core) : Bool :=
  if c.stopped then false
  else match c.exc.entering with
    | some _ => !c.prov && !c.still
    | none =>
      if c.exc.shadow.isSome then c.tasks.wait != .exited
      else !((s.pick (s.gangOf c)).any fun x => x.apart || x.trapFrozen || x.stopped) &&
        (c.tasks.wait != .exited || c.port.inFlight)

/-- The physical cycle that the package has reached: the lowest clock of the cores that go on, else the highest of all. -/
def State.now (s : State) : Nat :=
  match (s.cores.filter s.runnable).map Core.clock with
  | [] => (s.cores.map Core.clock).foldl max 0
  | t :: ts => ts.foldl min t

/-! ### Wall-clock time (R5, R23) -/

/-- Units of wall-clock time in a cycle of 125 MHz: the least number that every clock of R23 divides evenly. -/
def wallUnit : Nat := 232792560

/-- Microseconds and milliseconds in those units. -/
def usec (n : Nat) : Nat := n * 125 * wallUnit
def msec (n : Nat) : Nat := usec (1000 * n)

/-- Units in a cycle of the present clock. -/
def State.cycleUnits (s : State) : Nat := wallUnit / max 1 (s.boot.clockMHz / 125)

/-- The wall-clock time of a physical cycle, and now. -/
def State.wallOf (s : State) (cycle : Nat) : Nat := s.boot.wall + (cycle - s.boot.wallAt) * s.cycleUnits
def State.wallNow (s : State) : Nat := s.wallOf s.now

/-- The first physical cycle at or after a wall-clock time. -/
def State.cycleOf (s : State) (w : Nat) : Nat := s.boot.wallAt + (w - s.boot.wall + s.cycleUnits - 1) / s.cycleUnits

/-! ### Error records (R401 to R403) -/

/-- The draft die keeps the records of the sources that carry the draft die (R403). -/
def srcDraft (src : Nat) : Bool :=
  let k := bits src 12 4
  if k = 0 then src.testBit 10 else if k = 1 ∨ k = 8 ∨ k = 9 then src.testBit 11 else if k = 11 then src.testBit 0 else false

/-- Keep an error record: its SEQ is consumed even when the log is full; the next record stored after a loss follows one
record of class 6 (R403). -/
def State.record (s : State) (src cls cause : Nat) (addr detail : Word) : State :=
  let q := cget 0 s.srcSeq src
  let s := { s with srcSeq := cput 0 s.srcSeq src ((q + 1) % 2 ^ 32) }
  let log := if srcDraft src then s.logD else s.logV
  let lost := cget (0, 0) s.srcLost src
  let r : ErrRec := ⟨.ofNat 16 src, q, .ofNat 4 cls, .ofNat 8 cause, addr, s.core.clock, detail⟩
  let l : ErrRec := ⟨.ofNat 16 src, lost.2, 6#4, 0#8, 0#64, s.core.clock, .ofNat 64 lost.1⟩
  let new := if lost.1 = 0 then [r] else [l, r]
  if log.length + new.length ≤ 4096 then
    let s := { s with srcLost := cput (0, 0) s.srcLost src (0, 0) }
    if srcDraft src then { s with logD := log ++ new } else { s with logV := log ++ new }
  else { s with srcLost := cput (0, 0) s.srcLost src (lost.1 + 1, if lost.1 = 0 then q else lost.2) }

/-- ADDR of a record that has no address: W = 15 (R401, R408), with a number of its source. -/
def noAddr (n : Nat) : Word := .ofNat 64 (15 * 2 ^ 56 + n)

/-- A record of the core in focus (R402 kind 0). -/
def State.coreRecord (s : State) (cls cause : Nat) (addr detail : Word) : State := s.record s.core.id cls cause addr detail

/-! ### Applying a result -/

/-- Write sum-product scratch registers (R29). -/
def Spe.putAll (z : Cells (BitVec 32)) (zs : List (Nat × BitVec 32)) : Cells (BitVec 32) :=
  zs.foldl (fun z p => cput 0#32 z (p.1 % 4096) p.2) z

/-- Write elements of accumulator tiles, keyed by `tileKey`. -/
def tilePutAll (t : Cells (BitVec 32)) (zs : List (Nat × BitVec 32)) : Cells (BitVec 32) :=
  zs.foldl (fun t p => cput 0#32 t p.1 p.2) t

/-- The program-level registers that CTLW writes at issue + 1 (R41, R106); the Access codes are checked at issue. -/
def Core.putCtl (c : Core) (idx : BitVec 12) (v : Word) : Core :=
  let n := v.toNat
  match idx.toNat with
  | 0x000 => { c with ctl := { c.ctl with chk := n.testBit 0 } }
  | 0x00A => { c with flow := { c.flow with cur := .ofNat 32 n, cursor := .ofNat 5 (n >>> 32) } }
  | 0x00B => { c with ctl := { c.ctl with spemode := n.testBit 0 } }
  | 0x00C => { c with ctl := { c.ctl with speqs := .ofNat 12 n } }
  | 0x00D => { c with ctl := { c.ctl with adjoff := .ofNat 12 n } }
  | 0x00E => { c with ctl := { c.ctl with flags := c.ctl.flags &&& ~~~(.ofNat 8 n) } }
  | 0x00F => { c with ctl := { c.ctl with latch := c.ctl.latch && !n.testBit 0 } }
  | 0x010 => { c with ctl := { c.ctl with lrfirst := .ofNat 8 n } }
  | 0x011 => { c with ctl := { c.ctl with lrlast := .ofNat 8 n } }
  | 0x100 => { c with exc := { c.exc with trapvec := .ofNat 12 n } }
  | 0x101 => { c with exc := { c.exc with trappc := .ofNat 12 n } }
  | 0x102 => { c with exc := { c.exc with cause := .ofNat 8 n, plvl := .ofNat 2 (n >>> 8) } }
  | 0x103 => { c with exc := { c.exc with info := v } }
  | 0x104 => { c with exc := { c.exc with asid := .ofNat 16 n, ttlo := .ofNat 12 (n >>> 16), tthi := .ofNat 12 (n >>> 28) } }
  | 0x105 => { c with exc := { c.exc with ptroot := .ofNat 44 (n >>> 12) } }
  | 0x107 => { c with exc := { c.exc with allow := n.testBit 0 } }
  | _ => c

/-- Whether the package is partitioned, and whether a partition exists (R351). -/
def State.split (s : State) : Bool := s.partmap.toNat.testBit 0
def State.partExists (s : State) (p : Nat) : Bool := if s.split then s.partmap.toNat.testBit (1 + p) else p == 0

/-- The number of a control queue (R415). -/
def controlQueue : Nat := 65535

/-- The monitor creates the control queue of a partition (R354, R415): PRIO 7, under `ASID` 0, its record and ring where the monitor puts
them, empty (DESIGN CHOICE, log entry 130). -/
def State.createControl (s : State) (p : Nat) : State :=
  let field := fun (i : Nat) => Config.controlField p i
  let base := if s.split then 96 * p * 2 ^ 30 else 0
  let q : Queue := {
    part := p, num := controlQueue, recKey := base + 128 * (field 0 % 2 ^ 29), ring := .ofNat 64 (base + 4096 * (field 1 % 2 ^ 24))
    lsz := 4 + field 2 % 12, prio := 7, tol := field 3 % 2 ^ 16, tmo := 1 + field 4 % 65535, rd := 0, wr := 0, st := .idle, res := false
    cause := 0#8, pkt := 0, wsig := 0#64, raised := 0, asid := 0#16, since := s.wallNow, paused := 0 }
  let r := q.ring.toNat + q.lsz * 2 ^ 64 + q.prio * 2 ^ 68 + q.tol * 2 ^ 72 + q.tmo * 2 ^ 88
  { s with queues := s.queues ++ [q], mem := memPutList s.mem q.recKey (natBytes r 128) }

/-- The monitor creates the control queue of every partition that exists, in place of those there were. -/
def State.createControls (s : State) : State :=
  ((List.range 4).filter s.partExists).foldl State.createControl { s with queues := s.queues.filter fun q => q.num != controlQueue }

/-- A write of `PARTMAP` drops every TLB entry, tile-table entry and reservation, and frees every sequence; the monitor then creates the
partitions' control queues (R354). -/
def State.putPartmap (s : State) (v : Word) : State :=
  let s := s.modAll fun c => { c with port := { c.port with tlb := [] } }
  State.createControls { s with partmap := v, ctlb := [], tileTab := [], seqs := [] }

/-- Write the package-level registers of CTLW (R354, R368). Once `KEYCTL`.LOCK is 1 its writes are ignored. -/
def State.putCtl (s : State) (idx : BitVec 12) (v : Word) : State :=
  match idx.toNat with
  | 0x200 => s.putPartmap v
  | 0x201 => { s with depthtab := v }
  | 0x203 => if s.keyctl.toNat.testBit 0 then s else { s with keyctl := v }
  | _ => s.modCore fun c => c.putCtl idx v

/-- The event latch of a core that has not exited is set (R287, R289). -/
def Core.latchEvent (c : Core) : Core :=
  if c.tasks.wait = .exited then c else { c with ctl := { c.ctl with latch := true } }

/-- Add to scratch registers, in order, by SP32 or FP32 addition, gathering the flags (R173). -/
def Spe.addAll (sp : Bool) (z : Cells (BitVec 32)) (zs : List (Nat × BitVec 32)) (f : Fl) : Cells (BitVec 32) × Fl :=
  zs.foldl (fun (a : Cells (BitVec 32) × Fl) p =>
    let old := (cget 0#32 a.1 (p.1 % 4096)).toNat
    let (v, g) := if sp then spAdd old p.2.toNat else f32Add old p.2.toNat
    (cput 0#32 a.1 (p.1 % 4096) (.ofNat 32 v), a.2 ||| g)) (z, f)

/-- Code of an operand that holds an uncorrectable error: the kind of R408 ORIGIN 4 (0 g, 1 q, 2 v, 3 vq, 4 z; here also 6 a stream
register, 7 a shape entry, DESIGN CHOICE, log entry 151), and its index. -/
def regCode (kind i : Nat) : Nat := kind * 4096 + i

/-- Whether a register, queue entry or scratch register of the core in focus holds an uncorrectable error (R399). -/
def State.badReg (s : State) (code : Nat) : Bool := s.bad.contains (.reg s.core.name code)

/-- A whole write makes a register good (R399). -/
def State.goodReg (s : State) (code : Nat) : State :=
  if s.bad.isEmpty then s else { s with bad := s.bad.filter fun u => u != .reg s.core.name code && u != .soft s.core.name code }

/-- The entries of a queue age by one when one is appended (R32), their errors with them. -/
def State.ageBad (s : State) (kind : Nat) : State :=
  if s.bad.isEmpty then s
  else { s with bad := s.bad.filterMap fun u =>
    match u with
    | .reg c code =>
      if c = s.core.name ∧ code / 4096 = kind then (if code % 4096 < 15 then some (.reg c (code + 1)) else none) else some u
    | .soft c code =>
      if c = s.core.name ∧ code / 4096 = kind then (if code % 4096 < 15 then some (.soft c (code + 1)) else none) else some u
    | _ => some u }

/-- Write a scalar destination of the core in focus (R31). -/
def State.putS (s : State) (d : Dst) (v : Word) : State :=
  ((match d with | .reg n => s.goodReg (regCode 0 n.val) | .queue => s).ageBad 1).modRegs fun x => x.writeS d v

/-- Write a vector destination of the core in focus (R31). -/
def State.putV (s : State) (d : Dst) (v : Vec) : State :=
  ((match d with | .reg n => s.goodReg (regCode 2 n.val) | .queue => s).ageBad 3).modRegs fun x => x.writeV d v

/-- Write scratch registers of the core in focus (R29). -/
def State.putZ (s : State) (zs : List (Nat × BitVec 32)) : State :=
  (zs.foldl (fun s z => s.goodReg (regCode 4 (z.1 % 4096))) s).modCore fun c =>
    { c with spe := { c.spe with z := Spe.putAll c.spe.z zs } }

/-- `TRAPINFO` of a register with an uncorrectable error (R408 ORIGIN 4). -/
def regInfo (code : Nat) : Word := .ofNat 64 (4 * 2 ^ 60 + 15 * 2 ^ 56 + (code / 4096) * 4096 + code % 4096)

/-- W and OFS of a `TRAPINFO`, as ADDR of a record gives an address (R401, R408). -/
def codedPart (info : Word) : Word := info &&& 0x0FFFFFFFFFFFFFFF#64

/-- Adjoints accumulate in order; one that meets an uncorrectable error is reported, and neither it nor a later one is
performed (R173, R177). The bundle due in that cycle reports it; where a trap drains there is none, and a record is kept of it (DEDUCED, log
entry 38). -/
def State.addAdjoints (s : State) (sp : Bool) (zs : List (Nat × BitVec 32)) (f : Fl) : State :=
  let good := zs.takeWhile fun z => !s.badReg (regCode 4 (z.1 % 4096))
  let (z, g) := Spe.addAll sp s.core.spe.z good f
  let s := (s.modCore fun c => { c with spe := { c.spe with z := z } }).modCtl fun c => { c with flags := c.flags ||| g }
  match zs.drop good.length with
  | [] => s
  | x :: _ =>
    let info := regInfo (regCode 4 (x.1 % 4096))
    if s.core.exc.entering.isSome then s.coreRecord 2 0xA (codedPart info) info
    else s.modPort fun p => { p with mcheck := some (p.mcheck.getD info) }

/-- Write a result of the core in focus (R33). Adjoints accumulate when they complete (R173). -/
def State.apply (s : State) (r : Result) : State :=
  match r with
  | .scalar d v => s.putS d v
  | .link v => (s.goodReg (regCode 0 15)).modRegs fun x => { x with g := x.g.set 15 v }
  | .vector d v => s.putV d v
  | .pred p b => s.modRegs fun x => x.writeP p b
  | .mask k m => s.modRegs fun x => x.writeK k m
  | .condNext m => s.modFlow fun f => { f with nxt := m }
  | .cvadv => s.modFlow fun f => { f with cur := f.nxt, nxt := 0#32, cursor := 0#5 }
  | .ctl idx v => s.putCtl idx v
  | .flags f => s.modCtl fun c => { c with flags := c.flags ||| f }
  | .scratch zs => s.putZ zs
  | .adjoints sp zs f => s.addAdjoints sp zs f
  | .latch side bf => s.modMtx fun m => { m with latch := some (side, bf) }
  | .defer es => s.modCore fun c => { c with dq := c.dq ++ es }
  | .tile ws => { s with tiles := tilePutAll s.tiles ws }
  | .zeroTile t => { s with
      tiles := s.tiles.filter fun p => p.1 / 4096 != t
      bad := if s.bad.isEmpty then [] else s.bad.filter fun u => u != .tile (t / 4) (t % 4) }
  | .bind n o => s.modMtx fun m => { m with streams := m.streams.set n ⟨(m.streams.get n).bits, o⟩ }
  | .fork e => s.modTasks fun t =>
      { t with deque := e :: t.deque, frames := t.frames.modifyHead fun f => { f with count := f.count + 1 } }
  | .solo b =>
    (s.modCtl fun c => { c with solo := b, own := true }).modAt (s.core.id ^^^ 1) fun c =>
      { c with ctl := { c.ctl with solo := b, own := !b } }
  | .freeze n => s.modCore fun c => { c with owed := max c.owed n }

/-! ### Verdicts, traps and returns -/

/-- The operation in hand waits: its bundle does not issue in this cycle (R38). -/
def State.wait (s : State) (w : Wait) : State := s.modFlow fun f => { f with verdict := .waits w }

/-- The bundle's word and the slot position, as ILLOP reports them (R407). -/
def State.where (s : State) : Nat := s.core.flow.pc.toNat + s.core.flow.slot * 4096

/-- The level a trap of the core enters (R404); a program core at level 1 does not enter but forwards. -/
def Core.trapLevel (c : Core) : BitVec 2 := if c.fw then 2#2 else 1#2

/-- Whether a trap of the core is forwarded to the monitor (R404, R409). -/
def Core.forwards (c : Core) : Bool := !c.fw && c.exc.level.toNat == 1

/-- The shadow of the core (R406). A trap in a handler replaces it; the count of the gang, and the chunks and events that wait with it, stay. -/
def Core.shadowOf (c : Core) : Shadow :=
  { q := c.regs.q, vq := c.regs.vq, tb := c.flow.tb, cur := c.flow.cur, nxt := c.flow.nxt, cursor := c.flow.cursor,
    latch := c.mtx.latch
    unf := match c.exc.shadow with | some sh => sh.unf | none => c.unf - c.exc.drains
    chunks := match c.exc.shadow with
      | some sh => sh.chunks ++ c.port.chunks.map fun x => { x with due := x.due - (c.unf - c.exc.drains) + sh.unf }
      | none => c.port.chunks
    events := match c.exc.shadow with
      | some sh => sh.events ++ c.port.events.map fun x => (x.1 - (c.unf - c.exc.drains) + sh.unf, x.2)
      | none => c.port.events }

/-- A hold whose span is over and whose accesses have all been performed (R48). -/
def Core.holdOver (c : Core) : Bool :=
  match c.flow.hold with
  | none => false
  | some h => c.flow.lock.isNone && !c.port.sched.any fun a => h.issues.contains a.issue

/-- What a walk left for the bundle that trapped is dropped (R362). -/
def Port.dropWalk (p : Port) : Port := { p with walk := none, walkFault := [], walkBad := [], reply := none, mcheck := none }

/-- What a trap reports is cleared with it: a held `.com` error, which carries ORIGIN 8 (R433), or the array's fault record, which
carries ORIGIN 2 or 3 and merges the array's flags first (R160, R408). -/
def Core.reported (c : Core) (t : TrapReq) : Core :=
  let origin := t.info.toNat / 2 ^ 60
  if t.code = 0xA#8 ∧ origin = 8 then { c with port := { c.port with comErr := none } }
  else if (t.code = 0xA#8 ∨ t.code = 9#8) ∧ (origin = 2 ∨ origin = 3) then
    { c with mtx := { c.mtx with fault := none, flags := 0#8 }, ctl := { c.ctl with flags := c.ctl.flags ||| c.mtx.flags } }
  else c

/-- Trap entry once nothing of the core is pending (R406): the shadow is taken, `TRAPPC`, `TRAPCAUSE` and `TRAPINFO` are
set, the level rises, and the handler's first bundle issues four cycles later. -/
def Core.enter (c : Core) (t : TrapReq) : Core :=
  let c := c.reported t
  { c with
    exc := { c.exc with
      shadow := some c.shadowOf, entering := none, drains := 0, trappc := if t.next then c.flow.pc + .ofNat 12 c.flow.len else c.flow.pc,
      cause := t.code, plvl := c.exc.level, info := t.info, level := c.trapLevel }
    flow := { c.flow with pc := c.exc.trapvec, nextPc := c.exc.trapvec, stall := none, skip := 0, issued := false, prefetch := [], lock := none,
                          hold := none, verdict := .trapped t }
    tasks := { c.tasks with wait := .running }
    port := { c.port.dropWalk with chunks := [], events := [] }
    resumeAt := some (c.clock + 4) }

/-- Freeze the rest of the gang of the core in focus (R406). The waits of their bundles are evaluated afresh at the resume (R430). -/
def State.freezeOthers (s : State) : State :=
  (s.gang.filter fun n => n != s.core.name).foldl
    (fun s n => s.modAt n fun c =>
      if c.exc.shadow.isSome || c.exc.entering.isSome then c
      else { c with trapFrozen := true, port := { c.port with walk := none, walkFault := [], walkBad := [] } }) s

/-- The trap waits: for the drain, for the monitor (R409), or for the shape of a provisional instance (R312). -/
def Core.hold (c : Core) (t : TrapReq) : Core :=
  let c := c.reported t
  { c with
    exc := { c.exc with entering := some t }
    port := c.port.dropWalk
    flow := { c.flow with lock := none, hold := none, verdict := .trapped t } }

/-- Change one instance record. -/
def State.modInst (s : State) (slot idx : Nat) (f : Inst → Inst) : State :=
  { s with launches := s.launches.map fun l =>
      if l.slot == slot then { l with insts := l.insts.map fun i => if i.idx == idx then f i else i } else l }

/-- The gang of the core in focus is held until the shape arrives, and its instance is Held (R309, R312). -/
def Inst.hold (i : Inst) (gang : Nat) : Inst :=
  { i with st := if i.st = .runProv then .held else i.st, held := if i.held.contains gang then i.held else gang :: i.held }
def State.markHeld (s : State) : State :=
  match s.core.launch with
  | none => s
  | some (l, i) => s.modInst l i fun i => i.hold s.core.ctl.gang.toNat

/-- Trap entry of the core in focus (R404, R406): at once when nothing is pending, else after the drain (TRAP_ENTRY). -/
def State.takeTrap (s : State) (t : TrapReq) : State :=
  if s.core.prov then s.markHeld.modCore fun c => c.hold t
  else
    let s := s.freezeOthers
    if s.core.still && !s.core.forwards then s.modCore fun c => c.enter t else s.modCore fun c => c.hold t

/-- Raise a trap at the operation in hand (R28). -/
def State.trap (s : State) (code : Nat) (info : Word) : Out :=
  .next (s.takeTrap ⟨.ofNat 8 code, s.core.flow.slot, info, false, false⟩)

/-- Raise a trap that the end of a wait decides (R430). -/
def State.lateTrap (s : State) (code : Nat) (info : Word) : Out :=
  .next (s.takeTrap ⟨.ofNat 8 code, s.core.flow.slot, info, false, true⟩)

/-- ILLOP (0x01) at the operation in hand (R407). -/
def State.illop (s : State) : Out := s.trap 1 (.ofNat 64 s.where)

/-- PRIV (0x02), with a control-register index (R407). -/
def State.privTrap (s : State) (idx : Nat) : Out := s.trap 2 (.ofNat 64 (s.where + idx * 2 ^ 16))

/-- LOCKVIOL (0x07) (R48, R281). -/
def State.lockviol (s : State) : Out := s.trap 7 (.ofNat 64 s.where)

/-- The bundle commits, and then traps with TRAPPC at the bundle that follows it (R411, R364). -/
def State.trapNext (s : State) (code : Nat) (info : Word) : Out :=
  .next (s.takeTrap ⟨.ofNat 8 code, s.core.flow.slot, info, true, false⟩)

/-- A firmware core at supervisor level, which may not reach what is the monitor's (R382). -/
def Core.guarded (c : Core) : Bool := c.fw && c.exc.level == 1#2

/-- The level of the core in focus, as a number (R349). -/
def State.level (s : State) : Nat := s.core.exc.level.toNat

/-- The core counts with its gang again: its unfrozen count is what it was at the trap (R412), the program's chunks and events go on, and those
of the handler, with its scheduled accesses, keep the cycles that they have left. -/
def Core.rejoin (c : Core) (sh : Shadow) : Core :=
  { c with
    unf := sh.unf
    port := { c.port with
      chunks := sh.chunks ++ c.port.chunks.map fun x => { x with due := x.due - c.unf + sh.unf }
      events := sh.events ++ c.port.events.map fun x => (x.1 - c.unf + sh.unf, x.2)
      sched := c.port.sched.map fun x => { x with due := x.due - c.unf + sh.unf } } }

/-- Return from a handler (R412): the level comes back, the shadow is restored with its target-buffer entries filling,
and the core waits with its gang for the common resume cycle, four cycles after the last return. -/
def Core.eret (c : Core) : Core :=
  match c.exc.shadow with
  | none =>
    { c with
      exc := { c.exc with level := c.exc.plvl }
      flow := { c.flow with nextPc := c.exc.trappc, prefetch := [] }
      resumeAt := some (c.clock + 4) }
  | some sh =>
    { c.rejoin sh with
      exc := { c.exc with level := c.exc.plvl, shadow := none }
      regs := { c.regs with q := sh.q, vq := sh.vq }
      mtx := { c.mtx with latch := sh.latch }
      flow := { c.flow with
        nextPc := c.exc.trappc, prefetch := [], cur := sh.cur, nxt := sh.nxt, cursor := sh.cursor,
        tb := Vector.ofFn fun i => let e := sh.tb.get i
          if e.st = .empty then e else { e with st := .filling, readyAt := c.clock + 4 } }
      trapFrozen := true
      resumeAt := some (c.clock + 4) }

end Sys2Proof.Machine
end

