-- ==== Sys2Proof/Machine/Ecc.lean ====
section
/-! DEFINITION. Physical keys of memory, the symbol code of scratchpad rows (R396, R397), units with uncorrectable errors
(R395, R399). `State.flips` holds the error pattern: what a stored byte differs in from the byte written. -/

namespace Sys2Proof.Machine

/-! ### Physical keys: one number for every byte of every memory (R211) -/

def keyHost (a : Nat) : Nat := 2 ^ 56 + a
def keyChip (o : Nat) : Nat := 2 ^ 57 + o
def keySpad (core o : Nat) : Nat := 2 ^ 58 + core * 2 ^ 22 + o
def keySlice (core o : Nat) : Nat := 2 ^ 59 + core * 2 ^ 22 + o
def keyLane (core o : Nat) : Nat := 2 ^ 60 + core * 2 ^ 15 + o

/-- Size of a core scratchpad or shared slice by die (R209, R211). -/
def sliceSize (die : Bool) : Nat := if die then 2 ^ 22 else 2 ^ 20

/-- A key of host memory. -/
def isHostKey (k : Nat) : Bool := decide (2 ^ 56 ≤ k) && decide (k < 2 ^ 57)

/-- A key of a scratchpad or slice, whose rows carry the symbol code. -/
def isRowKey (k : Nat) : Bool := decide (2 ^ 58 ≤ k) && decide (k < 2 ^ 60)

/-- A key of a coherent memory. -/
def isCohKey (k : Nat) : Bool := decide (k < 2 ^ 58)

/-- The row store of a key of a scratchpad, a slice or a lane slice. -/
def rowStoreOf (k : Nat) : RowStore :=
  if k < 2 ^ 59 then .spad ((k - 2 ^ 58) / 2 ^ 22)
  else if k < 2 ^ 60 then .slice ((k - 2 ^ 59) / 2 ^ 22)
  else .lanes ((k - 2 ^ 60) / 2 ^ 15)

/-- Banks of the chip scratchpad on a die (R218). -/
def chipBanks (die : Bool) : Nat := if die then 192 else 64

/-- The store, the row and the bank of a key of scheduled memory, of the chip scratchpad, or of a check bank (R213, R218, R396). -/
def rowPlace (k : Nat) : Option (RowStore × Nat × Nat) :=
  if k < 2 ^ 57 then none
  else if k < 2 ^ 58 then
    let o := k - 2 ^ 57
    let die := decide (0x4000000 ≤ o)
    let line := (if die then o - 0x4000000 else o) / 64
    some (.chip die (line % chipBanks die), line / chipBanks die, line % chipBanks die)
  else if k < 2 ^ 60 then some (rowStoreOf k, k % 2 ^ 22 / 1024, k / 64 % 16)
  else if k < 2 ^ 61 then some (rowStoreOf k, k % 1024 / 4, k % 2 ^ 15 / 1024)
  else if k < 2 ^ 62 then
    let row := (k - 2 ^ 61) / 128 * 1024
    some (rowStoreOf row, row % 2 ^ 22 / 1024, 16 + (k - 2 ^ 61) % 128 / 64)
  else none

end Sys2Proof.Machine

namespace Sys2Proof

/-- The key of byte 0 of a store. -/
def RowStore.base : RowStore → Nat
  | .spad c => Machine.keySpad c 0
  | .slice c => Machine.keySlice c 0
  | .lanes c => Machine.keyLane c 0
  | .chip die bank => Machine.keyChip ((if die then 0x4000000 else 0) + bank * 64)

/-- Rows of a store (R213, R218). -/
def RowStore.rows : RowStore → Nat
  | .spad c => Machine.sliceSize (decide (1024 ≤ c)) / 1024
  | .slice c => Machine.sliceSize (decide (1024 ≤ c)) / 1024
  | .lanes _ => 256
  | .chip _ _ => 2 ^ 14

/-- The `CORE` value or die and bank that records name (R402). -/
def RowStore.src : RowStore → Nat
  | .spad c | .slice c | .lanes c => c
  | .chip die bank => 9 * 4096 + (if die then 2048 else 0) + bank

end Sys2Proof

namespace Sys2Proof.Machine

/-! ### The field GF(2^8) of R396 -/

/-- Multiplication by α. -/
def gfAlpha (x : Nat) : Nat := if x ≥ 128 then (2 * x) ^^^ 0x11D else 2 * x

/-- Multiplication by α^n. -/
def gfScale (x : Nat) : Nat → Nat
  | 0 => x
  | n + 1 => gfScale (gfAlpha x) n

/-- The key of a byte's symbol: data banks hold memory, the two check banks lie beyond it. -/
def symKey (rowKey bank col : Nat) : Nat :=
  if bank < 16 then rowKey + bank * 64 + col else 2 ^ 61 + (rowKey / 1024) * 128 + (bank - 16) * 64 + col

/-- The error in one symbol. -/
def State.symErr (s : State) (rowKey bank col : Nat) : Nat := (memGet s.flips (symKey rowKey bank col)).toNat

/-- The two syndromes of a column. -/
def State.syndrome (s : State) (rowKey col : Nat) : Nat × Nat :=
  (List.range 18).foldl (fun a b => let e := s.symErr rowKey b col; (a.1 ^^^ e, a.2 ^^^ gfScale e b)) (0, 0)

/-- The bank a column's syndrome locates, if any. -/
def locate (y : Nat × Nat) : Option Nat := (List.range 18).find? (fun b => y.1 != 0 && gfScale y.1 b == y.2)

/-- What decoding a row finds (R396, R397): clean, corrected in one bank, or uncorrectable. -/
inductive RowState where
  | clean
  | fixed (bank : Nat)
  | bad
  deriving DecidableEq, Repr

def State.repairOf (s : State) (st : RowStore) : Option RowRepair := s.repairs.find? (fun r => r.store == st)

/-- The bank that decoding of a row treats as erased: a failed bank that the spare does not serve for this row (R397). -/
def State.erased (s : State) (rowKey : Nat) : Option Nat :=
  match s.repairOf (rowStoreOf rowKey) with
  | none => none
  | some r => r.failed.find? fun b =>
      !(r.spare == some b && decide ((rowKey - (rowStoreOf rowKey).base) / 1024 < r.pointer))

/-- Decode the row that starts at a key. -/
def State.decodeRow (s : State) (rowKey : Nat) : RowState :=
  if s.flips.isEmpty then .clean
  else
    let ys := (List.range 64).map (s.syndrome rowKey)
    match s.erased rowKey with
    | some f => if ys.all (fun y => gfScale y.1 f == y.2) then .clean else .bad
    | none =>
      let bad := ys.filter (fun y => y != (0, 0))
      match bad with
      | [] => .clean
      | y :: _ =>
        match locate y with
        | none => .bad
        | some b => if bad.all (fun z => locate z == some b) then .fixed b else .bad

/-- What a decoded byte reads as: the byte as corrected, which is the byte written unless the code was deceived. -/
def State.rowByte (s : State) (k : Nat) : Byte :=
  let v := memGet s.mem k
  if s.flips.isEmpty then v
  else
    let rowKey := k / 1024 * 1024
    let e := memGet s.flips k
    let fix := match s.decodeRow rowKey, s.erased rowKey with
      | .fixed b, _ => if b = k % 1024 / 64 then (s.syndrome rowKey (k % 64)).1 else 0
      | .clean, some f => if f = k % 1024 / 64 then (s.syndrome rowKey (k % 64)).1 else 0
      | _, _ => 0
    v ^^^ e ^^^ BitVec.ofNat 8 fix

/-! ### Addresses of error records (R401, R408) -/

/-- The chip-scratchpad window's offset of a byte, as the partition that sees it counts (R352). -/
def State.chipOffset (s : State) (o : Nat) : Nat :=
  if !s.split then o else if o < 0x4000000 then o % 2 ^ 24 else 0x4000000 + (o - 0x4000000) % 0x3000000

/-- A physical key as an error record gives it (R401): W and OFS of R408, with the physical address for HBM and host memory. A shared slice
lies in the window of its core's gang. -/
def State.codeKey (s : State) (k : Nat) : Word :=
  let coded := fun (w o : Nat) => (.ofNat 64 (w * 2 ^ 56 + o) : Word)
  if k < 2 ^ 57 then coded 0 (k % 2 ^ 56)
  else if k < 2 ^ 58 then coded 1 (s.chipOffset (k - 2 ^ 57))
  else if k < 2 ^ 59 then coded 3 (k % 2 ^ 22)
  else if k < 2 ^ 60 then
    let id := (k - 2 ^ 59) / 2 ^ 22
    let v := ((s.cores.find? fun c => c.id == id && !c.urg).map fun c => c.ctl.vcore.toNat).getD 0
    coded 2 (v * sliceSize (decide (1024 ≤ id)) + k % 2 ^ 22)
  else coded 4 (k % 2 ^ 15)

/-! ### Uncorrectable units (R399) -/

def BadUnit.overlaps (k n : Nat) : BadUnit → Bool
  | .bytes a m => decide (a < k + n) && decide (k < a + m)
  | _ => false

def BadUnit.within (k n : Nat) : BadUnit → Bool
  | .bytes a m => decide (k ≤ a) && decide (a + m ≤ k + n)
  | _ => false

/-- Wrong bits of some bytes. -/
def State.wrongBits (s : State) (k n : Nat) : Nat :=
  ((List.range (8 * n)).filter fun i => (memGet s.flips (k + i / 8)).getLsbD (i % 8)).length

/-! ### Check values of the coherent class (R221) -/

/-- One byte of a CRC-32C, polynomial 0x1EDC6F41, low bit first (PRESUMED: the manual names the polynomial and no bit order, log
entry 127). -/
def crcByte (c : BitVec 32) (b : Byte) : BitVec 32 :=
  (List.range 8).foldl (fun c _ => if c.getLsbD 0 then (c >>> 1) ^^^ 0x82F63B78#32 else c >>> 1) (c ^^^ b.setWidth 32)

/-- The check value of some bytes. -/
def crc32c (bs : List Byte) : BitVec 32 := ~~~(bs.foldl crcByte 0xFFFFFFFF#32)

/-- The key of the error pattern of a block's check value. -/
def checkKey (block : Nat) : Nat := 2 ^ 62 + block / 256 * 4

/-- The bits that a check value and an error pattern over its block differ by: the check value is linear. -/
def crcDiff (e : List Byte) : BitVec 32 := e.foldl crcByte 0#32

/-- A byte as a read delivers it: as its row decodes, without the wrong bit that SEC-DED corrects in a lane word or in 8 bytes of the chip
scratchpad, else as it stands (R395). -/
def State.codedByte (s : State) (k : Nat) : Byte :=
  if isRowKey k then s.rowByte k else if 2 ^ 57 ≤ k then memGet s.mem k else memGet s.mem k ^^^ memGet s.flips k

/-- Whether a 256-byte block of the coherent class fails its check value: the bytes as a read delivers them, against the value made over the
bytes as they were written, as it stands (R221). An error stands with its block, in whichever store of the package carries it. -/
def State.crcBad (s : State) (block : Nat) : Bool :=
  let kept := crc32c (memBytes s.mem block 256) ^^^ BitVec.ofNat 32 (memNat s.flips (checkKey block) 4)
  let seen := crc32c ((List.range 256).map fun i => s.codedByte (block + i))
  kept != seen

/-- Whether a unit fails its code (R221, R395, R396): a lane-slice word with two or more wrong bits, a row, a block of the coherent class by
its check value, or a block of the chip scratchpad with two or more wrong bits in 8 bytes. -/
def State.unitBad (s : State) (u n : Nat) : Bool :=
  if 2 ^ 60 ≤ u then decide (2 ≤ s.wrongBits u n)
  else if isRowKey u then s.decodeRow u == .bad
  else !isHostKey u && (s.crcBad u || (decide (2 ^ 57 ≤ u) && (List.range 32).any fun j => decide (2 ≤ s.wrongBits (u + 8 * j) 8)))

/-- The size of a unit (R399): a word, a row, or a block. -/
def unitSize (k : Nat) : Nat := if 2 ^ 60 ≤ k then 4 else if isRowKey k then 1024 else 256

/-- The units that `n` bytes at a key touch. -/
def unitsUnder (k n : Nat) : List Nat :=
  let z := unitSize k
  ((List.range (n / z + 2)).map fun i => (k / z + i) * z).filter fun u => decide (u < k + n)

/-- The units under `n` bytes at a key that fail their code. -/
def State.codeUnits (s : State) (k n : Nat) : List Nat :=
  if s.flips.isEmpty then [] else (unitsUnder k n).filter fun u => s.unitBad u (unitSize k)

/-- Whether some byte of `n` at a key lies in an uncorrectable unit. -/
def State.badBytes (s : State) (k n : Nat) : Bool := s.bad.any (BadUnit.overlaps k n) || !(s.codeUnits k n).isEmpty

/-! ### Corrections (R395, R397, R398) -/

/-- Count a correction in a bank and a row of a store, keep its record, and mark a bank of a scratchpad or slice at the sixteenth (R397,
R398). -/
def State.countFix (s : State) (st : RowStore) (bank row key : Nat) : State :=
  let r := (s.repairOf st).getD ⟨st, [], [], none, 0⟩
  let n := ((r.counts.find? fun p => p.1 == bank).map Prod.snd).getD 0 + 1
  let r := { r with counts := (bank, n) :: r.counts.filter fun p => p.1 != bank }
  let s := { s with repairs := r :: s.repairs.filter fun x => x.store != st }
  let s := s.record st.src 0 0 (s.codeKey key) (.ofNat 64 (bank + 256 * row))
  if n = 16 ∧ isRowKey st.base then { s with agenda := s.agenda ++ [(s.core.name, .bankFailMark st bank)] } else s

/-- The corrections that a read of `n` bytes at a key makes: a bank of each row, a wrong bit of each lane word, or of each 8 bytes of the
chip scratchpad, with the address of what is corrected. The codes of HBM belong to its stacks. -/
def State.fixesAt (s : State) (k n : Nat) : List (RowStore × Nat × Nat × Nat) :=
  let small := fun (z : Nat) =>
    (((List.range (n / z + 2)).map fun i => (k / z + i) * z).filter fun u => decide (u < k + n) && s.wrongBits u z == 1).filterMap fun u =>
      (rowPlace u).map fun p => (p.1, p.2.2, p.2.1, u)
  if s.flips.isEmpty || n = 0 then []
  else if isRowKey k then (unitsUnder k n).filterMap fun u =>
    match s.decodeRow u with
    | .fixed b => some (rowStoreOf u, b, u % 2 ^ 22 / 1024, if b < 16 then u + 64 * b else u)
    | _ => none
  else if 2 ^ 60 ≤ k then small 4
  else if 2 ^ 57 ≤ k then small 8
  else []

/-- A read of bytes counts the corrections that it makes on its way (R395, R398). -/
def State.countRead (s : State) (k n : Nat) : State :=
  (s.fixesAt k n).foldl (fun s x => s.countFix x.1 x.2.1 x.2.2.1 x.2.2.2) s

/-! ### What a write does to the units it touches (R221, R395, R396, R399) -/

/-- The keys of a unit's error pattern besides its own bytes: the check banks of a row, the check value of a block. -/
def isCheckOf (u k : Nat) : Bool :=
  if isRowKey u then decide (symKey u 16 0 ≤ k) && decide (k < symKey u 16 0 + 128)
  else decide (u < 2 ^ 58) && decide (checkKey u ≤ k) && decide (k < checkKey u + 4)

/-- The error pattern of a row's check banks that belongs to an error pattern of its data: check symbols are made anew from the data (R396).
`e` gives the errors of the row's bytes. -/
def rowChecks (u : Nat) (e : Nat → Byte) : List (Nat × Byte) :=
  ((List.range 64).map fun j =>
    let a := (List.range 16).foldl (fun (x : Nat × Nat) b => let v := (e (u + 64 * b + j)).toNat; (x.1 ^^^ v, x.2 ^^^ gfScale v b)) (0, 0)
    let want := a.2 ^^^ gfScale a.1 16
    let c := if want = 0 then 0 else ((List.range 256).find? fun x => gfScale x 16 ^^^ gfScale x 17 == want).getD 0
    [(symKey u 16 j, BitVec.ofNat 8 (a.1 ^^^ c)), (symKey u 17 j, BitVec.ofNat 8 c)]).flatten

/-- The errors that a write of `n` bytes at a key leaves in one unit. A unit written whole has none. In a unit that cannot be read the
written bytes alone are good. In any other the rest is corrected and merged, and the code is made anew over all of it: a byte that its code
had read wrongly keeps that value. -/
def State.unitFlips (s : State) (k n : Nat) (m : Mem) (u : Nat) : Mem :=
  let z := unitSize u
  let hit := fun (i : Nat) => decide (k ≤ i) && decide (i < k + n)
  let here := fun (i : Nat) => decide (u ≤ i) && decide (i < u + z)
  if k ≤ u ∧ u + z ≤ k + n then m.filter fun p => !here p.1 && !isCheckOf u p.1
  else if s.unitBad u z || s.bad.any (BadUnit.overlaps u z) then m.filter fun p => !(here p.1 && hit p.1)
  else
    let left := fun (i : Nat) => if hit i then 0#8 else s.codedByte i ^^^ memGet s.mem i
    let data := (List.range z).map fun i => (u + i, left (u + i))
    let checks := if isRowKey u then rowChecks u left
      else if u < 2 ^ 57 then (List.range 4).zip (natBytes (crcDiff (data.map Prod.snd)).toNat 4) |>.map fun p => (checkKey u + p.1, p.2)
      else []
    (data ++ checks).foldl (fun m p => memPut m p.1 p.2) (m.filter fun p => !here p.1 && !isCheckOf u p.1)

/-- The corrections that a write makes in what it merges with: units that it does not cover (R396, R398). -/
def State.countMerged (s : State) (k n : Nat) : State :=
  let z := unitSize k
  ((s.fixesAt k n).filter fun x => let u := x.2.2.2 / z * z; !(decide (k ≤ u) && decide (u + z ≤ k + n))).foldl
    (fun s x => s.countFix x.1 x.2.1 x.2.2.1 x.2.2.2) s

/-- Effect of a write on the units it touches (R399): a unit written whole becomes good, a unit written in part stays
uncorrectable and a record of class 2 is kept. -/
def State.writeUnits (s : State) (k n : Nat) : State :=
  let z := unitSize k
  let s := s.countMerged k n
  let cut := (s.codeUnits k n).filter fun u => !(decide (k ≤ u) && decide (u + z ≤ k + n))
  let part := !cut.isEmpty || s.bad.any fun u => u.overlaps k n && !u.within k n
  let s := { s with bad := (s.bad.filter fun u => !u.within k n) ++ cut.map fun u => .bytes u z,
                    flips := if s.flips.isEmpty then [] else (unitsUnder k n).foldl (s.unitFlips k n) s.flips }
  if part then s.coreRecord 2 0xA (s.codeKey k) 0#64 else s

end Sys2Proof.Machine
end

