-- ==== Sys2Proof/Machine/Access.lean ====
section
/-! DEFINITION. Memory access: windows (R209, R210), translation (R355 to R362), scheduled accesses and their banks (R212 to
R217, R432), coherent accesses and the logical clocks (R223, R224), landings (R36, R37, R400). -/

namespace Sys2Proof.Machine

/-! ### Windows -/

/-- The five windows, coded as R408 codes them. -/
inductive Win where
  | global | chip | shared | spad | lane
  deriving DecidableEq, Repr

def Win.base : Win → Nat
  | .global => 0
  | .chip => 0xFFFF000000000000
  | .shared => 0xFFFF000100000000
  | .spad => 0xFFFF000200000000
  | .lane => 0xFFFF000300000000

def Win.code : Win → Nat
  | .global => 0
  | .chip => 1
  | .shared => 2
  | .spad => 3
  | .lane => 4

def Win.scheduled : Win → Bool
  | .global | .chip => false
  | _ => true

/-- Perform offset and landing latency of a scheduled window (R212). -/
def Win.offset : Win → Nat
  | .lane => 1
  | .spad => 3
  | .shared => 12
  | _ => 0
def Win.latency : Win → Nat
  | .lane => 3
  | .spad => 6
  | .shared => 24
  | _ => 0

/-- The partition of a core (R351). -/
def State.partOf (s : State) (id : Nat) : Nat :=
  if s.split then (if 1024 ≤ id then (id - 1024) / 48 else id / 192) else 0

/-- Extent of a window for a core (R209, R371). -/
def State.extent (s : State) (c : Core) : Win → Nat
  | .global => 2 ^ 48
  | .chip => 2 ^ 28
  | .shared => if c.urg then 0 else (s.gangOf c).length * sliceSize c.die
  | .spad => if c.urg then 2 ^ 16 else sliceSize c.die
  | .lane => if c.urg then 0 else 2 ^ 15

/-- Whether `n` bytes at an offset of the chip-scratchpad window lie in the view of a partition (R352). -/
def State.chipView (s : State) (o n : Nat) : Bool :=
  !s.split || decide (o + n ≤ 2 ^ 24) || (decide (0x4000000 ≤ o) && decide (o + n ≤ 0x7000000))

/-- The first offset of a window that a core may reach: supervisor firmware reaches no byte of the monitor's scratchpad (R382). -/
def Core.floor (c : Core) (w : Win) : Nat := if w = .spad && c.guarded then 2 ^ 16 else 0

/-- The window that holds the `n` bytes at an address wholly, with the offset (R209, R210). -/
def State.window (s : State) (c : Core) (a n : Nat) : Option (Win × Nat) :=
  ([Win.global, .chip, .shared, .spad, .lane].find? fun w =>
    decide (w.base + c.floor w ≤ a) && decide (a + n ≤ w.base + s.extent c w) && (w != .chip || s.chipView (a - w.base) n)).map
    fun w => (w, a - w.base)

/-- The chip-scratchpad key of an offset of the window (R211, R352). -/
def State.chipKey (s : State) (c : Core) (o : Nat) : Nat :=
  if s.split then
    if o < 2 ^ 24 then keyChip (s.partOf c.id * 2 ^ 24 + o)
    else keyChip (0x4000000 + s.partOf c.id * 0x3000000 + (o - 0x4000000))
  else keyChip o

/-- The `CORE` value behind a virtual core of the gang (R68, R211). -/
def State.coreOfV (s : State) (c : Core) (v : Nat) : Nat :=
  (((s.members c).find? fun m => m.1 == c.ctl.gang.toNat && m.2.1 == v).map fun m => m.2.2 % 65536).getD c.id

/-- The physical key of an offset of a window other than the global one (R211, R371). -/
def State.keyOf (s : State) (c : Core) (w : Win) (o : Nat) : Nat :=
  match w with
  | .global => o
  | .chip => s.chipKey c o
  | .shared => keySlice (s.coreOfV c (o / sliceSize c.die)) (o % sliceSize c.die)
  | .spad => keySpad c.id (if c.urg then sliceSize c.die - 65536 + o else o)
  | .lane => keyLane c.id o

/-- An address as R408 codes it, under an origin. -/
def State.codeAddr (s : State) (c : Core) (origin a : Nat) : Word :=
  match s.window c a 1 with
  | some (w, o) => .ofNat 64 (origin * 2 ^ 60 + w.code * 2 ^ 56 + o)
  | none => .ofNat 64 (origin * 2 ^ 60 + 15 * 2 ^ 56 + a % 2 ^ 56)

/-- The first of some bytes at an address that the window of the address does not hold: the address itself where no window holds it (R407). -/
def State.spanFault (s : State) (a : Nat) : Nat :=
  match s.window s.core a 1 with
  | none => a
  | some (.chip, o) => Win.chip.base + (if !s.split then 2 ^ 28 else if o < 2 ^ 24 then 2 ^ 24 else 0x7000000)
  | some (w, _) => w.base + s.extent s.core w

/-! ### Translation -/

/-- What a check of an access finds: its result, a trap, or a translation that is not yet present. -/
inductive Chk (α : Type) where
  | ok (a : α)
  | bad (code : Nat) (info : Word) (late : Bool)
  | miss (w : WalkReq)
  deriving Repr

/-- Continue a check. -/
def Chk.bind {α β : Type} (x : Chk α) (f : α → Chk β) : Chk β :=
  match x with
  | .ok a => f a
  | .bad c i l => .bad c i l
  | .miss w => .miss w

/-- Check each element, in order. -/
def Chk.all {α β : Type} (f : α → Chk β) : List α → Chk (List β)
  | [] => .ok []
  | a :: r => (f a).bind fun b => (Chk.all f r).bind fun bs => .ok (b :: bs)

/-- Bytes of HBM in the package (R13, R357). -/
def hbmSize : Nat := 384 * 2 ^ 30

/-- A TLB entry matches an address under a tag (R359). -/
def TlbEntry.hits (e : TlbEntry) (asid : BitVec 16) (va : Nat) : Bool :=
  decide (e.va ≤ va) && decide (va < e.va + e.size) && (e.g || e.asid == asid)

/-- The first failing permission check of R358 (checks 3 to 5): the subcode, or none. -/
def TlbEntry.denies (e : TlbEntry) (level : Nat) (write atomic : Bool) : Option Nat :=
  if level = 0 ∧ !e.u then some 4
  else if (write || atomic) ∧ !e.w then some 3
  else if atomic ∧ e.h then some 6
  else none

/-- `TRAPINFO` of XLATE (R407). -/
def xlateInfo (va sub : Nat) : Word := .ofNat 64 (va % 2 ^ 48 + sub * 2 ^ 48)

/-- Translate a global address (R357, R359, R360, R362): a page that the L1 TLB holds with permission, or a walk. At
monitor level no translation takes place. -/
def State.translate (s : State) (va : Nat) (write atomic : Bool) : Chk Nat :=
  let c := s.core
  if c.exc.level.toNat = 2 then (if va < hbmSize then .ok va else .bad 4 (xlateInfo va 1) false)
  else
    let req : WalkReq := ⟨va, write, atomic⟩
    if c.port.walkBad.contains req then .bad 0xA (.ofNat 64 (7 * 2 ^ 60 + va)) true
    else match c.port.walkFault.find? fun f => f.1 == req with
      | some (_, sub) => .bad 4 (xlateInfo va sub.toNat) true
      | none =>
        match c.port.tlb.find? (fun e => e.hits c.exc.asid va) with
        | none => .miss req
        | some e =>
          match e.denies c.exc.level.toNat write atomic with
          | some _ => .miss req
          | none => .ok (if e.h then keyHost (e.pa + (va - e.va)) else e.pa + (va - e.va))

/-- Alignment and window of an access (R100 checks 1 and 2). -/
def State.checkWin (s : State) (a n align : Nat) : Chk (Win × Nat) :=
  if a % align ≠ 0 then .bad 6 (.ofNat 64 a) false
  else match s.window s.core a n with
    | none => .bad 5 (.ofNat 64 a) false
    | some x => .ok x

/-- The physical key of an access that lies in a window (R100 check 4). -/
def State.checkKey (s : State) (w : Win) (o : Nat) (write atomic : Bool) : Chk Nat :=
  match w with
  | .global => s.translate o write atomic
  | _ => .ok (s.keyOf s.core w o)

/-- A coherent-only access: a scheduled window is ILLOP (R100 check 3, R250). -/
def State.checkCoh (s : State) (a n : Nat) (write atomic : Bool) : Chk Nat :=
  (s.checkWin a n n).bind fun x =>
    if x.1.scheduled then .bad 1 (.ofNat 64 s.where) false else s.checkKey x.1 x.2 write atomic

/-- The stores of the bundle in hand that stand in earlier slots. -/
def State.bundleStores (s : State) : List StorePiece :=
  let p := s.core.port
  (p.sched.filterMap fun a => match a.kind with | .store ps => if a.issue = s.core.unf then some ps else none | _ => none).flatten ++
  (p.cohQ.filterMap fun a => match a.kind with | .store ps _ => if a.issue = s.core.unf then some ps else none | _ => none).flatten

/-- Finish a checked operation: go on, trap, or wait for a walk (R38, R100, R430). -/
def State.checked {α : Type} (s : State) (x : Chk α) (f : α → Out) : Out :=
  match x with
  | .ok a => f a
  | .bad code info late => if late then s.lateTrap code info else s.trap code info
  | .miss w => .next ((s.modPort fun p => { p with walk := some w, walkOwn := s.bundleStores }).wait .tlbMiss)

/-! ### Bytes as a core sees them -/

/-- Key of an address of the chip scratchpad as a partition sees it (R352). -/
def State.partKey (s : State) (part a : Nat) : Nat := s.chipKey { Core.reset 0 with id := 192 * part } (a - Win.chip.base)

/-- Bytes of the words that only the Scruple and SQCFG write (R318, R331). -/
def State.fgByte (s : State) (k : Nat) : Bool :=
  (List.range (if s.split then 4 else 1)).any fun p =>
    let b := (s.blocks.toList.getD p 0#256).toNat
    let base := s.partKey p (bits b 128 64)
    decide (0 < bits b 192 11) && decide (base ≤ k) && decide (k < base + 8 * bits b 192 11)

/-- What of `n` bytes at a key a write other than the Scruple's reaches: runs outside the (F, G) words (R331). -/
def State.ownRuns (s : State) (k : Nat) : Nat → List (Nat × Nat)
  | 0 => []
  | n + 1 =>
    let r := s.ownRuns (k + 1) n
    if s.fgByte k then r
    else match r with
      | (j, m) :: t => if j = k + 1 then (k, m + 1) :: t else (k, 1) :: r
      | [] => [(k, 1)]

/-- Write bytes to memory; (F, G) bytes keep their value (R331), written units become good (R399), and a part of the
draft-state region loses its tag (R330). -/
def State.putBytes (s : State) (k : Nat) (data : List Byte) : State :=
  let m := data.foldl (fun (a : Nat × Mem) b => (a.1 + 1, if s.fgByte a.1 then a.2 else memPut a.2 a.1 b)) (k, s.mem)
  let s := (if (List.range data.length).any fun i => s.fgByte (k + i) then s.ownRuns k data.length else [(k, data.length)]).foldl
    (fun s r => s.writeUnits r.1 r.2) s
  { s with
    mem := m.2
    tags := if s.tags.isEmpty then [] else s.tags.filter fun t => !(decide (k < t.1 * 128 + 128) && decide (t.1 * 128 < k + data.length)) }

/-- Host-mapped bytes leave as posted writes in program order; the model applies them in that order (R238). -/
def State.putPieces (s : State) (ps : List StorePiece) : State := ps.foldl (fun s p => s.putBytes p.key p.data) s

/-- An instance that its launch may still trim (R309, R313). -/
def Inst.provisional (i : Inst) : Bool :=
  match i.st with
  | .waitProv | .runProv | .held | .finished | .trimmed => true
  | _ => false

/-- A byte of the provisional store buffer of an instance (R236): the last write wins. -/
def bufByte (buf : List StorePiece) (k : Nat) : Option Byte :=
  buf.foldl (fun r p => if p.key ≤ k ∧ k < p.key + p.data.length then p.data[k - p.key]? else r) none

/-- The bytes at a key as one number, over a source of committed bytes, with the core's own provisional writes (R236). -/
def State.viewNat (s : State) (c : Core) (src : Nat → Byte) (k : Nat) : Nat → Nat
  | 0 => 0
  | n + 1 =>
    let own := if c.prov then (match s.instOf c with | none => none | some i => bufByte i.buf k) else none
    (own.getD (src k)).toNat + 256 * s.viewNat c src (k + 1) n

/-- Append writes of a provisional instance to its buffer, (F, G) bytes left out (R236, R331); those of a trimmed instance, which
has no launch left, are discarded (R313). -/
def State.bufPut (s : State) (c : Core) (ps : List StorePiece) : State :=
  match c.launch with
  | none => s
  | some (l, i) =>
    let keep := (ps.map fun p =>
      ((List.range p.data.length).zip p.data).filterMap fun x =>
        if s.fgByte (p.key + x.1) then none else some (⟨p.key + x.1, [x.2]⟩ : StorePiece)).flatten
    let keep := if ps.any (fun p => (List.range p.data.length).any fun j => s.fgByte (p.key + j)) then keep else ps
    s.modInst l i fun x => { x with buf := x.buf ++ keep }

/-! ### Coherent accesses (R223, R224) -/

/-- Ways and sets of the L1 of a core: 128 KiB in 8 ways on the verify die, 64 KiB in 4 ways on the draft die (R219). -/
def l1Ways (draft : Bool) : Nat := if draft then 4 else 8
def l1Sets : Nat := 64

/-- Sets of the L2 of either die, and ways of the draft L2: 192 MiB in 24 ways, 16 MiB in 16 ways (R219). -/
def l2vSets : Nat := 32768
def l2dWays : Nat := 16
def l2dSets : Nat := 4096

/-- Ways of the verify L2 that cache: the locked ones are its highest (R220). -/
def State.cacheWays (s : State) : Nat := 24 - s.ways

/-- Whether two lines share a set of a cache with so many sets (DESIGN CHOICE, log entry 6). -/
def sameSet (sets a b : Nat) : Bool := Config.cacheIndex sets a % sets == Config.cacheIndex sets b % sets

/-- The copy that leaves a cache to make room for a line: none while the line's set has a free way. -/
def victim (ways sets pick : Nat) (ls : List Lease) (line : Nat) : Option Lease :=
  let ls := ls.filter fun l => l.line != line
  if ls.length < ways then none
  else
    let set := ls.filter fun l => sameSet sets l.line line
    if set.length < ways then none else set[Config.victim pick % ways]?

/-- Put a copy into a cache, in place of an older copy of its line or of a victim. -/
def putCopy (ls : List Lease) (out : Option Lease) (l : Lease) : List Lease :=
  l :: ls.filter fun x => x.line != l.line && some x.line != out.map Lease.line

/-- The line enters the verify L2 or is used there; `dirty` makes it newer than HBM. The line it replaces goes to HBM. -/
def State.touchL2 (s : State) (line : Nat) (dirty : Bool) : State :=
  if 2 ^ 56 ≤ line * 256 then s
  else match s.l2v.find? fun x => x.line == line with
    | some x => { s with l2v := ⟨line, x.way, x.dirty || dirty⟩ :: s.l2v.filter fun x => x.line != line }
    | none =>
      let n := s.cacheWays
      let set := if s.l2v.length < n then s.l2v else s.l2v.filter fun x => sameSet l2vSets x.line line
      match (List.range n).find? fun w => !set.any fun x => x.way == w with
      | some w => { s with l2v := ⟨line, w, dirty⟩ :: s.l2v }
      | none =>
        let w := Config.victim s.fresh % n
        { s.tick with l2v := ⟨line, w, dirty⟩ :: s.l2v.filter fun x => !(sameSet l2vSets x.line line && x.way == w) }

/-- An access comes to the home of a line: what an L1 holds modified is written there first (R219). -/
def State.atHome (s : State) (line : Nat) (write : Bool) : State :=
  State.touchL2 { s with owned := cput 0 s.owned line 0 } line (write || cget 0 s.owned line != 0)

/-- Whether HBM holds the latest bytes of a global line (R246). -/
def State.hbmCurrent (s : State) (line : Nat) : Bool :=
  cget 0 s.owned line == 0 && !s.l2v.any fun x => x.line == line && x.dirty

/-- A copy enters the L1 of the core in focus; a modified line that it replaces is written to its home. -/
def State.putL1 (s : State) (l : Lease) : State :=
  let out := victim (l1Ways s.core.die) l1Sets s.fresh s.core.port.l1 l.line
  let s := match out with
    | none => s
    | some x => if cget 0 s.owned x.line = s.core.name + 1 then s.tick.atHome x.line true else s.tick
  s.modPort fun p => { p with l1 := putCopy p.l1 out l }

/-- A copy of a global line enters the draft L2. -/
def State.putL2d (s : State) (l : Lease) : State :=
  let out := victim l2dWays l2dSets s.fresh s.l2d l.line
  { (if out.isSome then s.tick else s) with l2d := putCopy s.l2d out l }

/-- The bytes of a line as memory has them. -/
def lineData (m : Mem) (line : Nat) : Mem := m.filter fun c => decide (line * 256 ≤ c.1) && decide (c.1 < line * 256 + 256)

/-- The home grants the core in focus a lease of a line (R224); a draft core's copy of a global line passes through the draft L2. -/
def State.grantLease (s : State) (line : Nat) : State :=
  let s := s.atHome line false
  let (w, r) := cget (0, 0) s.lines line
  let l : Lease := ⟨line, w, max r (s.core.port.pts + 32), lineData s.mem line⟩
  let s := { s with lines := cput (0, 0) s.lines line (l.wts, l.rts) }
  let s := if s.core.die && decide (line * 256 < 2 ^ 56) then s.putL2d l else s
  (s.putL1 l).modPort fun p => { p with pts := max p.pts w }

/-- Read the line of a key: a copy serves the read while its lease lasts, in the L1 or, for a draft core, in the draft L2, else the home
grants a new lease (R224). The bytes come from the copy. -/
def State.leaseLine (s : State) (k : Nat) : State × Mem :=
  let line := k / 256
  let held := fun (ls : List Lease) => ls.find? fun l => l.line == line && decide (s.core.port.pts ≤ l.rts)
  if isHostKey k then (s, s.mem)
  else match held s.core.port.l1 with
    | some l => (s.modPort fun p => { p with pts := max p.pts l.wts }, l.data)
    | none =>
      match if s.core.die then held s.l2d else none with
      | some l => ((s.putL1 l).modPort fun p => { p with pts := max p.pts l.wts }, l.data)
      | none => (s.grantLease line, s.mem)

/-- Take write ownership of the line of a key: the store's timestamp (R224). The L1 holds the line from then on. -/
def State.ownLine (s : State) (k : Nat) : State :=
  if isHostKey k then s
  else
    let line := k / 256
    let s := if cget 0 s.owned line = s.core.name + 1 then s else s.atHome line false
    let (_, r) := cget (0, 0) s.lines line
    let ts := max s.core.port.pts (r + 1)
    let s := (s.putL1 ⟨line, ts, ts, []⟩).modPort fun p => { p with pts := ts }
    { s with lines := cput (0, 0) s.lines line (ts, ts), owned := cput 0 s.owned line (s.core.name + 1) }

/-- The core in focus stands in T after everything that its engines have written (R101, R234, R235). -/
def State.afterEngines (s : State) : State := s.modPort fun p => { p with pts := max p.pts p.stamp }

/-- The copy of a line that the core in focus has just written follows its write. -/
def State.refresh (s : State) (k : Nat) : State :=
  s.modPort fun p => { p with l1 := p.l1.map fun l => if l.line = k / 256 then { l with data := lineData s.mem l.line } else l }

/-- No copy of a line is left with the core in focus: its next read comes to the home (R229). -/
def State.dropOwn (s : State) (k : Nat) : State :=
  let s := s.modPort fun p => { p with l1 := p.l1.filter fun l => l.line != k / 256 }
  if s.core.die then { s with l2d := s.l2d.filter fun l => l.line != k / 256 } else s

/-- Stores of the core in focus at their place in T: each line's timestamp, then the bytes (R224). -/
def State.storeOwned (s : State) (ps : List StorePiece) : State :=
  ps.foldl (fun s p => s.refresh p.key) ((ps.foldl (fun s p => s.ownLine p.key) s).putPieces ps)

/-- A write of an engine with its own clock: the timestamp it takes, and the clock after it (R224, R230). -/
def State.engineLine (s : State) (clock k : Nat) : State × Nat :=
  if isHostKey k || !isCohKey k then (s, clock)
  else
    let line := k / 256
    let (_, r) := cget (0, 0) s.lines line
    let ts := max clock (r + 1)
    ({ s.atHome line true with lines := cput (0, 0) s.lines line (ts, ts) }, ts)

/-- Read pieces into a value. -/
def State.readPieces (s : State) (base : Vec) (ps : List LoadPiece) : State × Vec :=
  ps.foldl (fun (a : State × Vec) p =>
    let (s, src) := a.1.leaseLine p.key
    let v := s.viewNat s.core (memGet src) p.key p.n
    (s, a.2 ||| (BitVec.ofNat 1024 v <<< p.lo))) (s, base)

/-- The first uncorrectable piece of a load (R399). -/
def State.badPiece (s : State) (ps : List LoadPiece) : Bool := ps.any fun p => s.badBytes p.key p.n

/-- Give a pending landing its value (R37); `bad` is the `TRAPINFO` of an uncorrectable error. -/
def State.fill (s : State) (issue slot : Nat) (v : Vec) (valid : Bool) (bad : Option Word) (here : Bool) : State :=
  s.modPort fun p => { p with landings := p.landings.map fun l =>
    if l.issue == issue && l.slot == slot && l.val.isNone then { l with val := some v, valid := valid, bad := bad, arrived := here }
    else l }

/-- The operand of a type, and the result of an atomic (R248). -/
def AtTyBytes (t : AtTy) : Nat := match t with | .i64 | .n64 => 8 | _ => 4

def atomicNew (op : AtOp) (ty : AtTy) (old b : Nat) : Nat :=
  let n := 8 * AtTyBytes ty
  let b := b % 2 ^ n
  let less := match ty with
    | .i64 | .i32 => decide (signed n old ≤ signed n b)
    | _ => decide (old ≤ b)
  match op with
  | .add => (old + b) % 2 ^ n
  | .and => old &&& b
  | .or => old ||| b
  | .xor => old ^^^ b
  | .swap => b
  | .min => if less then old else b
  | .max => if less then b else old

/-- The value an atomic returns: sign-extended for .i32 (R248). -/
def atomicRet (ty : AtTy) (old : Nat) : Vec :=
  match ty with
  | .i32 => BitVec.ofNat 1024 (BitVec.ofInt 64 (signed 32 old)).toNat
  | _ => BitVec.ofNat 1024 old

/-- Read-modify-write of bytes at their home, with the line's clocks moved as for a store. -/
def State.rmw (s : State) (k n : Nat) (f : Nat → Option Nat) (sc : Bool) : State × Nat :=
  let old := memNat s.mem k n
  let t := if sc then s.ownLine k else s.dropOwn k
  let t := match f old with
    | none => t
    | some v => t.putBytes k (natBytes v n)
  (if sc then t.refresh k else if isHostKey k then t else { t with owned := cput 0 t.owned (k / 256) (t.core.name + 1) }, old)

/-! ### Barrier objects (R239 to R242) -/

/-- FLIP of R240: an armed object whose count is reached. -/
def boFlip (o : Nat) : Nat :=
  if o.testBit 58 && decide (bits o 0 28 ≤ bits o 28 28) then (o - 2 ^ 58 - bits o 0 28 * 2 ^ 28) ^^^ 2 ^ 56 else o

/-- BOINIT and BOARM of an object with an expected count (R244). -/
def boInit (n : Nat) : Nat := boFlip (n + 2 ^ 58)
def boArm (o n : Nat) : Nat := boFlip ((o - bits o 0 28 + n) ||| 2 ^ 58)

/-- Record a fault: a later one leaves an earlier cause in place (R242). -/
def boFault (o cause : Nat) : Nat := if o.testBit 57 then o else o - bits o 59 4 * 2 ^ 59 + cause * 2 ^ 59 + 2 ^ 57

/-- An addition of `n` bytes whose coherent writes carry a largest timestamp (R240, R242). -/
def boAdd (o n stamp : Nat) : Nat :=
  let arr := bits o 28 28 + n
  let top := max (bits o 64 64) stamp
  let o := bits o 0 64 - bits o 28 28 * 2 ^ 28
  let o := if arr < 2 ^ 28 then o + arr * 2 ^ 28 else boFault (o + (2 ^ 28 - 1) * 2 ^ 28) 9
  boFlip (o + top * 2 ^ 64)

/-- An object as the core in focus sees it: its home, or its instance's own update while provisional (R236, R312). -/
def State.boRead (s : State) (key : Nat) : Nat := s.viewNat s.core (memGet s.mem) key 16

/-- One indivisible update of an object at its home (R240); a provisional instance updates its buffer in a coherent
window (R312). -/
def State.boUpdate (s : State) (key : Nat) (f : Nat → Nat) : State :=
  let data := natBytes (f (s.boRead key)) 16
  if s.core.prov && isCohKey key then s.bufPut s.core [⟨key, data⟩] else s.putBytes key data

/-- A BOINIT or BOARM at the object's home. -/
def State.boSet (s : State) (key exp : Nat) (arm : Bool) : State :=
  s.boUpdate key fun o => if arm then boArm o exp else boInit exp

/-- The value that an atomic returns: the write before it, or an older value where its use admits one (R232): for `.qua`
one that the core's lease holds, for `.spc` one that the location held at issue. -/
def State.atomicOld (s : State) (use : AtUse) (key n old : Nat) (early : Option Nat) : State × Nat :=
  let other := match use with
    | .qua => (s.core.port.l1.find? fun l => l.line == key / 256 && decide (s.core.port.pts ≤ l.rts)).map fun l => memNat l.data key n
    | .spc => early
    | _ => none
  match other with
  | none => (s, old)
  | some v => (s.tick, if Config.stale s.fresh then v else old)

/-- Perform an atomic (R232, R248, R249): only a `.sc` one has a place in T; what a relaxed one wrote is made visible to
every holder of an older copy at the next fence. -/
def State.performAtomic (s : State) (a : Coh) (use : AtUse) (key n : Nat) (addr : Word) (early : Option Nat)
    (f : Nat → Option Nat) (ret : Nat → Vec) : State :=
  if s.badBytes key n then s.fill a.issue a.slot 0#1024 true (some (s.codeAddr s.core 0 addr.toNat)) false
  else
    let (t, seen) := s.atomicOld use key n (memNat s.mem key n) early
    let (t, _) := t.rmw key n f (use == .sc)
    let t := if use == .sc then t else t.modPort fun p => { p with relaxed := (key / 256) :: p.relaxed.filter (· != key / 256) }
    t.fill a.issue a.slot (ret seen) true none false

/-- Perform one coherent access of the core in focus at its place in T (R223, R224). -/
def State.performCoh (s : State) (a : Coh) : State :=
  match a.kind with
  | .load base ps addr _ =>
    let bad := s.badPiece ps
    let (s, v) := s.readPieces base ps
    let info := s.codeAddr s.core 0 addr.toNat
    s.fill a.issue a.slot v true (if bad then some info else none) false
  | .store ps _ =>
    if s.core.prov then s.bufPut s.core ps
    else s.storeOwned ps
  | .atomic op ty use key b addr early =>
    s.performAtomic a use key (AtTyBytes ty) addr early (fun old => some (atomicNew op ty old b.toNat)) (atomicRet ty)
  | .cas use key n b c addr early =>
    s.performAtomic a use key n addr early
      (fun old => if old = b.toNat % 2 ^ (8 * n) then some (c.toNat % 2 ^ (8 * n)) else none) (BitVec.ofNat 1024)
  | .bo key exp arm => s.boSet key exp arm
  | .tag fgKey =>
    if s.badBytes fgKey 8 then
      -- the VSTV is dropped (R334)
      (s.coreRecord 2 0xA (s.codeKey fgKey) 0#64).modPort fun p => { p with region := p.region.filter fun r =>
        match r with
        | .vstv i t .. => !(i == a.issue && t == a.slot)
        | _ => true }
    else
    let (s, src) := s.leaseLine fgKey
    let g := BitVec.ofNat 32 (s.viewNat s.core (memGet src) (fgKey + 4) 4)
    s.modPort fun p => { p with region := p.region.map fun r =>
      match r with
      | .vstv i t k f pos none ls => if i == a.issue && t == a.slot then .vstv i t k f pos (some g) ls else r
      | _ => r }

/-! ### Scheduled accesses (R212 to R217) -/

/-- Memory, bank and row of a byte (R213). -/
def bankOf (k : Nat) : Nat × Nat × Nat :=
  if k < 2 ^ 60 then (k / 2 ^ 22, k / 64 % 16, k % 2 ^ 22 / 1024)
  else (k / 2 ^ 15 + 2 ^ 40, k % 2 ^ 15 / 1024, k % 1024 / 4)

/-- Bank cycles of some byte ranges: one for each memory, bank and row (R213). -/
def bankCycles (rs : List (Nat × Nat)) : List (Nat × Nat × Nat) :=
  (rs.map fun r => [bankOf r.1, bankOf (r.1 + r.2 - 1)]).flatten.foldl (fun acc b => if acc.contains b then acc else b :: acc) []

/-- Byte ranges of a scheduled access. -/
def SchedKind.ranges : SchedKind → List (Nat × Nat)
  | .load _ ps _ => ps.map fun p => (p.key, p.n)
  | .store ps => ps.map fun p => (p.key, p.data.length)
  | .send key _ _ _ _ => [(key, 64)]
  | .bo _ _ _ => []

def SchedKind.reads : SchedKind → Bool
  | .store _ => false
  | _ => true

/-- Bank cycles used on a bank by some accesses: how many a cycle offers is R213's port count. -/
def overload (as : List SchedKind) (b : Nat × Nat) : Nat :=
  let cyc := fun (k : SchedKind) => ((bankCycles k.ranges).filter fun x => x.1 == b.1 && x.2.1 == b.2).length
  if 2 ^ 40 ≤ b.1 then
    let rd := ((as.filter SchedKind.reads).map cyc).sum
    let wr := ((as.filter fun k => !k.reads).map cyc).sum
    max ((rd + 1) / 2 - 1) (wr - 1)
  else (as.map cyc).sum - 1

/-- Banks of some accesses. -/
def banksOf (as : List SchedKind) : List (Nat × Nat) :=
  ((as.map fun k => (bankCycles k.ranges).map fun x => (x.1, x.2.1)).flatten).foldl
    (fun acc b => if acc.contains b then acc else b :: acc) []

/-- Lost bank cycles of the accesses that are due in one cycle, among the lane slices (R214, R215). -/
def lostLanes (as : List SchedKind) : Nat := (((banksOf as).filter fun b => decide (2 ^ 40 ≤ b.1)).map (overload as)).foldl max 0

/-- The key of a bank. -/
def bankKey (b : Nat × Nat) : Nat := b.1 * 32 + b.2

/-- The bank cycles that some accesses need of the banks with one port, by bank (R213). -/
def bankNeeds (as : List SchedKind) : Cells Nat :=
  (as.map fun k => (bankCycles k.ranges).filter fun x => decide (x.1 < 2 ^ 40)).flatten.foldl
    (fun m x => cput 0 m (bankKey (x.1, x.2.1)) (cget 0 m (bankKey (x.1, x.2.1)) + 1)) []

/-- Bank cycles are taken from a physical cycle on, after those that the banks have given already (R214). -/
def State.takeBanks (s : State) (t : Nat) (need : Cells Nat) : State :=
  { s with busy := need.foldl (fun m x => cput 0 m x.1 (max t (cget 0 m x.1) + x.2)) (s.busy.filter fun x => decide (t < x.2)) }

/-- The cycles after a physical cycle for which some banks are taken. -/
def State.banksLate (s : State) (t : Nat) (need : Cells Nat) : Nat :=
  (need.map fun x => cget 0 s.busy x.1 - (t + 1)).foldl max 0

/-- Scheduled accesses of the domain due in a cycle, in the order of R214: issue cycle, then virtual core, then slot. -/
def State.schedDue (s : State) (due : Nat) : List (Nat × Sched) :=
  let all := (s.pick s.domain).map fun c => (c.port.sched.filter fun a => a.due == due).map fun a => (c, a)
  let lt := fun (x y : Core × Sched) =>
    if x.2.issue != y.2.issue then decide (x.2.issue < y.2.issue)
    else if x.1.ctl.vcore != y.1.ctl.vcore then decide (x.1.ctl.vcore.toNat < y.1.ctl.vcore.toNat)
    else decide (x.2.slot < y.2.slot)
  (sortBy lt all.flatten).map fun x => (x.1.name, x.2)

/-- Accesses of the domain that were performed in this unfrozen cycle and were due in a cycle. -/
def State.takenDue (s : State) (due : Nat) : List SchedKind :=
  ((s.pick s.domain).map fun c => (c.port.taken.filter fun a => a.due == due).map Sched.kind).flatten

/-- The bank in which a new access would lose a bank cycle to accesses of the gang issued before it (R215), if any. -/
def State.missedBank (s : State) (due : Nat) (k : SchedKind) : Option Nat :=
  let before := s.takenDue due ++ (s.schedDue due).map fun x => x.2.kind
  let hit := (banksOf [k]).filter fun b => decide (overload (before ++ [k]) b > 0)
  (hit.map Prod.snd).foldl (fun m b => match m with | none => some b | some x => some (min x b)) none

/-- Read scheduled pieces: bytes as their code corrects them (R395), held arrivals not yet performed (R217). -/
def State.readSched (s : State) (base : Vec) (ps : List LoadPiece) : State × Vec :=
  ps.foldl (fun (a : State × Vec) p =>
    let v := bytesNat ((List.range p.n).map fun i => a.1.codedByte (p.key + i))
    (a.1.countRead p.key p.n, a.2 ||| (BitVec.ofNat 1024 v <<< p.lo))) (s, base)

/-- Drop what is left of a SEND that fails: no further chunk is read or performed, and it has its fault to report (R254, R265, R399). -/
def Port.dropSend (p : Port) (name seq cause : Nat) : Port :=
  { p with
    sched := p.sched.filter fun a => (match a.kind with | .send _ _ _ _ q => q != seq | _ => true)
    chunks := p.chunks.filter fun c => c.sender != some (name, seq)
    nq := p.nq.map fun j => if j.seq == seq then { j with op := .report 0 cause } else j }

/-- The flows of a peer (R276): by tile index, or by the destination core of a SEND, which its gang and its number name. -/
def tileFlow (idx : Nat) : Nat := idx
def sendFlow (gang vc : Nat) : Nat := 4096 + gang * 256 + vc

/-- The port that carries a flow (R276): one that the peer's entry allows and that is up, by a fixed hash of the flow and the peer. -/
def State.portFor (s : State) (part pkg flow : Nat) : Option Nat :=
  match s.peers.find? fun e => e.1 == part * 8192 + pkg with
  | none => none
  | some (_, e) =>
    let ups := (List.range 8).filter fun i => e.getLsbD (16 + i) && s.portsUp.getLsbD i
    ups[Config.portHash flow (part * 8192 + pkg) % max 1 ups.length]?

/-- Hand a packet to the network, for the address that the peer's entry gives now (R276, R418). -/
def State.netSend (s : State) (part pkg flow : Nat) (body : NetBody) : State :=
  match s.portFor part pkg flow, s.peers.find? fun e => e.1 == part * 8192 + pkg with
  | some port, some (_, e) => { s with netOut := s.netOut ++ [⟨pkg, port, e.extractLsb' 64 128, body⟩] }
  | _, _ => s

/-- A chunk read of a SEND hands its bytes on: to its landing (R264), or to the network (R265). -/
def State.sendRead (s : State) (a : Sched) (key lat : Nat) (dest : SendTo) (ctr : RegNo) (seq : Nat) : State :=
  let s := s.countRead key 64
  if s.badBytes key 64 then
    match s.core.port.nq.find? fun j => j.seq == seq with
    | none => s
    | some j =>
      ((s.coreRecord 2 0xA (s.codeKey key) 0#64).modPort fun p => p.dropSend s.core.name j.seq 0xA)
  else
    let data := (List.range 64).map fun i => s.codedByte (key + i)
    match dest with
    | .here c k => s.modPort fun p => { p with chunks := p.chunks ++ [⟨a.due - 3 + lat, c, k, ctr, data, some (s.core.name, seq)⟩] }
    | .there pkg gang vc win off =>
      s.netSend (s.partOf s.core.id) pkg (sendFlow gang vc) (.send s.core.ctl.inst.toNat gang vc win off ctr data)

/-- Perform one scheduled access of the core in focus (R212). -/
def State.performSched (s : State) (a : Sched) : State :=
  match a.kind with
  | .load base ps addr =>
    let bad := s.badPiece ps
    let (s, v) := s.readSched base ps
    s.fill a.issue a.slot v true (if bad then some (s.codeAddr s.core 0 addr.toNat) else none) true
  | .store ps => s.putPieces ps
  | .bo key exp arm => s.boSet key exp arm
  | .send key lat dest ctr seq => s.sendRead a key lat dest ctr seq

/-- Perform every scheduled access of the domain that is due in a cycle. Each takes the next free cycle of its banks, after the arrivals,
and the domain is frozen from the next cycle on until the last has had its own (R214, R215). A load with a delay of 0 is performed after
the accesses that were due in its issue cycle, and loses to them (R432). -/
def State.performDue (s : State) (due : Nat) : State :=
  let as := s.schedDue due
  let before := s.takenDue due
  let ks := as.map fun x => x.2.kind
  let need := bankNeeds ks
  let t := s.core.clock
  let s := s.takeBanks t need
  let lost := max (s.banksLate t need) (lostLanes (before ++ ks))
  let s := as.foldl (fun s x => s.on x.1 fun s => s.performSched x.2) s
  let s := s.domain.foldl (fun s n => s.modAt n fun c =>
    { c with port := { c.port with
        sched := c.port.sched.filter fun a => a.due != due
        taken := c.port.taken ++ c.port.sched.filter fun a => a.due == due } }) s
  s.modCore fun c => { c with lost := max c.lost lost }

/-! ### Clocks of engine operations (R230) -/

/-- The clock of an engine operation is the core's pts once no earlier coherent access waits for its timestamp. -/
def Port.clockFor (p : Port) (seq : Nat) (clock : Option Nat) : Option Nat :=
  match clock with
  | some c => some c
  | none => if p.cohQ.any fun c => decide (c.seq < seq) then none else some p.pts

/-- The same for what an engine keeps of an operation. -/
def Port.fix (p : Port) (j : Issued) : Issued := { j with clock := p.clockFor j.seq j.clock }

/-- A job of the Scruple for the core in focus receives its clock in the same way. -/
def ScrJob.fix (c : Core) : ScrJob → ScrJob
  | .round n pt a o j e h z => .round n pt a o (if n = c.name then c.port.fix j else j) e h z
  | .config n pt i a j o => .config n pt i a (if n = c.name then c.port.fix j else j) o

def ArrJob.fix (p : Port) : ArrJob → ArrJob
  | .mgo n => .mgo { n with toIssued := p.fix n.toIssued }
  | .mepi e => .mepi { e with toIssued := p.fix e.toIssued }

/-- What an engine keeps of an operation that issues now. -/
def State.issuedNow (s : State) : Issued :=
  let e := s.core.exc
  ⟨s.core.port.seq, s.core.unf, s.core.clock, e.level, e.asid, e.ptroot, s.core.port.clockFor s.core.port.seq none⟩

/-- The core in focus as it was at the issue of an operation: its level and its translation registers (R350, R363). -/
def State.asIssued (s : State) (j : Issued) : State :=
  s.modExc fun e => { e with level := j.level, asid := j.asid, ptroot := j.ptroot }

/-- Run for an operation of the core in focus, as at its issue. -/
def State.under (s : State) (j : Issued) (f : State → State) : State :=
  let e := s.core.exc
  (f (s.asIssued j)).modExc fun x => { x with level := e.level, asid := e.asid, ptroot := e.ptroot }

/-- Give every waiting engine operation of the core its clock, if it can have one now. -/
def State.fixClocks (s : State) : State :=
  let p := s.core.port
  let f := fun (j : CopyJob) => { j with toIssued := p.fix j.toIssued }
  { s with scrQ := s.scrQ.map (ScrJob.fix s.core), core := { s.core with
      port := { p with cq0 := p.cq0.map f, cq1 := p.cq1.map f, nq := p.nq.map fun j => { j with toIssued := p.fix j.toIssued } }
      mtx := { s.core.mtx with arrQ := s.core.mtx.arrQ.map (ArrJob.fix p) } } }

/-! ### Remote arrivals (R214, R217, R264) -/

/-- A counter saturates at 2^32 - 1 (R261). -/
def addCtr (x : BitVec 32) (n : Nat) : BitVec 32 := .ofNat 32 (min (x.toNat + n) (2 ^ 32 - 1))

/-- A BOINIT or BOARM of an object that the core issued before an operation is still to be performed. -/
def Port.objBefore (p : Port) (key : Nat) (j : Issued) : Bool :=
  p.cohQ.any (fun a => decide (a.seq < j.seq) && (match a.kind with | .bo k _ _ => k == key | _ => false)) ||
  p.sched.any fun a => decide (a.issue ≤ j.issue) && (match a.kind with | .bo k _ _ => k == key | _ => false)

/-- The operation of a job of the communication engine changes. -/
def Port.setOp (p : Port) (seq : Nat) (op : CommOp) : Port :=
  { p with nq := p.nq.map fun x => if x.seq == seq then { x with op := op } else x }

/-- A chunk of a job is performed; with the last one the job has its bytes to report on its object (R264). -/
def State.chunkDone (s : State) (seq : Nat) : State :=
  match s.core.port.nq.find? fun j => j.seq == seq with
  | none => s
  | some j =>
    match j.op with
    | .send left total => s.modPort fun p => p.setOp seq (if left ≤ 1 then .report total 0 else .send (left - 1) total)
    | _ => s

/-- A chunk has been performed at its bank: the arrival counter, and the sender's job (R264, R265). -/
def State.countChunk (s : State) (c : Chunk) : State :=
  let s := s.modAt c.dest fun d =>
    { d with port := { d.port with counters := d.port.counters.set c.ctr (addCtr (d.port.counters.get c.ctr) c.data.length) } }
  match c.sender with
  | none => s
  | some (n, seq) => s.on n fun s => s.chunkDone seq

/-- A chunk is performed at its bank, with its bytes (R264, R265). -/
def State.performChunk (s : State) (c : Chunk) : State := (s.putBytes c.key c.data).countChunk c

/-- Whether a lock hold keeps the bank of a key (R48, R217). -/
def State.bankLocked (s : State) (k : Nat) : Bool :=
  s.cores.any fun c => (match c.flow.hold with
    | none => false
    | some h => decide (keySpad c.id 0 ≤ k) && decide (k < keySpad c.id 0 + 2 ^ 22) && h.banks.getLsbD (k / 64 % 16))

/-- Whether a lock hold keeps a bank, by its key (R217). -/
def State.bankKeyLocked (s : State) (b : Nat) : Bool :=
  s.cores.any fun c => (match c.flow.hold with
    | none => false
    | some h => b / 32 == keySpad c.id 0 / 2 ^ 22 && h.banks.getLsbD (b % 32))

/-- A chunk takes the next free cycle of its bank, ahead of every access that comes to the bank later (R214). Its bytes stand for all of
those; the counter and the sender's job follow in its cycle (DEDUCED, log entry 121). -/
def State.placeChunk (s : State) (c : Chunk) : State :=
  let t := s.now
  let need := bankNeeds [.store [⟨c.key, c.data⟩]]
  let s := s.takeBanks t need
  let late := s.banksLate t need
  if late = 0 then s.performChunk c else { s.putBytes c.key c.data with arrived := s.arrived ++ [(t + late, c)] }

/-- A chunk arrives at its bank: it queues behind a lock hold, else it takes its place in the bank's order (R214, R217). -/
def State.arriveChunk (s : State) (c : Chunk) : State :=
  if s.bankLocked c.key then { s with held := s.held ++ [c] } else s.placeChunk c

/-! ### Bank cycles of the engines (R216) -/

/-- The bank cycles that units `a` to `z` of 64 bytes take in the memory of a key, added to those counted: one for each unit (R213). -/
def unitNeeds (m : Cells Nat) (key a z : Nat) : Cells Nat :=
  (List.range 16).foldl (fun m b =>
    -- units u with a ≤ u ≤ z and u mod 16 = b
    let n := (z + 16 - b) / 16 - (a + 15 - b) / 16
    let k := bankKey ((bankOf key).1, b)
    if n = 0 then m else cput 0 m k (cget 0 m k + n)) m

/-- The bank cycles that some runs take in each bank of the scheduled memories: bytes in one row of a bank share one (R213). The runs are
taken by rising address, and `a.2` is the first unit that is not counted yet. -/
def runNeeds (rs : List (Nat × Nat)) : Cells Nat :=
  ((sortBy (fun x y => decide (x.1 < y.1)) (rs.filter fun r => !isCohKey r.1 && decide (0 < r.2))).foldl
    (fun (a : Cells Nat × Nat) r =>
      let z := (r.1 + r.2 - 1) / 64
      let lo := max (r.1 / 64) a.2
      (if lo ≤ z then unitNeeds a.1 r.1 lo z else a.1, max a.2 (z + 1))) ([], 0)).1

/-- An engine of the core in focus asks for the bank cycles of an access of an operation, or has been given them all (R216): true lets it
act. While no core of its gang goes on, no scheduled access takes a bank cycle. The engines are numbered in their order: 0 the array's
reads, 1 its epilogues, 2 and 3 the copy engines, 4 the communication engine, and 5 the Scruple (DESIGN CHOICE, log entry 122). -/
def State.engineTurn (s : State) (eng seq : Nat) (rs : List (Nat × Nat)) : State × Bool :=
  let need := runNeeds rs
  let rest := s.core.port.grants.filter fun g => !(g.1 == eng && g.2.1 == seq)
  let put := fun (l : List (Nat × Nat × Cells Nat)) => s.modPort fun p => { p with grants := l }
  if need.isEmpty || !((s.pick s.gang).any s.runnable) then (put rest, true)
  else match s.core.port.grants.find? fun g => g.1 == eng && g.2.1 == seq with
    | none => (put (sortBy (fun a b => decide (a.1 < b.1)) (rest ++ [(eng, seq, need)])), false)
    | some (_, _, []) => (put rest, true)
    | some _ => (s, false)

/-- At the end of a physical cycle the banks that nothing has taken in it serve the engines of a core, in their order (R216). -/
def State.serveEngines (s : State) (n : Nat) : State :=
  match s.coreAt n with
  | none => s
  | some c =>
    if c.port.grants.isEmpty then s
    else
      let t := c.clock
      let one := fun (a : Cells Nat × Cells Nat) (x : Nat × Nat) =>
        if t < cget 0 a.1 x.1 || s.bankKeyLocked x.1 then (a.1, cput 0 a.2 x.1 x.2)
        else (cput 0 a.1 x.1 (t + 1), cput 0 a.2 x.1 (x.2 - 1))
      let r := c.port.grants.foldl (fun (a : Cells Nat × List (Nat × Nat × Cells Nat)) g =>
        let (busy, left) := g.2.2.foldl one (a.1, [])
        (busy, a.2 ++ [(g.1, g.2.1, left)])) (s.busy, [])
      { s with busy := r.1 }.modAt n fun c => { c with port := { c.port with grants := r.2 } }

/-! ### Requests of loads and stores -/

/-- Entries that the landing buffer may hold (R37, R369). -/
def Core.landingLimit (c : Core) : Nat := if c.urg then 16 else 64

/-- Whether one more pending landing fits (R37). -/
def State.landingRoom (s : State) : Bool :=
  decide ((s.core.port.landings.filter fun l => l.counts).length < s.core.landingLimit)

/-- The landing delay D (R36). -/
def delayCycles (d : Delay) : Nat := d.lat.toNat * 4 ^ d.e.toNat

/-- Add a pending landing of the operation in hand. A delay of 0 lands in the next unfrozen cycle (R432). -/
def State.addLanding (s : State) (delay need : Nat) (dst : LandDst) (counts : Bool) : State :=
  s.modPort fun p => { p with landings := p.landings ++
    [⟨s.core.unf + max delay 1, s.core.unf, s.core.flow.slot, dst, none, true, none, false, counts, need - delay⟩] }

/-- Queue a coherent access of the operation in hand, in program order (R223). -/
def State.addCoh (s : State) (k : CohKind) : State :=
  s.modPort fun p => { p with cohQ := p.cohQ ++ [⟨p.seq, s.core.unf, s.core.flow.slot, k⟩], seq := p.seq + 1 }

/-- Queue a scheduled access (R212), due after `off` unfrozen cycles. -/
def State.addSched (s : State) (off : Nat) (k : SchedKind) : State :=
  s.modPort fun p => { p with sched := p.sched ++ [⟨s.core.unf + off, s.core.unf, s.core.flow.slot, k⟩] }

/-- CHKSTALL for a bank conflict (R215, R407). -/
def State.bankStall (s : State) (b : Nat) : Out := s.trap 3 (.ofNat 64 (s.where + 2 ^ 15 + b * 2 ^ 16))

/-- Make the request of a load whose pieces are resolved (R36, R212, R432). -/
def State.load (s : State) (w : Win) (delay : Nat) (dst : LandDst) (base : Vec) (ps : List LoadPiece) (addr : Word) (acq : Bool) :
    Out :=
  if w.scheduled then
    let off := min delay w.offset
    let k := SchedKind.load base ps addr
    match (if s.core.ctl.chk then s.missedBank (s.core.unf + off) k else none) with
    | some b => s.bankStall b
    | none => .next ((s.addLanding delay w.latency dst true).addSched off k)
  else .next ((s.addLanding delay 0 dst true).addCoh (.load base ps addr acq))

/-- Make the request of a store whose pieces are resolved (R212). -/
def State.store (s : State) (w : Win) (ps : List StorePiece) (rel : Bool) : Out :=
  if w.scheduled then
    let k := SchedKind.store ps
    match (if s.core.ctl.chk then s.missedBank (s.core.unf + w.offset) k else none) with
    | some b => s.bankStall b
    | none => .next (s.addSched w.offset k)
  else .next (s.addCoh (.store ps rel))

/-- A descriptor read (R158, R179): an address aligned to its size in the core scratchpad, read as a scheduled load, that
lands six cycles later without a landing-buffer entry. -/
def State.descRead (s : State) (addr n : Nat) (dst : LandDst) (f : State → Out) : Out :=
  if addr % n ≠ 0 then s.trap 6 (.ofNat 64 addr)
  else match s.window s.core addr n with
    | some (.spad, o) =>
      let k := SchedKind.load 0#1024 [⟨0, s.keyOf s.core .spad o, n⟩] (.ofNat 64 addr)
      (match (if s.core.ctl.chk then s.missedBank (s.core.unf + 3) k else none) with
       | some b => s.bankStall b
       | none => f ((s.addLanding 6 0 dst false).addSched 3 k))
    | _ => s.illop

/-! ### Landings (R36, R37, R400) -/

/-- The low `8n` bits of a value, sign-extended or zero-extended to a word (R98). -/
def extendWord (n : Nat) (sx : Bool) (x : Nat) : Word :=
  if sx then BitVec.ofInt 64 (signed (8 * n) x) else .ofNat 64 (x % 2 ^ (8 * n))

/-- The oldest MEPI without its descriptor receives it; `bad` marks one that could not be read (R164, R166). -/
def Mtx.giveDesc (m : Mtx) (d : BitVec 512) (bad : Bool) : Mtx :=
  { m with arrQ := (m.arrQ.foldl (fun (a : Bool × List ArrJob) j =>
      match a.1, j with
      | false, .mepi e => if e.desc.isNone then (true, a.2 ++ [.mepi { e with desc := some d, bad := bad }]) else (false, a.2 ++ [j])
      | _, j => (a.1, a.2 ++ [j])) (false, [])).2 }

/-- The bits of a shape-table entry that are kept (R170). -/
def shapeMask : BitVec 256 := .ofNat 256 (2 ^ 30 - 1 + (2 ^ 55 - 2 ^ 32) + (2 ^ 176 - 2 ^ 64))

/-- Write a good landing to its destination. -/
def State.land (s : State) (l : Landing) (v : Vec) : State :=
  match l.dst with
  | .scalar d n sx => s.putS d (extendWord n sx v.toNat)
  | .notice d => (s.putS d (.ofNat 64 v.toNat)).modPort fun p => { p with pts := max p.pts (v.toNat >>> 64) }
  | .vector d => s.putV d v
  | .vldv d k => (s.putV d (if l.valid then v else 0#1024)).modRegs fun r =>
      r.writeK k (if l.valid then 0xFFFFFFFF#32 else 0#32)
  | .stream n => (s.goodReg (regCode 6 n.val)).modMtx fun m => { m with streams := m.streams.set n ⟨.ofNat 256 v.toNat, none⟩ }
  | .nest => s.modMtx fun m => { m with nest := .ofNat 256 v.toNat }
  | .shape n => (s.goodReg (regCode 7 n)).modCore fun c => { c with spe := { c.spe with shapes := cput 0#256 c.spe.shapes n (.ofNat 256 v.toNat &&& shapeMask) } }
  | .mepi => s.modMtx fun m => m.giveDesc (.ofNat 512 v.toNat) false

/-- Write the landing that is due (R36): the shortfall of its window is frozen first (R37, R432); a bad landing is not
written, and the bundle due in this cycle will report it (R400). -/
def State.landNext (s : State) (l : Landing) (v : Vec) : State :=
  let s := s.modPort fun p => { p with landings := p.landings.filter fun x => !(x.issue == l.issue && x.slot == l.slot) }
  let s := s.modCore fun c => { c with owed := max c.owed l.need }
  match l.bad with
  | none => s.land l v
  | some info =>
    -- a descriptor read reports ORIGIN 6 (R158, R408)
    let info := match l.dst with
      | .stream _ | .nest | .shape _ => info + .ofNat 64 (6 * 2 ^ 60)
      | _ => info
    let s := s.coreRecord 2 0xA info info
    match l.dst with
    | .mepi => s.modMtx fun m => m.giveDesc 0#512 true
    | _ => s.modPort fun p => { p with mcheck := some (p.mcheck.getD info) }

end Sys2Proof.Machine
end

