-- ==== Sys2Proof/Machine/Memory.lean ====
section
/-! DEFINITION. Loads and stores (R98 to R101), and the events that perform them: result writes and landings (R33, R36, R37),
scheduled and coherent performs (R214, R224), clock drift (R224), page walks (R355 to R362). -/

namespace Sys2Proof.Machine

/-- Access size in bytes of SZ (R98). -/
def szBytes (sz : BitVec 2) : Nat := 2 ^ sz.toNat

/-- A load of one scalar: the checks of R100, the landing-buffer limit of R37 before any translation wait (R430), the request. -/
def State.loadScalar (s : State) (d : Dst) (a : Src) (sz : BitVec 2) (sx : Bool) (off : BitVec 6) (dl : Delay) (acq : Bool) : Out :=
  let n := szBytes sz
  let addr := (s.gS a + off.signExtend 64 * .ofNat 64 n).toNat
  s.checked (s.checkWin addr n n) fun x =>
    if acq && x.1.scheduled then s.illop
    else if !s.landingRoom then s.illop
    else s.checked (s.checkKey x.1 x.2 false false) fun key =>
      s.load x.1 (delayCycles dl) (.scalar d n sx) 0#1024 [⟨0, key, n⟩] (.ofNat 64 addr) acq

def execLd (d : Dst) (a : Src) (sz : BitVec 2) (sx : Bool) (off : BitVec 6) (dl : Delay) (s : State) : Out :=
  s.loadScalar d a sz sx off dl false
def execLdAcq (d : Dst) (a : Src) (sz : BitVec 2) (sx : Bool) (off : BitVec 6) (dl : Delay) (s : State) : Out :=
  s.loadScalar d a sz sx off dl true

/-- The 256-byte lines of some byte ranges. -/
def linesOf (rs : List (Nat × Nat)) : List Nat :=
  distinct ((rs.filter fun r => decide (0 < r.2)).map fun r =>
    (List.range ((r.1 % 256 + r.2 + 255) / 256)).map fun i => r.1 / 256 + i).flatten

/-- Lines that an instance's buffered writes occupy (R312). -/
def bufLines (ps : List StorePiece) : List Nat := linesOf (ps.map fun p => (p.key, p.data.length))

/-- Stores that the cores of an instance have issued and that are still to enter its buffer. -/
def State.storesDue (s : State) (i : Inst) : List StorePiece :=
  ((s.pick (i.cores.map fun c => c.2.2)).map fun c => (c.port.cohQ.map fun a => match a.kind with | .store ps _ => ps | _ => []).flatten).flatten

/-- Lines of the provisional store buffer in use, or to be used by stores that are issued: an instance has its own line for each line it
wrote (R312). -/
def State.bufUsed (s : State) : Nat :=
  (s.launches.map fun l => (l.insts.map fun i => if i.provisional then (bufLines (i.buf ++ s.storesDue i)).length else 0).sum).sum

/-- A provisional instance is held before a write to a host-mapped page, and before coherent writes that need more new lines than the
buffer of 64 MiB has left (R312): `rs` are the bytes written. A gang that is held stays so until the shape arrives. What a trimmed
instance writes is discarded, and waits for nothing (R313). -/
def State.heldHost (s : State) (rs : List (Nat × Nat)) : Bool :=
  s.core.prov && (match s.instOf s.core with
    | none => false
    | some i =>
      let old := bufLines (i.buf ++ s.storesDue i)
      let new := ((linesOf (rs.filter fun r => isCohKey r.1)).filter fun l => !old.contains l).length
      rs.any (fun r => isHostKey r.1) || i.held.contains s.core.ctl.gang.toNat || (decide (0 < new) && decide (262144 < s.bufUsed + new)))

/-- A write of an engine is held in the same way: the gang of the core in focus freezes, cycle by cycle (R312). -/
def State.heldEngine (s : State) : State := s.markHeld.modCore fun c => { c with owed := max c.owed 1 }

/-- The address of a scalar store (R99). -/
def State.storeAddr (s : State) (a : Src) (sz : BitVec 2) (off : BitVec 15) : Nat :=
  (s.gS a + off.signExtend 64 * .ofNat 64 (szBytes sz)).toNat

/-- A store of one scalar (R99, R100). -/
def State.storeScalar (s : State) (b a : Src) (sz : BitVec 2) (off : BitVec 15) (rel : Bool) : Out :=
  let n := szBytes sz
  let addr := s.storeAddr a sz off
  s.checked (s.checkWin addr n n) fun x =>
    if rel && x.1.scheduled then s.illop
    else s.checked (s.checkKey x.1 x.2 true false) fun key =>
      if s.heldHost [(key, n)] then .next (s.wait .provisional)
      else s.store x.1 [⟨key, natBytes (s.gS b).toNat n⟩] rel

def execSt (b a : Src) (sz : BitVec 2) (off : BitVec 15) (s : State) : Out := s.storeScalar b a sz off false
def execStRel (b a : Src) (sz : BitVec 2) (off : BitVec 15) (s : State) : Out := s.storeScalar b a sz off true

/-! ### Result writes and landings (R33, R36, R37) -/

/-- The fixed-latency result that is next is written at its completion cycle (R33). -/
def execResultWrite (s : State) : Out :=
  match s.core.port.nextPend with
  | none => .next s
  | some p =>
    if s.core.unf < p.due then .next s
    else .next ((s.modPort fun q => { q with pend := q.pend.erase p }).apply p.act)

/-- A VMAXB's write of the scale latch, at issue + 4 (R130). -/
def execScaleLatchWrite (s : State) : Out :=
  match s.core.port.nextPend with
  | none => .next s
  | some p =>
    match p.act with
    | .latch side bf =>
      if s.core.unf < p.due then .next s
      else .next ((s.modPort fun q => { q with pend := q.pend.erase p }).modMtx fun m => { m with latch := some (side, bf) })
    | _ => .next s

/-- The landing that is next is written at its landing cycle, once its data has arrived (R36, R37). -/
def execLanding (s : State) : Out :=
  match s.core.nextLanding with
  | none => .next s
  | some l =>
    match l.val with
    | none => .next s
    | some v => if s.core.unf < l.due || !l.arrived then .next s else .next (s.landNext l v)

/-- Data of a performed request reaches the landing buffer (R37). -/
def execLandingDataArrival (issue slot : Nat) (s : State) : Out :=
  .next (s.modPort fun p => { p with landings := p.landings.map fun l =>
    if l.issue == issue && l.slot == slot && l.val.isSome then { l with arrived := true } else l })

/-! ### Performing (R214, R224) -/

/-- The first cycle in which a scheduled access of the domain is due. -/
def State.firstDue (s : State) : Option Nat :=
  firstBy (fun a b => decide (a < b)) (((s.pick s.domain).map fun c => c.port.sched.map Sched.due).flatten)

/-- The scheduled accesses of the domain that are due take their bank cycles (R214). -/
def execScheduledAccessPerform (s : State) : Out :=
  match s.firstDue with
  | some d => .next (if d ≤ s.core.unf then s.performDue d else s)
  | none => .next s

/-- Copy-engine operations of the core that were issued before a place in program order. One that ended with a fault has left its queue and holds
no ST.REL back (DEDUCED, log entry 138: R101 speaks of completion). -/
def Port.copiesBefore (p : Port) (seq : Nat) : Bool := (p.cq0 ++ p.cq1).any fun j => decide (j.seq < seq)

/-- A load of a ring part stands after the core's earlier VSTVs and VLDVs of that part (R336). -/
def Port.waitsRegion (p : Port) (a : Coh) : Bool :=
  match a.kind with
  | .load _ ps _ _ => p.region.any fun r =>
      (match r with
       | .vstv i t k .. | .vldv i t k .. =>
         (decide (i < a.issue) || (i == a.issue && decide (t < a.slot))) &&
         ps.any fun x => decide (x.key < k + 128) && decide (k < x.key + x.n))
  | _ => false

/-- An ST.REL of the core that still stands before a place in program order: every later coherent access waits for it (R101). -/
def Port.relBefore (p : Port) (before : Coh → Bool) : Bool :=
  p.cohQ.any fun c => before c && (match c.kind with | .store _ true => true | _ => false)

/-- A read stands after the core's earlier `.com` atomics of its bytes (R229). -/
def Port.waitsCom (p : Port) (a : Coh) : Bool :=
  let hit := fun (k n : Nat) => p.comQ.any fun c => decide (c.seq < a.seq) && decide (c.key < k + n) && decide (k < c.key + AtTyBytes c.ty)
  match a.kind with
  | .load _ ps _ _ => ps.any fun x => hit x.key x.n
  | .atomic _ ty _ k _ _ _ => hit k (AtTyBytes ty)
  | .cas _ k n _ _ _ _ => hit k n
  | _ => false

/-- Perform the oldest coherent access of the core, except a held ST.REL (R224, R101). -/
def execCoherentAccessPerform (s : State) : Out :=
  match s.core.port.cohQ with
  | [] => .next s
  | a :: r =>
    match a.kind with
    | .store _ true => .next s
    | _ => if s.core.port.waitsRegion a || s.core.port.waitsCom a then .next s
      else .next (((s.modPort fun p => { p with cohQ := r }).performCoh a).fixClocks)

/-- A held ST.REL is performed once every earlier copy-engine operation has completed, and stands in T after their writes (R101). -/
def execStRelPerform (s : State) : Out :=
  match s.core.port.cohQ with
  | [] => .next s
  | a :: r =>
    match a.kind with
    | .store _ true =>
      if s.core.port.copiesBefore a.seq then .next s
      else .next (((if s.core.prov then s else s.afterEngines).modPort fun p => { p with cohQ := r }).performCoh a).fixClocks
    | _ => .next s

/-- Every 64 cycles pts increases by 1 (R224). -/
def execPtsDrift (s : State) : Out :=
  .next (if s.core.port.drift ≤ s.core.clock then s.modPort fun p => { p with pts := p.pts + 1, drift := p.drift + 64 } else s)

/-! ### Page walks (R355 to R362) -/

/-- The cluster of a core: 192 verify cores to a cluster, one cluster on the draft die (R13, R359). -/
def clusterOf (id : Nat) : Nat := if 1024 ≤ id then 4 else id / 192

/-- What a walk ends in. -/
inductive WalkEnd where
  | fault (sub : Nat)
  | bad
  | page (e : TlbEntry)
  deriving Repr

/-- Whether a physical range may be used by a walk (R357): the partition's HBM, or all of it; `ASID` 0 is bound by the
monitor's tables and to the HBM. -/
def State.walkRange (s : State) (c : Core) (a n : Nat) : Bool :=
  if s.split && c.exc.asid != 0#16 then
    let p := s.partOf c.id
    decide (96 * p * 2 ^ 30 ≤ a) && decide (a + n ≤ 96 * (p + 1) * 2 ^ 30)
  else decide (a + n ≤ hbmSize)

/-- Whether a host page may be used (R353). -/
def State.hostRange (s : State) (c : Core) (a n : Nat) : Bool :=
  if s.split then
    let pm := s.partmap.toNat
    let size := 2 ^ bits pm 8 8
    let b := bits pm 40 16 * 2 ^ 40 + s.partOf c.id * size
    decide (b ≤ a) && decide (a + n ≤ b + size)
  else true

/-- Index bits, table size and page size of a level (R355). -/
def walkIndex (va level : Nat) : Nat :=
  match level with
  | 0 => bits va 39 9
  | 1 => bits va 30 9
  | 2 => bits va 21 9
  | _ => bits va 16 5
def tableSize (level : Nat) : Nat := if level < 3 then 4096 else 256
def pageSize (level : Nat) : Nat := if level = 1 then 2 ^ 30 else if level = 2 then 2 ^ 21 else 2 ^ 16

/-- A malformed entry (R356). -/
def badPte (e level : Nat) : Bool :=
  let leaf := e.testBit 1
  let addr := bits e 8 48 * 256
  bits e 6 2 != 0 || bits e 56 8 != 0 || (leaf && level == 0) || (!leaf && level == 3) ||
  (!leaf && bits e 2 4 != 0) || addr % (if leaf then pageSize level else tableSize (level + 1)) != 0

/-- The walk from a table (R355 to R358), each entry read as a coherent load of the core, after its own stores `own` (R361). -/
def State.walkFrom (s : State) (own : List StorePiece) (va : Nat) : Nat → Nat → Nat → State × WalkEnd
  | 0, _, _ => (s, .fault 2)
  | fuel + 1, level, table =>
    if !s.walkRange s.core table (tableSize level) then (s, .fault 5)
    else
      let k := table + 8 * walkIndex va level
      if s.badBytes k 8 then (s, .bad)
      else
        let (s, src) := s.leaseLine k
        let e := bytesNat ((List.range 8).map fun i => (bufByte own (k + i)).getD (.ofNat 8 (s.viewNat s.core (memGet src) (k + i) 1)))
        let addr := bits e 8 48 * 256
        if !e.testBit 0 then (s, .fault 1)
        else if badPte e level then (s, .fault 2)
        else if e.testBit 1 then
          let size := pageSize level
          let h := e.testBit 4
          if !(if h then s.hostRange s.core addr size else s.walkRange s.core addr size) then (s, .fault 5)
          else (s, .page ⟨s.core.exc.asid, e.testBit 5, va / size * size, size, addr, e.testBit 2, e.testBit 3, h⟩)
        else s.walkFrom own va fuel (level + 1) addr

/-- Drop the entries of an address from both TLB levels of the core (R362). -/
def State.dropEntry (s : State) (va : Nat) : State :=
  let c := s.core
  let s := s.modPort fun p => { p with tlb := p.tlb.filter fun e => !e.hits c.exc.asid va }
  { s with ctlb := s.ctlb.filter fun e => !(e.1 == clusterOf c.id && e.2.hits c.exc.asid va) }

/-- Whether a core waits for the walk of another: a miss of the same die, tag and VA[47:16] (R360). -/
def Core.shares (c d : Core) (va : Nat) : Bool :=
  c.die == d.die && c.exc.asid == d.exc.asid && (match c.port.walk with | some r => r.va / 65536 == va / 65536 | none => false)

/-- An entry enters an L1 TLB, and the miss is over. -/
def Core.fillTlb (c : Core) (e : TlbEntry) : Core := { c with port := { c.port with tlb := e :: c.port.tlb, walk := none } }

/-- Fill the L1 TLB of every core that shares the walk (R360); the entries of a stopped core stay as they are (R373). -/
def State.fillWaiters (s : State) (va : Nat) (e : TlbEntry) : State :=
  s.modAll fun c => if c.shares s.core va && !c.stopped then c.fillTlb e else c

/-- The cluster TLBs of the cores that share a walk take its entry; each keeps the newest 8,192 (R359, R360). -/
def State.fillCluster (s : State) (va : Nat) (e : TlbEntry) : State :=
  (distinct ((s.cores.filter fun c => c.shares s.core va).map fun c => clusterOf c.id)).foldl (fun s cl =>
    { s with ctlb := (cl, e) :: (s.ctlb.filter fun x => x.1 == cl && x.2 != e).take 8191 ++ s.ctlb.filter fun x => x.1 != cl }) s

/-- The end of a translation miss: the cluster TLB, else a walk, fills the waiters; a fault or an uncorrectable entry is
left for the access that needed it (R358, R360, R362). The walk sees every store that precedes the access, those of its own bundle
among them (R361). A stopped core's miss waits for RSUM (R373). -/
def execPageWalkComplete (s : State) : Out :=
  match s.core.port.walk with
  | none => .next s
  | some r =>
    let c := s.core
    let lvl := c.exc.level.toNat
    if c.stopped || c.port.cohQ.any fun a => (match a.kind with | .store _ _ => true | _ => false) then .next s
    else match s.ctlb.find? (fun e => e.1 == clusterOf c.id && e.2.hits c.exc.asid r.va && (e.2.denies lvl r.write r.atomic).isNone) with
    | some e =>
      .next ((s.modPort fun p => { p with tlb := p.tlb.filter fun x => !x.hits c.exc.asid r.va }).modCore fun c => c.fillTlb e.2)
    | none =>
      let (s, w) := (s.dropEntry r.va).walkFrom c.port.walkOwn r.va 4 0 (c.exc.ptroot.toNat * 4096)
      match w with
      | .fault sub => .next (s.modPort fun p => { p with walk := none, walkFault := p.walkFault ++ [(r, .ofNat 3 sub)] })
      | .bad =>
        let s := s.record (8 * 4096 + (if c.die then 2048 else 0)) 2 0xA (.ofNat 64 r.va) (.ofNat 64 (7 * 2 ^ 60 + r.va))
        .next (s.modPort fun p => { p with walk := none, walkBad := p.walkBad ++ [r] })
      | .page e =>
        match e.denies lvl r.write r.atomic with
        | some sub => .next (s.modPort fun p => { p with walk := none, walkFault := p.walkFault ++ [(r, .ofNat 3 sub)] })
        | none => .next ((s.fillCluster r.va e).fillWaiters r.va e)

end Sys2Proof.Machine
end

