-- ==== Sys2Proof/Machine/Atomics.lean ====
section
/-! DEFINITION. Atomics, fences, barrier-object and cache instructions (15_memory_instructions.md R239 to R252, R433;
14_consistency.md R228, R232, R233). -/

namespace Sys2Proof

/-- Whether a scope reaches past the ensemble (R233). -/
def Scope.wide : Scope → Bool
  | .package | .system => true
  | _ => false

end Sys2Proof

namespace Sys2Proof.Machine

/-! ### Atomics (R247 to R251) -/

/-- A value that the location of a `.spc` atomic holds at issue, if no earlier access of the core is still to be performed. -/
def State.earlyValue (s : State) (key n : Nat) : Option Nat :=
  if s.core.port.cohQ.isEmpty && s.core.port.comQ.isEmpty then some (memNat s.mem key n) else none

/-- The checks of R250, then the hold of a provisional instance (R312). A `.com` atomic takes no landing-buffer entry. -/
def State.atomicKey (s : State) (addr n : Nat) (lands : Bool) (f : Nat → Out) : Out :=
  s.checked (s.checkWin addr n n) fun x =>
    if x.1.scheduled then s.illop
    else if lands && !s.landingRoom then s.illop
    else if s.core.prov then .next (s.wait .provisional)
    else s.checked (s.checkKey x.1 x.2 true true) f

/-- AMO (R248): the old value enters the scalar queue at its landing cycle, except for `.com` (R54, R251). -/
def State.amo (s : State) (op : AtOp) (a b : Src) (ty : AtTy) (use : AtUse) (dl : Delay) : Out :=
  let addr := (s.gS a).toNat
  let n := AtTyBytes ty
  if use = .com ∧ op = .swap then s.illop
  else s.atomicKey addr n (use != .com) fun key =>
    if use = .com then
      .next (s.modPort fun p => { p with comQ := p.comQ ++ [⟨p.seq, s.core.unf, op, ty, key, s.gS b, .ofNat 64 addr⟩], seq := p.seq + 1 })
    else
      .next ((s.addLanding (delayCycles dl) 0 (.scalar .queue 8 false) true).addCoh
        (.atomic op ty use key (s.gS b) (.ofNat 64 addr) (s.earlyValue key n)))

def execAmoAdd (a b : Src) (ty : AtTy) (use : AtUse) (dl : Delay) (s : State) : Out := s.amo .add a b ty use dl
def execAmoAnd (a b : Src) (ty : AtTy) (use : AtUse) (dl : Delay) (s : State) : Out := s.amo .and a b ty use dl
def execAmoOr (a b : Src) (ty : AtTy) (use : AtUse) (dl : Delay) (s : State) : Out := s.amo .or a b ty use dl
def execAmoXor (a b : Src) (ty : AtTy) (use : AtUse) (dl : Delay) (s : State) : Out := s.amo .xor a b ty use dl
def execAmoSwap (a b : Src) (ty : AtTy) (use : AtUse) (dl : Delay) (s : State) : Out := s.amo .swap a b ty use dl
def execAmoMin (a b : Src) (ty : AtTy) (use : AtUse) (dl : Delay) (s : State) : Out := s.amo .min a b ty use dl
def execAmoMax (a b : Src) (ty : AtTy) (use : AtUse) (dl : Delay) (s : State) : Out := s.amo .max a b ty use dl

/-- CAS (R249): `.com` is ILLOP. -/
def execCas (a b c : Src) (w : Bool) (use : AtUse) (dl : Delay) (s : State) : Out :=
  let addr := (s.gS a).toNat
  let n := if w then 4 else 8
  if use = .com then s.illop
  else s.atomicKey addr n true fun key =>
    .next ((s.addLanding (delayCycles dl) 0 (.scalar .queue 8 false) true).addCoh
      (.cas use key n (s.gS b) (s.gS c) (.ofNat 64 addr) (s.earlyValue key n)))

/-- Apply one `.com` atomic (R251): combining several only changes the order. -/
def State.applyCom (s : State) (a : ComAtomic) : State :=
  let n := AtTyBytes a.ty
  if s.badBytes a.key n then
    let info := s.codeAddr s.core 8 a.addr.toNat
    let s := s.coreRecord 2 0xA info info
    s.modPort fun p => { p with comErr := some (p.comErr.getD info) }
  else
    let (s, _) := s.rmw a.key n (fun old => some (atomicNew a.op a.ty old a.b.toNat)) false
    s.modPort fun p => { p with relaxed := (a.key / 256) :: p.relaxed.filter (· != a.key / 256) }

/-- The home applies the oldest `.com` atomic of the core (R251, R433); one behind an ST.REL waits for it (R101). -/
def execComAtomicApply (s : State) : Out :=
  match s.core.port.comQ with
  | [] => .next s
  | a :: r =>
    if s.core.port.relBefore fun c => decide (c.seq < a.seq) then .next s
    else .next ((s.modPort fun p => { p with comQ := r }).applyCom a)

/-! ### Fences (R228, R233, R252) -/

/-- Relaxed atomics, `.com` combinations and cache operations of earlier bundles are outstanding (R233, R246). -/
def State.relaxedPending (s : State) : Bool :=
  let p := s.core.port
  let old := fun (i : Nat) => decide (i < s.core.unf)
  p.cohQ.any (fun c => old c.issue && (match c.kind with
    | .atomic _ _ use _ _ _ _ => use != .sc
    | .cas use _ _ _ _ _ _ => use != .sc
    | _ => false)) ||
  p.comQ.any (fun c => old c.issue) || p.cacheOps.any (fun c => old c.issue)

/-- Coherent or scheduled accesses of earlier bundles are outstanding (R228), the reads of SEND among them (R264). -/
def State.accessPending (s : State) : Bool :=
  let p := s.core.port
  let old := fun (i : Nat) => decide (i < s.core.unf)
  p.cohQ.any (fun c => old c.issue) ||
  p.region.any (fun r => match r with | .vstv i .. | .vldv i .. => old i) ||
  p.sched.any (fun a => old a.issue)

/-- Copy-engine operations of earlier bundles are outstanding (R233). -/
def State.copyPending (s : State) : Bool :=
  (s.core.port.cq0 ++ s.core.port.cq1).any fun j => decide (j.issue < s.core.unf)

/-- What a fence of a scope waits for. -/
def State.fencePending (s : State) (sc : Scope) (x : Bool) : Bool :=
  s.relaxedPending || (x && s.accessPending) || (sc.wide && s.copyPending)

/-- The index of a core's gang clock and of its ensemble clock: a core without a launch is alone. -/
def Core.gangKey (c : Core) : Nat :=
  match c.launch with
  | none => 2 ^ 60 + c.name
  | some (l, i) => l * 2 ^ 48 + i * 2 ^ 16 + c.ctl.gang.toNat
def Core.ensKey (c : Core) : Nat :=
  match c.launch with
  | none => 2 ^ 60 + c.name
  | some (l, i) => l * 2 ^ 32 + i

/-- The scope clock C_s (R233). -/
def State.scopeClock (s : State) (sc : Scope) : Nat :=
  match sc with
  | .core => s.core.port.pts
  | .gang => cget 0 s.scopeGang s.core.gangKey
  | .ensemble => cget 0 s.scopeEns s.core.ensKey
  | .package | .system => s.scopePkg

def State.setScopeClock (s : State) (sc : Scope) (v : Nat) : State :=
  match sc with
  | .core => s
  | .gang => { s with scopeGang := cput 0 s.scopeGang s.core.gangKey v }
  | .ensemble => { s with scopeEns := cput 0 s.scopeEns s.core.ensKey v }
  | .package | .system => { s with scopePkg := v }

/-- A scope and those it holds (R233). -/
def scopesIn : Scope → List Scope
  | .core => [.core]
  | .gang => [.gang]
  | .ensemble => [.gang, .ensemble]
  | .package => [.gang, .ensemble, .package]
  | .system => [.gang, .ensemble, .system]

/-- The clocks of FENCE.X at issue (R228): pts := max(pts, C_s), then C_s := pts; with the clocks of the scopes that the scope holds, since
an observer may fence at a wider scope than the writer (DEDUCED, log entry 126). -/
def State.mergeClock (s : State) (sc : Scope) : State :=
  let ts := ((scopesIn sc).map s.scopeClock).foldl max s.core.port.pts
  (s.modPort fun p => { p with pts := ts }).setScopeClock sc ts

/-- What the core's relaxed atomics wrote is performed for every observer: no copy that is older stays (R233). -/
def State.showRelaxed (s : State) : State :=
  let ls := s.core.port.relaxed
  if ls.isEmpty then s
  else ({ s with l2d := s.l2d.filter fun l => !ls.contains l.line }.modAll fun c =>
    { c with port := { c.port with l1 := c.port.l1.filter fun l => !ls.contains l.line } }).modPort fun p => { p with relaxed := [] }

/-- A held `.com` error is reported by a fence that commits nothing (R433). -/
def State.reportCom (s : State) (f : Out) : Out :=
  match s.core.port.comErr with
  | some info => s.lateTrap 0xA info
  | none => f

/-- FENCE and FENCE.X (R252): a provisional instance is held at package and system scope (R312). -/
def State.fence (s : State) (sc : Scope) (x : Bool) : Out :=
  if s.core.prov && sc.wide then .next (s.wait .provisional)
  else if s.fencePending sc x then .next (s.wait .fence)
  else s.reportCom (.next (if x then s.showRelaxed.mergeClock sc else s.showRelaxed))

def execFence (sc : Scope) (s : State) : Out := s.fence sc false
def execFenceX (sc : Scope) (s : State) : Out := s.fence sc true

/-! ### Barrier objects (R243 to R245) -/

/-- Checks 1 to 3 of R244: the window and the key of an object. -/
def State.checkObj (s : State) (a : Nat) : Chk (Win × Nat) :=
  (s.checkWin a 16 16).bind fun x =>
    match x.1 with
    | .global | .lane => .bad 1 (.ofNat 64 s.where) false
    | w => .ok (w, s.keyOf s.core w x.2)

/-- BOINIT and BOARM: performed at the object's home, in program order with the core's accesses of the same class (R241, R244). -/
def State.boWrite (s : State) (a b : Src) (arm : Bool) : Out :=
  s.checked (s.checkObj (s.gS a).toNat) fun x =>
    if 2 ^ 28 ≤ (s.gS b).toNat then s.illop
    else if s.heldHost [(x.2, 16)] then .next (s.wait .provisional)
    else if x.1.scheduled then .next (s.addSched x.1.offset (.bo x.2 (s.gS b).toNat arm))
    else .next (s.addCoh (.bo x.2 (s.gS b).toNat arm))

def execBoinit (a b : Src) (s : State) : Out := s.boWrite a b false
def execBoarm (a b : Src) (s : State) : Out := s.boWrite a b true

/-- Writes of the core to an object that are still to be performed (R229). -/
def State.objPending (s : State) (key : Nat) : Bool :=
  let hit := fun (ps : List StorePiece) => ps.any fun p => decide (p.key < key + 16) && decide (key < p.key + p.data.length)
  s.core.port.sched.any (fun a => match a.kind with
    | .bo k _ _ => k == key
    | .store ps => hit ps
    | _ => false) ||
  s.core.port.cohQ.any (fun a => match a.kind with
    | .bo k _ _ => k == key
    | .store ps _ => hit ps
    | .atomic _ _ _ k _ _ _ | .cas _ k _ _ _ _ _ => decide (k < key + 16) && decide (key < k + 8)
    | _ => false)

/-- BOWAIT (R245): frozen until the home shows ARMED = 0 or FLT = 1; then a trap on a fault, else the acquire of the stamp. -/
def execBowait (a : Src) (s : State) : Out :=
  let addr := (s.gS a).toNat
  s.checked (s.checkObj addr) fun x =>
    if s.objPending x.2 then .next (s.wait (.barrierObject x.2))
    else if s.badBytes x.2 16 then s.lateTrap 0xA (s.codeAddr s.core 1 addr)
    else
      let o := s.boRead x.2
      if o.testBit 57 then
        if bits o 59 4 = 0xA then s.lateTrap 0xA (s.codeAddr s.core 1 addr) else s.lateTrap 9 (s.codeAddr s.core 1 addr)
      else if o.testBit 58 then .next (s.wait (.barrierObject x.2))
      else .next (s.modPort fun p => { p with pts := max p.pts (bits o 64 64) })

/-! ### Cache operations (R246) -/

/-- CWB and CINV: an empty range does nothing; a range outside every window is WINSPAN. -/
def State.cacheOp (s : State) (a b : Src) (drop : Bool) : Out :=
  let addr := (s.gS a).toNat
  let n := (s.gS b).toNat
  if n = 0 then .next s
  else match s.window s.core addr n with
    | none => s.trap 5 (.ofNat 64 (s.spanFault addr))
    | some (w, _) =>
      if w.scheduled then .next s
      else .next (s.modPort fun p => { p with cacheOps := p.cacheOps ++ [⟨s.core.unf, addr, n, drop⟩] })

def execCwb (a b : Src) (s : State) : Out := s.cacheOp a b false
def execCinv (a b : Src) (s : State) : Out := s.cacheOp a b true

/-- The pages that the tables of the core in focus map in a range of addresses, from a table that maps them from `base` on (R355 to R357). -/
def State.tablePages (s : State) (lo hi : Nat) : Nat → Nat → Nat → Nat → List TlbEntry
  | 0, _, _, _ => []
  | fuel + 1, level, table, base =>
    let span := match level with | 0 => 2 ^ 39 | 1 => 2 ^ 30 | 2 => 2 ^ 21 | _ => 2 ^ 16
    if !s.walkRange s.core table (tableSize level) then []
    else
      ((List.range (tableSize level / 8)).map fun i =>
        let va := base + i * span
        let e := memNat s.mem (table + 8 * i) 8
        let addr := bits e 8 48 * 256
        if hi < va || va + span ≤ lo || !e.testBit 0 || badPte e level || s.badBytes (table + 8 * i) 8 then []
        else if e.testBit 1 then
          (if s.walkRange s.core addr span && !e.testBit 4 then [⟨s.core.exc.asid, e.testBit 5, va, span, addr, e.testBit 2, e.testBit 3, false⟩]
           else [])
        else s.tablePages lo hi fuel (level + 1) addr va).flatten

/-- Whether a range of generic addresses reaches a physical line: pages without a translation are skipped. -/
def State.reaches (s : State) (o : CacheOp) (line : Nat) : Bool :=
  let hit := fun (a : Nat) => decide (o.addr / 256 ≤ a / 256) && decide (a / 256 ≤ (o.addr + o.len - 1) / 256)
  if 2 ^ 57 ≤ line * 256 then
    (match s.window s.core o.addr o.len with
     | some (.chip, off) => decide (s.chipKey s.core off / 256 ≤ line) && decide (line ≤ s.chipKey s.core (off + o.len - 1) / 256)
     | _ => false)
  else if s.core.exc.level.toNat = 2 then hit (line * 256)
  else
    let held := (s.core.port.tlb ++ (s.ctlb.filter fun e => e.1 == clusterOf s.core.id).map Prod.snd).filter fun e =>
      !e.h && (e.g || e.asid == s.core.exc.asid)
    (held ++ s.tablePages (o.addr / 256 * 256) (o.addr + o.len - 1) 4 0 (s.core.exc.ptroot.toNat * 4096) 0).any fun e =>
      decide (e.pa ≤ line * 256) && decide (line * 256 < e.pa + e.size) && hit (e.va + (line * 256 - e.pa))

/-- The oldest CWB or CINV completes (R246): the core's modified lines of the range are written to their home, and the verify L2's lines of
the range to HBM; a CINV then drops the core's copies. -/
def execCacheOpComplete (s : State) : Out :=
  match s.core.port.cacheOps with
  | [] => .next s
  | o :: r =>
    let mine := (s.owned.filter fun x => x.2 == s.core.name + 1 && s.reaches o x.1).map Prod.fst
    let t := mine.foldl (fun s l => s.atHome l true) s
    let t := { t with l2v := t.l2v.map fun (x : L2Line) => if x.dirty && s.reaches o x.line then { x with dirty := false } else x }
    .next (t.modPort fun p => { p with
      cacheOps := r
      l1 := if o.drop then p.l1.filter fun l => !s.reaches o l.line else p.l1 })

end Sys2Proof.Machine
end

