-- ==== Sys2Proof/Machine/Engine.lean ====
section
/-! DEFINITION. What every engine shares: extents of generic addresses, reads and writes of memory with the engine's own clock
(R216, R230, R231, R236, R254), and the report on a barrier object (R240, R242). An engine acts for the core in focus. -/

namespace Sys2Proof.Machine

/-- What a check of an engine finds: a fault of a translation carries the `TRAPINFO` that a core access would have (R358). -/
inductive ERes (α : Type) where
  | ok (a : α)
  | fault (xlate : Option Word := none)
  | bad
  deriving Repr

/-- The translation fault that a check met. -/
def ERes.xlate {α : Type} : ERes α → Option Word
  | .fault x => x
  | _ => none

def ERes.bind {α β : Type} (x : ERes α) (f : α → ERes β) : ERes β :=
  match x with
  | .ok a => f a
  | .fault x => .fault x
  | .bad => .bad

/-- Check each element, in order. -/
def ERes.all {α β : Type} (f : α → ERes β) : List α → ERes (List β)
  | [] => .ok []
  | a :: r => (f a).bind fun b => (ERes.all f r).bind fun bs => .ok (b :: bs)

/-- A run of bytes at rising physical keys. -/
abbrev Run := Nat × Nat

/-- Translation for an engine: its walks fill no TLB (R254). -/
def State.engKey (s : State) (va : Nat) (write : Bool) : ERes Nat :=
  let c := s.core
  let lvl := c.exc.level.toNat
  let key := fun (e : TlbEntry) =>
    match e.denies lvl write false with
    | some sub => ERes.fault (some (xlateInfo va sub))
    | none => .ok (if e.h then keyHost (e.pa + (va - e.va)) else e.pa + (va - e.va))
  if lvl = 2 then (if va < hbmSize then .ok va else .fault (some (xlateInfo va 1)))
  else match c.port.tlb.find? (fun e => e.hits c.exc.asid va && (e.denies lvl write false).isNone) with
    | some e => key e
    | none =>
      match (s.walkFrom [] va 4 0 (c.exc.ptroot.toNat * 4096)).2 with
      | .page e => key e
      | .fault sub => .fault (some (xlateInfo va sub))
      | .bad => .bad

/-- Cut the bytes at an offset into pieces that do not cross a multiple of `g`. -/
def cutAt (g : Nat) : Nat → Nat → Nat → List (Nat × Nat)
  | 0, _, _ => []
  | f + 1, o, n => if n = 0 then [] else let k := min n (g - o % g); (o, k) :: cutAt g f (o + k) (n - k)

/-- The runs of an extent: wholly inside one window, no lane slice, every page translated with permission (R254). -/
def State.extentRuns (s : State) (a n : Nat) (write : Bool) : ERes (List Run) :=
  if n = 0 then .ok []
  else match s.window s.core a n with
    | none => .fault
    | some (.lane, _) => .fault
    | some (.global, o) =>
      ERes.all (fun (p : Nat × Nat) => (s.engKey p.1 write).bind fun k => .ok (k, p.2)) (cutAt 65536 (n / 65536 + 2) o n)
    | some (.shared, o) =>
      let g := sliceSize s.core.die
      .ok ((cutAt g (n / g + 2) o n).map fun p => (s.keyOf s.core .shared p.1, p.2))
    | some (w, o) => .ok [(s.keyOf s.core w o, n)]

/-- A byte as an engine of the core reads it: the home's byte, or the instance's own provisional write; a scheduled byte as its row
decodes. -/
def State.engByte (s : State) (k : Nat) : Byte :=
  if isCohKey k then .ofNat 8 (s.viewNat s.core (memGet s.mem) k 1) else s.codedByte k

def State.readRuns (s : State) (rs : List Run) : List Byte :=
  (rs.map fun r => (List.range r.2).map fun i => s.engByte (r.1 + i)).flatten

/-- Some byte of the runs is uncorrectable (R399). -/
def State.badRuns (s : State) (rs : List Run) : Bool := rs.any fun r => decide (0 < r.2) && s.badBytes r.1 r.2

/-- The coherent lines of a run, by number: none for a scheduled or a host-mapped run. -/
def runLines (r : Run) : List Nat :=
  if isCohKey r.1 && !isHostKey r.1 then (List.range ((r.1 % 256 + r.2 + 255) / 256)).map fun i => r.1 / 256 + i else []

/-- An engine's reads of some runs move its clock, and hold the lines' leases up to it, as an observer's reads do (R224, R230). -/
def State.readClock (s : State) (clock : Nat) (rs : List Run) : State × Nat :=
  ((rs.map runLines).flatten).foldl (fun (a : State × Nat) l =>
    let (w, r) := cget (0, 0) a.1.lines l
    let c := max a.2 w
    ({ a.1.atHome l false with lines := cput (0, 0) a.1.lines l (w, max r c) }, c)) (s, clock)

/-- Bytes of one run are written with timestamps of the engine's clock: the state, the clock and the largest timestamp
(R224, R231). A provisional instance's coherent writes go to its buffer (R236). -/
def State.writeRun (s : State) (clock k : Nat) (data : List Byte) : State × Nat × Nat :=
  if !isCohKey k then (s.putBytes k data, clock, 0)
  else if s.core.prov then (s.bufPut s.core [⟨k, data⟩], clock, 0)
  else
    let lines := runLines (k, data.length)
    let (s, c) := lines.foldl (fun (a : State × Nat) l => a.1.engineLine a.2 (l * 256)) (s, clock)
    ((s.putBytes k data).modPort fun p => { p with stamp := if lines.isEmpty then p.stamp else max p.stamp c }, c, if lines.isEmpty then 0 else c)

/-- Write bytes over runs, in order: the state, the clock and the largest timestamp. -/
def State.writeRuns (s : State) (clock : Nat) (rs : List Run) (data : List Byte) : State × Nat × Nat :=
  let r := rs.foldl (fun (a : State × Nat × Nat × List Byte) r =>
    let (s, c, t) := a.1.writeRun a.2.1 r.1 (a.2.2.2.take r.2)
    (s, c, max a.2.2.1 t, a.2.2.2.drop r.2)) (s, clock, 0, data)
  (r.1, r.2.1, r.2.2.1)

/-- Cut some runs after `n` bytes: the bytes before, and after. -/
def splitRuns : Nat → List Run → List Run × List Run
  | _, [] => ([], [])
  | n, (k, m) :: r =>
    if n = 0 then ([], (k, m) :: r)
    else if m ≤ n then let (a, b) := splitRuns (n - m) r; ((k, m) :: a, b)
    else ([(k, n)], (k + n, m - n) :: r)

/-- Two lists of runs touch a common byte. -/
def runsMeet (a b : List Run) : Bool := a.any fun x => b.any fun y => decide (x.1 < y.1 + y.2) && decide (y.1 < x.1 + x.2)

/-- Data banks of the core scratchpad that a lock hold keeps from engines (R48, R217): the runs touch one. -/
def State.lockedRuns (s : State) (rs : List Run) : Bool :=
  s.cores.any fun c =>
    match c.flow.hold with
    | none => false
    | some h => rs.any fun r =>
        (List.range (min 16 (r.2 / 64 + 2))).any fun i =>
          let k := r.1 + 64 * i
          decide (keySpad c.id 0 ≤ k) && decide (k < keySpad c.id 0 + 2 ^ 22) && decide (k / 64 ≤ (r.1 + r.2 - 1) / 64) &&
          h.banks.getLsbD (k / 64 % 16)

/-- An engine adds its count, or records its fault, on its object (R240, R242). -/
def State.engineDone (s : State) (obj n stamp : Nat) : State := s.boUpdate obj fun o => boAdd o n stamp
/-- An uncorrectable error leaves a record with the object's address and the `TRAPINFO` that its BOWAIT will report (R245, R401, R408). A
translation fault leaves an error record with its subcode, laid out as XLATE lays it out (R358; its class is DEDUCED, log entry 135). -/
def State.engineFault (s : State) (obj cause : Nat) (xlate : Option Word := none) : State :=
  let s := if cause = 0xA then s.coreRecord 2 0xA (s.codeKey obj) (s.codeKey obj + 0x1000000000000000#64)
    else match xlate with
      | some x => s.coreRecord 2 cause (.ofNat 64 (x.toNat % 2 ^ 48)) x
      | none => s
  s.boUpdate obj fun o => boFault o cause

/-- An engine operation may start: every earlier access of the core that it must follow has been performed (R101, R226, R230). The scheduled
accesses of a stopped core wait for RSUM, and its engines do not (R373, R375; DEDUCED, log entry 152). -/
def Core.engineFree (c : Core) (seq issue : Nat) : Bool :=
  !(c.port.cohQ.any fun c => decide (c.seq < seq)) &&
  !(c.port.region.any fun r => match r with | .vstv i .. | .vldv i .. => decide (i ≤ issue)) &&
  (c.stopped || !(c.port.sched.any fun a => decide (a.issue ≤ issue) && (match a.kind with | .send .. => false | _ => true)))

/-! ### When an engine may use a scheduled memory (R216, R217, R226) -/

/-- Runs in scheduled memories. -/
def schedRuns (rs : List Run) : List Run := rs.filter fun r => !isCohKey r.1 && decide (0 < r.2)

/-- The perform offset of the scheduled window that a key lies in (R212). -/
def keyOffset (k : Nat) : Nat := if k < 2 ^ 59 then Win.spad.offset else if k < 2 ^ 60 then Win.shared.offset else Win.lane.offset

/-- An engine operation may use the scheduled memories of some runs: no lock hold keeps a bank, its cycle t + 1 + the perform offset has
come (R226), and the scheduled accesses to a shared slice that its gang issued at t or earlier are performed. -/
def State.engineOpen (s : State) (j : Issued) (rs : List Run) : Bool :=
  let rs := schedRuns rs
  rs.isEmpty ||
  (rs.all (fun r => decide (j.since + 1 + keyOffset r.1 ≤ s.now)) && !s.lockedRuns rs &&
   !(rs.any (fun r => keyOffset r.1 == Win.shared.offset) &&
     (s.pick s.gang).any fun c => !c.stopped && c.port.sched.any fun a =>
       decide (a.issue ≤ j.issue) && a.kind.ranges.any fun r => keyOffset r.1 == Win.shared.offset))

/-- The corrections that an engine's access to some runs makes are counted (R395, R397). -/
def State.countRuns (s : State) (rs : List Run) : State :=
  if s.flips.isEmpty then s else rs.foldl (fun s r => s.countRead r.1 r.2) s

/-- The gate of every engine access: open, and every bank cycle that it needs has been granted. What it corrects on the way counts. -/
def State.engineGate (s : State) (eng : Nat) (j : Issued) (rs : List Run) : State × Bool :=
  if s.engineOpen j rs then
    let (s, go) := s.engineTurn eng j.seq rs
    (if go then s.countRuns rs else s, go)
  else (s, false)

/-- One access of an operation, by its number, as the grants of bank cycles name it (R216). -/
def Issued.part (j : Issued) (n : Nat) : Issued := { j with seq := j.seq + 2 ^ 64 * n }

/-- An engine reports on an object: as any access of an engine it waits for a lock hold, for its cycle and for a free bank cycle (R216, R217,
R226), and a provisional instance for its shape (R312). -/
def State.reports (s : State) (eng : Nat) (j : Issued) (obj : Nat) (f : State → State) : State :=
  if s.heldHost [(obj, 16)] then s.heldEngine
  else
    let (s, go) := s.engineGate eng j [(obj, 16)]
    if go then f s else s

/-- A SEND that is over reports on its object, after the BOINITs and BOARMs of the object that its core issued before it (R241, R264, R265). -/
def State.finishSend (s : State) : State :=
  match s.core.port.nq.find? fun j => match j.op with | .report .. => !s.core.port.objBefore j.obj j.toIssued | _ => false with
  | none => s
  | some j => s.reports 4 j.toIssued j.obj fun s =>
    let s := s.modPort fun p => { p with nq := p.nq.filter fun x => x.seq != j.seq }
    match j.op with
    | .report n 0 => s.engineDone j.obj n 0
    | .report _ cause => s.boUpdate j.obj fun o => boFault o cause
    | _ => s

/-- BO_ADDITION: an engine adds its bytes and stamp to an object at its home (R240); the object is named by its key. It is the report of the
core's remote SEND whose chunks are all acknowledged, which leaves its queue with it (R262, R265); a lock hold keeps it from the object's bank
(R217). -/
def execBoAddition (obj n stamp : Nat) (s : State) : Out :=
  match s.core.port.nq.find? fun j => j.obj == obj && (match j.op with | .sendRemote _ _ _ t => t == n | _ => false) with
  | some j => .next (s.modPort fun p => p.setOp j.seq (.report n 0)).finishSend
  | none => .next (if s.lockedRuns [(obj, 16)] then s else s.engineDone obj n stamp)

/-! ### Writes that meet an uncorrectable unit (R254, R399) -/

/-- Runs that follow each other without a gap are one. -/
def joinRuns : List Run → List Run
  | [] => []
  | (k, n) :: r =>
    match joinRuns r with
    | (j, m) :: t => if k + n = j then (k, n + m) :: t else (k, n) :: (j, m) :: t
    | [] => [(k, n)]

/-- The first of some writes that touches an uncorrectable unit which the writes as a whole do not cover. -/
def State.stuckAt (s : State) (ws : List (List Run)) : Option Nat :=
  if s.bad.isEmpty && s.flips.isEmpty then none
  else
    let all := joinRuns ws.flatten
    let bad := s.bad ++ (all.map fun r => (s.codeUnits r.1 r.2).map fun u => BadUnit.bytes u (unitSize u)).flatten
    ws.findIdx? fun rs => bad.any fun u => rs.any (fun r => u.overlaps r.1 r.2) && !all.any fun r => u.within r.1 r.2

/-- Units that the writes of one operation cover as a whole become good with them (R399). -/
def State.coverUnits (s : State) (rs : List Run) : State :=
  if s.bad.isEmpty && s.flips.isEmpty then s
  else (joinRuns rs).foldl (fun s r => { s with
    bad := s.bad.filter fun u => !u.within r.1 r.2
    flips := ((unitsUnder r.1 r.2).filter fun u => decide (r.1 ≤ u) && decide (u + unitSize u ≤ r.1 + r.2)).foldl (s.unitFlips r.1 r.2) s.flips }) s

/-- How many of some writes an engine makes, in order: all, or up to and with that one. -/
def State.writesMade (s : State) (ws : List (List Run)) : Nat :=
  match s.stuckAt ws with
  | some i => i + 1
  | none => ws.length

end Sys2Proof.Machine
end

