-- ==== Sys2Proof/Machine/Blocks.lean ====
section
/-! DEFINITION. The MX and PX block formats: side data, quantisation and decoding (05_formats.md R77 to R80, R89; 07_vector.md
R128 to R132). -/

namespace Sys2Proof

/-- Magnitude bits b of a PX format (R79). -/
def Bf.px? : Bf → Option Nat
  | .px2 => some 2
  | .px4 => some 4
  | .px7 => some 7
  | _ => none

/-- Tag of a PX format (R79). -/
def Bf.tag : Bf → Nat
  | .px4 => 1
  | .px7 => 2
  | _ => 0

/-- Element format of an MX format with floating-point elements; MXINT8 has none (R76). -/
def Bf.elem? : Bf → Option Machine.Fmt
  | .mx8e4 => some Machine.fE4m3
  | .mx8e5 => some Machine.fE5m2
  | .mx6e2 => some Machine.fE2m3
  | .mx6e3 => some Machine.fE3m2
  | .mx4 => some Machine.fE2m1
  | _ => none

/-- Element width (R128). -/
def Bf.width : Bf → Nat
  | .px2 => 3
  | .px4 => 5
  | .mx6e2 | .mx6e3 => 6
  | .mx4 => 4
  | _ => 8

/-- Exponent of an MX element format's largest value (R129). -/
def Bf.emax : Bf → Int
  | .mx8e4 => 8
  | .mx8e5 => 15
  | .mx6e2 => 2
  | .mx6e3 => 4
  | .mx4 => 2
  | _ => 0

/-- Whether an MX element format has NaN codes (MXFP8). -/
def Bf.hasNan : Bf → Bool
  | .mx8e4 | .mx8e5 => true
  | _ => false

end Sys2Proof

namespace Sys2Proof.Machine

/-- The magnitude of a value that is not a NaN; an infinity counts as the largest finite FP32 value (R129). -/
def magnitude : Fp → Fp
  | .fin _ m e => .fin false m e
  | .inf _ => .fin false (2 ^ 24 - 1) 104
  | .nan _ => .fin false 0 0

/-- The largest magnitude of some values. -/
def amax (xs : List Fp) : Fp := xs.foldl (fun a x => if (magnitude x).cmp a == .gt then magnitude x else a) (.fin false 0 0)

/-- S × G × 2^−σ: the largest value under a PX scale (E, m) with a quad shift (R129). -/
def pxTop (b e m sh : Nat) : Fp := .fin false ((4 + m) * (2 ^ b - 1)) ((e : Int) - 127 - 2 + 1 - b - sh)

def magLe (a b : Fp) : Bool := a.cmp b != .gt

/-- The smallest scale (E, m), in order of value, whose top reaches a magnitude (R129), searched from the exponent at which the
first can lie; (254, 3) when none does. -/
def pxScale (b : Nat) (a : Fp) : Nat × Nat :=
  match a with
  | .fin _ n x =>
    let e0 := min 254 (log2At n x + 126).toNat
    match (List.range 12).find? fun i => decide (4 * e0 + i ≤ 1019) && magLe a (pxTop b ((4 * e0 + i) / 4) ((4 * e0 + i) % 4) 0) with
    | some i => ((4 * e0 + i) / 4, (4 * e0 + i) % 4)
    | none => (254, 3)
  | _ => (254, 3)

/-- The quad shift under a scale: the largest that still reaches the quad, 0 for a quad of zeros (R129). -/
def quadShift (b e m : Nat) (q : List Fp) : Nat :=
  let a := amax q
  if a.isZero then 0 else if magLe a (pxTop b e m 3) then 3 else if magLe a (pxTop b e m 2) then 2
  else if magLe a (pxTop b e m 1) then 1 else 0

/-- Four values from the `q`-th quad. -/
def quad (xs : List Fp) (q : Nat) : List Fp := (xs.drop (4 * q)).take 4

/-- The side container of a PX block of 16 values (R129). -/
def pxSide (bf : Bf) (b : Nat) (xs : List Fp) : Nat :=
  if xs.any Fp.isNan then bf.tag * 2 ^ 10 + 0xFF * 4
  else
    let a := amax xs
    if a.isZero then 0xC00
    else
      let (e, m) := pxScale b a
      let mu := ((List.range 4).map fun q => quadShift b e m (quad xs q) * 4 ^ q).sum
      m + e * 4 + bf.tag * 2 ^ 10 + mu * 2 ^ 12

/-- The E8M0 scale of an MX block of 32 values (R129). -/
def mxSide (bf : Bf) (xs : List Fp) : Nat :=
  if xs.any Fp.isNan then 0xFF
  else match amax xs with
    | .fin _ n x => if n = 0 then 0 else min 254 (log2At n x - bf.emax + 127).toNat
    | _ => 0

/-- Side lanes 0 and 1 of 32 values (R128). -/
def sideOf (bf : Bf) (xs : List Fp) : List Nat :=
  match bf.px? with
  | some b => [pxSide bf b (xs.take 16), pxSide bf b (xs.drop 16)]
  | none => [mxSide bf xs, 0]

/-- One MX element under a scale (R131): the code, with the flags of its rounding (R86, R111), SAT where it saturates; INV for a signalling
NaN, and for any NaN that a zero code hides. Under a NaN scale no value is rounded, and an infinite one sets no SAT (DEDUCED, log
entry 94). -/
def mxElem (bf : Bf) (x : Nat) (v : Fp) : Nat × Fl :=
  if x = 0xFF then (match bf.elem? with | some f => if bf.hasNan then f.nanCode else 0 | none => 0, v.sigFl)
  else match v with
    | .nan sig => if bf.hasNan then ((bf.elem?.getD fE4m3).nanCode, flIf sig flInv) else (0, flInv)
    | .inf neg =>
      (match bf.elem? with
       | some f => f.maxCode neg
       | none => if neg then 256 - 127 else 127, flSat)
    | .fin neg m e =>
      match bf.elem? with
      | some f =>
        let (c, g) := f.round .rne neg m (e - ((x : Int) - 127))
        if g &&& (flOvf ||| flSat) ≠ 0#8 then (f.maxCode neg, flSat ||| flInx) else (c, g &&& (flInx ||| flUnf))
      | none =>
        let (n, inx) := roundAt .rne neg m (e - ((x : Int) - 127) + 6) 0
        let k := min n 127
        (if neg then (256 - k) % 256 else k, flIf (decide (n > 127)) (flSat ||| flInx) ||| flIf inx flInx)

/-- One PX element under a side container and its quad (R131). A finite element that a zero block turns into zero is inexact (R86); an
infinite one sets no SAT, and in a NaN block nothing is rounded (DEDUCED, log entry 94). -/
def pxElem (b side q : Nat) (v : Fp) : Nat × Fl :=
  let tag := side / 2 ^ 10 % 4
  let e := side / 4 % 256
  let dead := tag = 3 ∨ e = 0xFF
  match v with
  | .nan sig => (0, flIf (sig || e != 0xFF) flInv)
  | .inf neg => if dead then (0, flNone) else ((if neg then 2 ^ b else 0) + 2 ^ b - 1, flSat)
  | .fin neg m x =>
    if dead then (0, flIf (tag == 3 && m != 0) flInx)
    else
      let sh := side / 2 ^ (12 + 2 * q) % 4
      let (n, y) := ratio m (4 + side % 4) (x - ((e : Int) - 127 - 2 - sh + 1 - b))
      let (k, inx) := if m = 0 then (0, false) else roundAt .rne neg n y 0
      let c := min k (2 ^ b - 1)
      ((if neg && c != 0 then 2 ^ b else 0) + c, flIf (decide (k > c)) (flSat ||| flInx) ||| flIf inx flInx)

/-- Codes of 32 values under side lanes (R131). -/
def quantise (bf : Bf) (s0 s1 : Nat) (xs : List Fp) : List (Nat × Fl) :=
  xs.zipIdx.map fun (v, i) =>
    match bf.px? with
    | some b => pxElem b (if i < 16 then s0 else s1) (i % 16 / 4) v
    | none => mxElem bf (s0 % 256) v

/-- Bit position of an element's code in the code vector (R128). -/
def codePos (bf : Bf) (i : Nat) : Nat :=
  match bf.px? with
  | some _ => 512 * (i / 16) + bf.width * (i % 16)
  | none => bf.width * i

/-- The exact value of one element (R77, R79). -/
def elemValue (bf : Bf) (s0 s1 : Nat) (i code : Nat) : Fp :=
  match bf.px? with
  | some b =>
    let side := if i < 16 then s0 else s1
    let tag := side / 2 ^ 10 % 4
    let e := side / 4 % 256
    let m := code % 2 ^ b
    if tag = 3 then .fin false 0 0
    else if e = 0xFF then .nan false
    else if m = 0 then .fin false 0 0
    else .fin (code.testBit b) (m * (4 + side % 4)) (1 - b - side / 2 ^ (12 + 2 * (i % 16 / 4)) % 4 + e - 127 - 2)
  | none =>
    let x := s0 % 256
    if x = 0xFF then .nan false
    else
      match bf.elem? with
      | some f =>
        match f.dec code with
        | .fin neg m e => .fin neg m (e + x - 127)
        | v => v
      | none =>
        let k : Int := if code < 128 then code else (code : Int) - 256
        .fin (decide (k < 0)) k.natAbs ((x : Int) - 127 - 6)

end Sys2Proof.Machine
end

