-- ==== Sys2Proof/Machine/Planar.lean ====
section
/-! DEFINITION. Planar units: reading them as the matrix array does, and forming them as CPYP does (05_formats.md R81, R82;
08_matrix.md R145; 15_memory_instructions.md R256). A unit is held as one little-endian number. -/

namespace Sys2Proof.Machine

/-- The element format behind a floating-point operand code (R145). -/
def opFmt (code : Nat) : Fmt :=
  match code with
  | 0 => fF64
  | 1 => fF32
  | 2 => fBf16
  | 3 | 9 => fE4m3
  | 4 | 10 => fE5m2
  | 5 | 11 => fE2m3
  | 6 | 12 => fE3m2
  | _ => fE2m1

/-- Magnitude bits of a PX tag (R79). -/
def pxBits (tag : Nat) : Nat := if tag = 0 then 2 else if tag = 1 then 4 else 7

/-- Significand planes P (R145). -/
def opPlanes (code : Nat) (mixed : Bool) (ptag : Nat) : Nat :=
  match code with
  | 0 => 53
  | 1 => 24
  | 2 | 8 | 14 => 8
  | 7 | 13 => 2
  | 15 => if mixed then 7 else pxBits ptag
  | _ => 4

/-- Chunk count C (R145). -/
def opChunks (code : Nat) : Nat := if code = 0 then 7 else if code = 1 then 3 else 1

/-- Bytes of a unit (R145): the planes, then the side area. -/
def unitBytes (code : Nat) (mixed : Bool) (ptag : Nat) : Nat :=
  4 * (opPlanes code mixed ptag + 1) +
  (match code with
   | 0 => 64
   | 8 => 0
   | 14 => 4
   | 15 => 8
   | 9 | 10 | 11 | 12 | 13 => 36
   | _ => 32)

/-- Bit `j` of plane word `k`. -/
def planeBit (u k j : Nat) : Bool := u.testBit (32 * k + j)

/-- The magnitude that planes 1 to `p` give element `j`, most significant first. -/
def planeMag (u p j : Nat) : Nat := (List.range p).foldl (fun m i => 2 * m + if planeBit u (i + 1) j then 1 else 0) 0

/-- The value of element `j` of a floating-point unit, before a block scale (R81). Bits of an exponent field above the format's width are
ignored, and an E5M2 element with an all-ones exponent is an infinity or a NaN by its two fraction planes alone (DESIGN CHOICE, log entry 137:
R81 states neither). -/
def unitFloat (code u j : Nat) : Fp :=
  let f := opFmt code
  let p := opPlanes code false 0
  let neg := planeBit u 0 j
  let m := planeMag u p j
  let e := (u >>> (32 * (p + 1) + (if code = 0 then 16 else 8) * j)) % 2 ^ f.eb
  let frac := m / 2 ^ (p - 1 - f.mb) % 2 ^ f.mb
  if f.top = .ieee ∧ e = 2 ^ f.eb - 1 then (if frac = 0 then .inf neg else .nan (!frac.testBit (f.mb - 1)))
  else if f.top = .oneNan ∧ e = 2 ^ f.eb - 1 ∧ frac = 2 ^ f.mb - 1 then .nan false
  else .fin neg m ((max e 1 : Nat) - (f.bias : Int) - (p - 1 : Nat))

/-- The side container of block `i` of a PX unit. -/
def unitSide (mixed : Bool) (ptag u i : Nat) : Nat := (u >>> (32 * ((if mixed then 7 else pxBits ptag) + 1) + 32 * i)) % 2 ^ 32

/-- The value of element `j` of a PX unit (R79, R82). -/
def unitPx (mixed : Bool) (ptag u j : Nat) : Fp :=
  let side := unitSide mixed ptag u (j / 16)
  let tag := side / 2 ^ 10 % 4
  let e := side / 4 % 256
  let b := pxBits tag
  let m := planeMag u b j
  if tag = 3 then .fin false 0 0
  else if e = 0xFF then .nan false
  else if m = 0 then .fin false 0 0
  else .fin (planeBit u 0 j) (m * (4 + side % 4)) ((1 : Int) - b - side / 2 ^ (12 + 2 * (j % 16 / 4)) % 4 + e - 127 - 2)

/-- Element `j` of an integer unit, in units of 2^`e`; a zero has no sign. -/
def unitInt (u j : Nat) (e : Int) : Fp :=
  let m := planeMag u 8 j
  .fin (planeBit u 0 j && m != 0) m e

/-- Element `j` of a unit (R77, R79, R81). -/
def unitElem (code : Nat) (mixed : Bool) (ptag u j : Nat) : Fp :=
  let x := (u >>> (8 * (unitBytes code mixed ptag - 4))) % 256
  if code = 15 then unitPx mixed ptag u j
  else if code = 8 then unitInt u j 0
  else if code = 14 then (if x = 0xFF then .nan false else unitInt u j ((x : Int) - 127 - 6))
  else if 9 ≤ code then
    if x = 0xFF then .nan false
    else match unitFloat code u j with
      | .fin n m e => .fin n m (e + x - 127)
      | v => v
  else unitFloat code u j

/-- Side containers that an array step refuses (R80, R82): nonzero bits [31:20], or in a uniform stream a tag other than the
declared one and 0b11. -/
def badUnit (code : Nat) (mixed : Bool) (ptag u : Nat) : Bool :=
  code = 15 && (List.range 2).any fun i =>
    let side := unitSide mixed ptag u i
    decide (side / 2 ^ 20 ≠ 0) || (!mixed && side / 2 ^ 10 % 4 != 3 && side / 2 ^ 10 % 4 != ptag)

/-! ### Forming units (R256) -/

/-- Plane words of elements given as sign and magnitude of `p` bits. -/
def planesOf (p : Nat) (els : List (Bool × Nat)) : Nat :=
  els.zipIdx.foldl (fun u (el, j) =>
    (List.range p).foldl (fun u k => if el.2.testBit (p - 1 - k) then u + 2 ^ (32 * (k + 1) + j) else u)
      (if el.1 then u + 2 ^ j else u)) 0

/-- The unit of 32 element codes of a floating-point format, with an E8M0 byte for MX. -/
def floatUnit (code : Nat) (codes : List Nat) (x : Nat) : Nat :=
  let f := opFmt code
  let p := opPlanes code false 0
  let el := fun (c : Nat) =>
    let e := (c >>> f.mb) % 2 ^ f.eb
    (c.testBit (f.eb + f.mb), ((if e = 0 then 0 else 2 ^ f.mb) + c % 2 ^ f.mb) * 2 ^ (p - 1 - f.mb))
  let w := if code = 0 then 16 else 8
  let exps := codes.zipIdx.foldl (fun s (c, j) => s + ((c >>> f.mb) % 2 ^ f.eb) * 2 ^ (w * j)) 0
  planesOf p (codes.map el) + exps * 2 ^ (32 * (p + 1)) + x * 2 ^ (32 * (p + 1) + 256)

/-- The unit of 32 signed bytes, with an E8M0 byte for MXINT8. -/
def intUnit (codes : List Nat) (x : Nat) : Nat :=
  planesOf 8 (codes.map fun c => if c < 128 then (false, c) else (true, 256 - c)) + x * 2 ^ (32 * 9)

/-- Sign and magnitude of PX codes. -/
def pxParts (b : Nat) (codes : List Nat) : List (Bool × Nat) := codes.map fun c => (c.testBit b, c % 2 ^ b)

/-- The block format of a tag. -/
def pxBf (tag : Nat) : Bf := if tag = 0 then .px2 else if tag = 1 then .px4 else .px7

/-- One block of 16 values in mixed storage: the smallest width that reproduces every element, else PX7 (R256): its container and its
elements, magnitudes in 7 planes. -/
def mixedBlock (xs : List Fp) : Nat × List (Bool × Nat) :=
  let tryTag := fun (tag : Nat) =>
    let b := pxBits tag
    let side := pxSide (pxBf tag) b xs
    let cs := xs.zipIdx.map fun (v, i) => pxElem b side (i / 4) v
    (side, (pxParts b (cs.map Prod.fst)).map fun p => (p.1, p.2 * 2 ^ (7 - b)), cs.all fun c => c.2 == flNone)
  if xs.any Fp.isNan then let t := tryTag 2; (t.1, t.2.1)
  else
    let t0 := tryTag 0
    let t1 := tryTag 1
    let t2 := tryTag 2
    if t0.2.2 then (t0.1, t0.2.1) else if t1.2.2 then (t1.1, t1.2.1) else (t2.1, t2.2.1)

/-- The block format that an operand code quantises to (R256). -/
def opBf (code ptag : Nat) : Bf :=
  match code with
  | 9 => .mx8e4
  | 10 => .mx8e5
  | 11 => .mx6e2
  | 12 => .mx6e3
  | 13 => .mx4
  | 14 => .mxi8
  | _ => pxBf ptag

/-- The unit that CPYP forms of 32 FP32 codes (QNT = 1). -/
def quantUnit (code : Nat) (mixed : Bool) (ptag : Nat) (xs : List Nat) : Nat :=
  let vs := xs.map fF32.dec
  if code = 15 ∧ mixed then
    let b0 := mixedBlock (vs.take 16)
    let b1 := mixedBlock (vs.drop 16)
    planesOf 7 (b0.2 ++ b1.2) + b0.1 * 2 ^ 256 + b1.1 * 2 ^ 288
  else if 9 ≤ code then
    let bf := opBf code ptag
    let side := sideOf bf vs
    let s0 := side.headD 0
    let s1 := side.getD 1 0
    let cs := (quantise bf s0 s1 vs).map Prod.fst
    if code = 15 then
      let b := pxBits ptag
      planesOf b (pxParts b cs) + (s0 + s1 * 2 ^ 32) * 2 ^ (32 * (b + 1))
    else if code = 14 then intUnit cs s0 else floatUnit code cs s0
  else if code = 8 then intUnit (xs.map fun x => (convert .i8 .f32 .rne true x).1) 0
  else floatUnit code (vs.map fun v => ((opFmt code).enc .rne v flNone).1) 0

/-- Width of the element codes that CPYP rearranges (QNT = 0). -/
def opWidth (code : Nat) : Nat := if code = 8 then 8 else (opFmt code).width

/-- The unit that CPYP forms of packed element codes (QNT = 0). -/
def rawUnit (code src : Nat) : Nat :=
  let cs := (List.range 32).map fun j => (src >>> (opWidth code * j)) % 2 ^ opWidth code
  if code = 8 then intUnit cs 0 else floatUnit code cs 0

end Sys2Proof.Machine
end

