-- ==== Sys2Proof/Machine/Copy.lean ====
section
/-! DEFINITION. The copy engines: CPY, CPYP, CPYG and STBIND, and the events that run them (15_memory_instructions.md R253 to R259;
13_memory_windows.md R216). -/

namespace Sys2Proof.Machine

/-! ### Issue (R253) -/

/-- C operations of this bundle that were issued before the one in hand. -/
def State.cIssued (s : State) : Nat :=
  let p := s.core.port
  ((p.cq0 ++ p.cq1).filter fun j => j.issue == s.core.unf).length +
  (p.pend.filter fun x => x.issue == s.core.unf && (match x.act with | .bind _ _ => true | _ => false)).length

/-- The engine that `SLOTMAP` names for the operation in hand: CB0 for the first C operation of a bundle, CB1 for the second. -/
def State.engineOf (s : State) : Nat := if s.core.ctl.slotmap.getLsbD (6 + s.cIssued % 2) then 1 else 0

/-- The queue of an engine. -/
def Port.cq (p : Port) (eng : Nat) : List CopyJob := if eng = 0 then p.cq0 else p.cq1
def Port.setCq (p : Port) (eng : Nat) (q : List CopyJob) : Port := if eng = 0 then { p with cq0 := q } else { p with cq1 := q }

/-- Operations of the pre-empted gang in the engine's queue: those of an urgent context stand behind them (R369). -/
def State.victimJobs (s : State) (eng : Nat) : List CopyJob :=
  if s.core.urg then ((s.coreAt s.core.id).map fun c => c.port.cq eng).getD [] else []

/-- What every C operation of the copy engines checks and waits for: its object, its operands, a place in its queue. -/
def State.cIssue (s : State) (o : Src) (ill : Bool) (f : Nat → Out) : Out :=
  s.checked (s.checkObj (s.gS o).toNat) fun x =>
    if ill then s.illop
    else if 8 ≤ (s.core.port.cq s.engineOf ++ s.victimJobs s.engineOf).length then .next (s.wait .engineQueue)
    else f x.2

/-- Queue an operation: it holds its place from issue until it has counted or faulted. -/
def State.copyQueue (s : State) (obj : Nat) (op : CopyOp) : Out :=
  let e := s.engineOf
  .next (s.modPort fun p =>
    { p.setCq e (p.cq e ++ [⟨s.issuedNow, obj, op, 0, 0⟩]) with seq := p.seq + 1 })

/-- CPY (R255): a length above 2^28 - 1 is ILLOP. -/
def execCpy (o a b c : Src) (s : State) : Out :=
  s.cIssue o (decide (2 ^ 28 ≤ (s.gS c).toNat)) fun obj => s.copyQueue obj (.cpy (s.gS a) (s.gS b) (s.gS c))

/-- The conversion words that CPYP refuses (R256). -/
def badConv (w : Nat) : Bool :=
  let fmt := bits w 0 4
  let mixed := w.testBit 4
  let ptag := bits w 5 2
  bits w 44 20 != 0 || ptag == 3 || (mixed && fmt != 15) || (ptag != 0 && (fmt != 15 || mixed)) ||
  (!w.testBit 7 && decide (9 ≤ fmt)) || (w.testBit 7 && fmt == 0)

def execCpyp (o a b c : Src) (s : State) : Out :=
  s.cIssue o (badConv (s.gS c).toNat) fun obj => s.copyQueue obj (.cpyp (s.gS a) (s.gS b) (s.gS c))

/-- The gather words that CPYG refuses (R257). -/
def State.badGather (s : State) (w : Nat) : Bool :=
  bits w 42 22 != 0 || decide (8 < bits w 38 4) || bits w 0 2 != 0 ||
  decide (s.extent s.core .spad < bits w 0 22 + 4 * bits w 22 16)

def execCpyg (o a b c : Src) (s : State) : Out :=
  let w := (s.gS c).toNat
  s.cIssue o (s.badGather w) fun obj =>
    -- an index list in the monitor's scratchpad (R382)
    if 0 < bits w 22 16 ∧ bits w 0 22 < s.core.floor .spad then s.trap 5 (.ofNat 64 (Win.spad.base + bits w 0 22))
    else s.copyQueue obj (.cpyg (s.gS a) (s.gS b) (s.gS c))

/-- STBIND (R258): at issue + 1 the stream register is bound to the object, or loses its binding with a granule of 0. -/
def execStbind (o : Src) (n : RegNo) (c : Src) (s : State) : Out :=
  let g := (s.gS c).toNat
  s.cIssue o (decide (2 ^ 28 ≤ g)) fun obj => .next (s.post 1 (.bind n (if g = 0 then none else some (obj, g))))

/-! ### What an operation moves (R254 to R257) -/

/-- A piece of a copy: source bytes, destination bytes, and what is written of what is read. -/
structure Piece where
  src : List Run
  dst : List Run
  f   : List Byte → List Byte

/-- Runs of several extents, all inside one window (R254). -/
def State.extentsRuns (s : State) (es : List (Nat × Nat)) (write : Bool) : ERes (List (List Run)) :=
  let win := fun (e : Nat × Nat) => (s.window s.core e.1 e.2).map fun w => w.1.code
  match es with
  | [] => .ok []
  | e :: _ => if es.any fun x => win x != win e then .fault else ERes.all (fun (x : Nat × Nat) => s.extentRuns x.1 x.2 write) es

/-- A plain copy by the aligned 64-byte units of its source (R222). -/
def cutPieces : Nat → List Run → List Run → List Piece
  | 0, _, _ => []
  | f + 1, src, dst =>
    match src with
    | [] => []
    | r :: _ =>
      let n := 64 - r.1 % 64
      let a := splitRuns n src
      let b := splitRuns n dst
      ⟨a.1, b.1, id⟩ :: cutPieces f a.2 b.2

/-- A generic address at a signed distance. -/
def genAddr (a : Nat) (d : Int) : Nat := (((a : Int) + d) % ((2 ^ 64 : Nat) : Int)).toNat

/-- The pieces of CPY that are still to move (R255). -/
def State.cpyPieces (s : State) (a b n moved : Nat) : ERes (List Piece) :=
  (s.extentRuns b n false).bind fun src => (s.extentRuns a n true).bind fun dst =>
    .ok (cutPieces (n + 1) (splitRuns moved src).2 (splitRuns moved dst).2)

/-- Bytes that CPYP writes for one unit. -/
def convUnit (w : Nat) (size : Nat) (bs : List Byte) : List Byte :=
  let fmt := bits w 0 4
  let x := bytesNat bs
  natBytes (if w.testBit 7 then quantUnit fmt (w.testBit 4) (bits w 5 2) ((List.range 32).map fun i => bits x (32 * i) 32)
            else rawUnit fmt x) size

/-- Size of a destination unit of a conversion word. -/
def convSize (w : Nat) : Nat := unitBytes (bits w 0 4) (w.testBit 4) (bits w 5 2)

/-- The pieces of CPYP (R256): one for each unit. -/
def State.cpypPieces (s : State) (a b w : Nat) : ERes (List Piece) :=
  let size := convSize w
  let n := bits w 8 12
  let ssz := if w.testBit 7 then 128 else 4 * opWidth (bits w 0 4)
  let srcs := (List.range n).map fun (u : Nat) => (genAddr b (u * signed 24 (bits w 20 24)), ssz)
  let dsts := (List.range n).map fun (u : Nat) => (genAddr a ((u * size : Nat) : Int), size)
  if a % 4 ≠ 0 ∨ srcs.any (fun e => e.1 % 4 != 0) then .fault
  else (s.extentsRuns srcs false).bind fun rs => (s.extentsRuns dsts true).bind fun ds =>
    .ok ((rs.zip ds).map fun p => ⟨p.1, p.2, convUnit w size⟩)

/-- The index list of CPYG (R257). -/
def State.cpygList (s : State) (w : Nat) : Run := (s.keyOf s.core .spad (bits w 0 22), 4 * bits w 22 16)

/-- The pieces of CPYG (R257): one for each element. -/
def State.cpygPieces (s : State) (a b w : Nat) : ERes (List Piece) :=
  let n := bits w 22 16
  let size := 2 ^ bits w 38 4
  let list := s.cpygList w
  if s.badRuns [list] then .bad
  else
    let x := bytesNat (s.readRuns [list])
    let srcs := (List.range n).map fun (i : Nat) => (genAddr b ((bits x (32 * i) 32 * size : Nat) : Int), size)
    let dsts := (List.range n).map fun (i : Nat) => (genAddr a ((i * size : Nat) : Int), size)
    if a % min size 8 ≠ 0 ∨ b % min size 8 ≠ 0 then .fault
    else (s.extentsRuns srcs false).bind fun rs => (s.extentsRuns dsts true).bind fun ds =>
      .ok ((rs.zip ds).map fun p => ⟨p.1, p.2, id⟩)

/-- The pieces of a job, and the bytes it counts; record operations are Sampling.lean's. -/
def State.jobPieces (s : State) (j : CopyJob) : ERes (List Piece) :=
  match j.op with
  | .cpy a b c => s.cpyPieces a.toNat b.toNat c.toNat j.moved
  | .cpyp a b c => s.cpypPieces a.toNat b.toNat c.toNat
  | .cpyg a b c => s.cpygPieces a.toNat b.toNat c.toNat
  | _ => .ok []

def CopyOp.count : CopyOp → Nat
  | .cpy _ _ c => c.toNat
  | .cpyp _ _ c => bits c.toNat 8 12 * convSize c.toNat
  | .cpyg _ _ c => bits c.toNat 22 16 * 2 ^ bits c.toNat 38 4
  | _ => 1024

/-! ### Order among the engines (R241, R259) -/

/-- The whole bytes of a plain copy: read, written. -/
def State.cpyBytes (s : State) (j : CopyJob) : Option (List Run × List Run) :=
  let s := s.asIssued j.toIssued
  match j.op with
  | .cpy a b c =>
    (match s.extentRuns b.toNat c.toNat false, s.extentRuns a.toNat c.toNat true with
     | .ok r, .ok w => some (r, w)
     | _, _ => some ([], []))
  | _ => none

/-- An earlier operation that a later one must follow: one that counts on the same object, or that touches bytes in common of
which one writes. Two operations that are not both plain copies are performed in issue order. -/
def State.mustFollow (s : State) (early late : CopyJob) : Bool :=
  early.obj == late.obj ||
  match s.cpyBytes early, s.cpyBytes late with
  | some (r, w), some (r', w') => runsMeet w r' || runsMeet w w' || runsMeet r w'
  | _, _ => true

/-- The oldest operation of an engine, once it may run: its clock is set, the core's earlier accesses are performed, and
nothing it must follow is left on the other engine. -/
def State.copyReady (s : State) (eng : Nat) : Option (CopyJob × Nat) :=
  match s.core.port.cq eng with
  | [] => none
  | j :: _ =>
    match j.clock with
    | none => none
    | some c =>
      if s.core.engineFree j.seq j.issue && (s.victimJobs eng).isEmpty &&
          !((s.core.port.cq (1 - eng)).any fun e => decide (e.seq < j.seq) && s.mustFollow e j) then some (j, c) else none

/-- The oldest operation of an engine leaves its place. -/
def State.copyLeave (s : State) (eng : Nat) : State := s.modPort fun p => p.setCq eng (p.cq eng).tail

/-- The end of an operation: it counts, or records its fault (R242, R254). -/
def State.copyEnd (s : State) (eng : Nat) (j : CopyJob) (r : ERes Nat) : State :=
  let s := s.copyLeave eng
  match r with
  | .ok stamp => s.engineDone j.obj j.op.count (max j.stamp stamp)
  | .fault x => s.engineFault j.obj 9 x
  | .bad => s.engineFault j.obj 0xA

/-- What an operation reads besides its pieces: the index list of CPYG (R257). -/
def State.listRuns (s : State) (j : CopyJob) : List Run := match j.op with | .cpyg _ _ c => [s.cpygList c.toNat] | _ => []

/-- Every run that an operation touches, its object among them. -/
def State.touched (s : State) (j : CopyJob) (ps : List Piece) : List Run :=
  (j.obj, 16) :: s.listRuns j ++ (ps.map fun p => p.src ++ p.dst).flatten

/-- Move some pieces: every source byte is read before any destination byte is written. Bytes of one operation that follow each other
are one write, which makes a unit that it covers good (R399). -/
def State.movePieces (s : State) (clock : Nat) (ps : List Piece) : State × Nat × Nat :=
  let data := (ps.map fun p => p.f (s.readRuns p.src)).flatten
  let (s, c) := s.readClock clock (ps.map Piece.src).flatten
  s.writeRuns c (joinRuns (ps.map Piece.dst).flatten) data

/-- An operation that may run moves its pieces. What precedes an uncorrectable source unit is written, and what meets one that it cannot
replace is written up to it (R254, R399). -/
def State.copyMove (s : State) (eng : Nat) (j : CopyJob) (clock : Nat) (ps : List Piece) : State :=
  let good := ps.takeWhile fun p => !s.badRuns p.src
  let made := good.take (s.writesMade (good.map Piece.dst))
  let (t, _, stamp) := s.movePieces clock made
  t.copyEnd eng j (if good.length = ps.length && (s.stuckAt (good.map Piece.dst)).isNone then .ok stamp else .bad)

/-- An operation that fails a check ends with its fault, once it may use its object and what the check has read (R216, R217). -/
def State.copyStop (s : State) (eng : Nat) (j : CopyJob) (r : ERes Nat) : State :=
  if s.heldHost [(j.obj, 16)] then s.heldEngine
  else
    let (s, go) := s.engineGate (2 + eng) j.toIssued ((j.obj, 16) :: s.listRuns j)
    if go then s.copyEnd eng j r else s

/-- A piece of a copy is whole units at both ends (R222): of 64 bytes, or of 8 bytes where both ends are coherent. -/
def Piece.whole (p : Piece) : Bool :=
  match p.src, p.dst with
  | [a], [b] => a.1 % 64 == b.1 % 64 || (isCohKey a.1 && isCohKey b.1 && a.1 % 8 == b.1 % 8)
  | _, _ => false

/-- The unit that a plain copy in scheduled memory moves next, ahead of the rest (R216, R222): its ranges do not overlap, and neither end
of the unit is uncorrectable. The last piece, and any other operation, moves as a whole once it has every bank cycle it needs (DESIGN CHOICE,
log entry 122). -/
def State.unitNext (s : State) (j : CopyJob) (ps : List Piece) : Option Piece :=
  match ps, s.cpyBytes j with
  | p :: _ :: _, some (r, w) =>
    if runsMeet r w || (schedRuns (p.src ++ p.dst)).isEmpty || !p.whole || s.badRuns p.src || s.badRuns p.dst then none else some p
  | _, _ => none

/-- COPY_ENGINE_RUN: the oldest CPY, CPYP or CPYG of an engine is checked over its whole extent, moves, and counts. -/
def State.runCopy (s : State) (eng : Nat) : State :=
  match s.copyReady eng with
  | none => s
  | some (j, clock) =>
    match j.op with
    | .cpys .. | .smrg .. => s
    | _ =>
      s.under j.toIssued fun s =>
        match s.jobPieces j with
        | .fault x => s.copyStop eng j (.fault x)
        | .bad => s.copyStop eng j .bad
        | .ok ps =>
          if (s.unitNext j ps).isSome then s
          else if s.heldHost ((j.obj, 16) :: (ps.map fun p => p.dst).flatten) then s.heldEngine
          else
            let (s, go) := s.engineGate (2 + eng) j.toIssued (s.touched j ps)
            if go then s.copyMove eng j clock ps else s

def execCopyEngineRun (eng : Fin 2) (s : State) : Out := .next (s.runCopy eng.val)

/-- ENGINE_BANK_ACCESS: the next unit of a plain copy moves, in a free cycle of its banks (R216, R222). -/
def State.moveUnit (s : State) (eng : Nat) : State :=
  match s.copyReady eng with
  | none => s
  | some (j, clock) =>
    s.under j.toIssued fun s =>
      match s.jobPieces j with
      | .ok ps =>
        (match s.unitNext j ps with
         | none => s
         | some p =>
           if s.heldHost p.dst then s.heldEngine
           else
             let (s, go) := s.engineGate (2 + eng) (j.toIssued.part (j.moved + 1)) (p.src ++ p.dst)
             if !go then s
             else
               let (t, c, stamp) := s.movePieces clock [p]
               let j' := { j with moved := j.moved + (p.src.map Prod.snd).sum, clock := some c, stamp := max j.stamp stamp }
               t.modPort fun q => q.setCq eng (j' :: (q.cq eng).tail))
      | _ => s

def execEngineBankAccess (eng : Fin 2) (s : State) : Out := .next (s.moveUnit eng.val)

end Sys2Proof.Machine
end

