-- ==== Sys2Proof/Machine/Exec.lean ====
section
/-! DEFINITION. Barriers, events, fork, join and stealing (17_execution_model.md R281 to R294). A waiting instruction is tried
in each unfrozen cycle: it waits idle until its conditions hold. -/

namespace Sys2Proof.Machine

/-! ### Conditions of waiting -/

/-- Every fixed-latency result and timed landing of the core's earlier bundles has been written (R281). -/
def Core.drained (c : Core) : Bool :=
  c.port.pend.isEmpty && c.port.landings.all fun l => match l.dst with | .mepi => true | _ => false

/-- The depth of the current frame (R290). -/
def Tasks.depth (t : Tasks) : Nat := t.frames.length - 1

/-- Tasks outstanding of the current frame. -/
def Tasks.count (t : Tasks) : Nat := ((t.frames.head?).map Frame.count).getD 0

/-- The clock that the notices of the current frame carried. -/
def Tasks.clock (t : Tasks) : Nat := ((t.frames.head?).map Frame.clock).getD 0

/-- The core waits idle in a state (R281, R282). -/
def State.idleAt (s : State) (w : WaitState) : Out :=
  .next ((s.modTasks fun t => { t with wait := w }).wait .idle)

/-- The core goes on after a waiting instruction. -/
def State.goOn (s : State) : Out := .next (s.modTasks fun t => { t with wait := .running, probe := 0, probeAt := none })

/-- What every waiting instruction checks: no lock span, then the drain of R281. -/
def State.waiting (s : State) (f : Out) : Out :=
  if s.core.flow.lock.isSome then s.lockviol
  else if !s.core.drained then .next (s.wait .drain)
  else f

/-- The implicit JOIN of TASKEND and EXIT, and JOIN's own wait (R292 step 1). -/
def State.joined (s : State) (w : WaitState) (f : State → Out) : Out :=
  if s.core.tasks.count = 0 then f (s.modPort fun p => { p with pts := max p.pts s.core.tasks.clock }) else s.idleAt w

/-- Arrival at a barrier: the wait and the clocks of FENCE.X of its scope (R284, R285, R234). -/
def State.arrive (s : State) (sc : Scope) (w : WaitState) : Out :=
  if s.core.urg then s.illop
  else s.waiting
    (if s.core.tasks.wait = w then .next (s.wait .idle)
     else if s.fencePending sc true then .next (s.wait .drain)
     else (s.showRelaxed.mergeClock sc).idleAt w)

/-! ### BAR and EBAR (R284, R285) -/

def execBar (s : State) : Out := s.arrive .gang .atBar
def execEbar (s : State) : Out := s.arrive .ensemble .atEbar

/-- A core runs, or waits in, a task that another core forked. -/
def Core.inStolen (c : Core) : Bool := c.tasks.taken.isSome || c.tasks.frames.dropLast.any fun f => f.owner != c.name

/-- Some cores meet the conditions of a barrier: those not exited have arrived, no deque holds a task, and no stolen task
runs; and some core has arrived. -/
def barrierMet (cs : List Core) (w : WaitState) : Bool :=
  let live := cs.filter fun c => c.tasks.wait != .exited
  !live.isEmpty && live.all fun c => c.tasks.wait == w && c.tasks.deque.isEmpty && !c.inStolen

/-- The BAR or EBAR of some cores issues in this cycle: the bundle that follows is fetched in the next, and every clock is the
largest of them (R234). -/
def State.issueBarrier (s : State) (release merge : List Core) : State :=
  let top := (merge.map fun c => c.port.pts).foldl max 0
  let s := merge.foldl (fun s c => s.modAt c.name fun c => { c with port := { c.port with pts := top } }) s
  release.foldl (fun s c => s.modAt c.name fun c =>
    { c with tasks := { c.tasks with wait := .running, releaseAt := none, probe := 0, probeAt := none }
             flow := { c.flow with pc := c.flow.pc + .ofNat 12 c.flow.len, stall := none, skip := 1 } }) s

/-- Live participants of the gang, and of the instance, of the core in focus. -/
def State.gangLive (s : State) : List Core := (s.pick s.gang).filter fun c => c.tasks.wait != .exited
def State.instLive (s : State) : List Core :=
  (s.pick ((s.members s.core).map fun m => m.2.2)).filter fun c => c.tasks.wait != .exited

/-- The release of the BAR that the gang of the core in focus waits at (R284). -/
def execBarRelease (s : State) : Out :=
  let live := s.gangLive
  .next (if barrierMet live .atBar && live.all (fun c => match c.tasks.releaseAt with | some r => decide (r ≤ s.core.unf) | none => false)
    then s.issueBarrier live live else s)

/-- The release of the EBAR, for the gang of the core in focus; the clocks of all participants merge (R285). -/
def execEbarRelease (s : State) : Out :=
  let live := s.gangLive
  let due := fun (c : Core) => match c.tasks.releaseAt with | some r => decide (r ≤ s.core.clock) | none => false
  .next (if !live.isEmpty && live.all (fun c => c.tasks.wait == .atEbar && due c)
    then s.issueBarrier live (s.instLive.filter fun c => c.tasks.wait == .atEbar) else s)

/-- Δ of R285: how far some cores, given by `CORE`, spread. -/
def spread (ids : List Nat) : Nat :=
  match ids with
  | [] => 0
  | c :: r =>
    if r.any (fun x => decide (1024 ≤ x) != decide (1024 ≤ c)) then 136
    else if r.any (fun x => clusterOf x != clusterOf c) then 40 else 0

/-- Once the conditions of a barrier hold, its release cycle is set: two unfrozen cycles on for BAR, 2 + Δ physical cycles
on for EBAR (R284, R285): the domain of the last arrival is in focus. A gang that an earlier EBAR has released, and that has not yet gone on,
has not arrived at the next; a core in a handler takes no part in a BAR of its frozen gang. -/
def State.armBarriers (s : State) : State :=
  let arm := fun (s : State) (cs : List Core) (r : Nat) => cs.foldl (fun s c => s.modAt c.name fun c =>
    if c.tasks.releaseAt.isSome then c else { c with tasks := { c.tasks with releaseAt := some r } }) s
  let live := s.gangLive
  let s := if !s.core.apart && barrierMet live .atBar then arm s live (s.core.unf + 2) else s
  let all := s.instLive
  if barrierMet all .atEbar && all.all (fun c => c.tasks.releaseAt.isNone) then arm s all (s.core.clock + 2 + spread ((s.members s.core).map fun m => m.2.2 % 65536)) else s

/-! ### Events (R286 to R289) -/

/-- WFE: waits until the latch is set, then clears it (R288). -/
def execWfe (s : State) : Out :=
  s.waiting (if s.core.ctl.latch then (s.modCtl fun c => { c with latch := false }).goOn else s.idleAt .atWfe)

/-- Delay of an event or of a chunk between two cores (R264, R289). -/
def crossDelay (a b : Nat) : Nat :=
  if decide (1024 ≤ a) != decide (1024 ≤ b) then 136 else if clusterOf a != clusterOf b then 40 else 24

/-- Send an event to a core: its latch is set after the delay, in the issuer's unfrozen cycles. -/
def State.sendEvent (s : State) (target : Nat) : State :=
  s.modPort fun p => { p with events := p.events ++ [(s.core.unf + crossDelay s.core.id (target % 65536), target)] }

/-- SEV (R289): ILLOP for a nonzero RZ field, a gang outside the instance or a core outside the gang's grid. -/
def execSev (a : Src) (s : State) : Out :=
  let w := (s.gS a).toNat
  let gang := (s.members s.core).filter fun m => m.1 == bits w 8 16
  if w / 2 ^ 25 ≠ 0 ∨ gang.isEmpty then s.illop
  else if w.testBit 24 then .next (gang.foldl (fun s m => s.sendEvent m.2.2) s)
  else match gang.find? fun m => m.2.1 == bits w 0 8 with
    | none => s.illop
    | some m => .next (s.sendEvent m.2.2)

/-- An event of the core in focus lands at its target (R287, R289). -/
def execEventLanding (s : State) : Out :=
  match s.core.port.events.find? fun e => decide (e.1 ≤ s.core.unf) with
  | none => .next s
  | some e => .next ((s.modPort fun p => { p with events := p.events.erase e }).modAt e.2 Core.latchEvent)

/-- A core exits; out of a handler, the rest of its gang goes on as after ERET (R410). -/
def Core.exit (c : Core) : Core :=
  let c := { c with tasks := { c.tasks with wait := .exited, probeAt := none } }
  match c.exc.shadow with
  | some sh => { c.rejoin sh with exc := { c.exc with shadow := none }, trapFrozen := true, resumeAt := some (c.clock + 4) }
  | none => c

/-- EXIT (R286): ILLOP in a task; an implicit JOIN, then the drain, and the report of a held `.com` error (R433). -/
def execExit (s : State) : Out :=
  if s.core.tasks.depth ≠ 0 then s.illop
  else if s.core.flow.lock.isSome then s.lockviol
  else s.joined .atExit fun s =>
    s.waiting
      (if !s.core.port.comQ.isEmpty then .next (s.wait .drain)
       else s.reportCom (.next (s.modCore Core.exit)))

/-! ### Fork, join and stealing (R290 to R294) -/

/-- The image gang of a core. -/
def State.gangImg (s : State) (c : Core) : Option GangImg :=
  match s.launchOf c with
  | none => none
  | some l => match s.images.find? (fun i => i.num == l.image && i.part == l.part && i.asid == l.asid) with
    | none => none
    | some i => i.gangs[c.ctl.gang.toNat]?

/-- Entry words of the gang's tasks (R290). -/
def State.taskWords (s : State) : List (BitVec 12) := ((s.gangImg s.core).map GangImg.tasks).getD []

/-- FORK (R291): a task number out of range and depth 8 are ILLOP, a full deque is DQOVF; forks of this bundle count. -/
def execFork (task : BitVec 17) (a b : Src) (s : State) : Out :=
  let t := s.core.tasks
  let full := t.deque.length + (s.core.port.pend.filter fun p => match p.act with | .fork _ => true | _ => false).length
  if s.core.urg then s.illop
  else if s.taskWords.length ≤ task.toNat || t.depth == 8 then s.illop
  else if 64 ≤ full then s.trap 8 (.ofNat 64 (1 + 64 * 2))
  else .next (s.post 1 (.fork ⟨.ofNat 8 task.toNat, t.depth, s.gS a, s.gS b, s.core.name⟩))

/-- JOIN (R292). -/
def execJoin (s : State) : Out := if s.core.urg then s.illop else s.waiting (s.joined .atJoin fun s => s.goOn)

/-- The end of a task (R293): its frame goes, its notice leaves, and fetch goes on at the return word four cycles later. -/
def State.endTask (s : State) : Out :=
  match s.core.tasks.frames with
  | [] => .next s
  | f :: r =>
    let own := f.owner == s.core.name
    let s := { s with notices := s.notices ++ [TaskNotice.mk f.owner f.ownerDepth s.core.port.pts (s.core.unf + (if own then 1 else 24))] }
    let s := s.modTasks fun t => { t with frames := r, wait := .running, probe := 0, probeAt := none }
    .next (s.modFlow fun x => { x with nextPc := f.ret, skip := 3, prefetch := [] })

/-- TASKEND (R293): ILLOP at depth 0; an implicit JOIN, then the drain, and the wait of FENCE.X at gang scope, without its clocks. -/
def execTaskend (s : State) : Out :=
  if s.core.urg || s.core.tasks.depth == 0 then s.illop
  else if s.core.flow.lock.isSome then s.lockviol
  else s.joined .atTaskend fun s =>
    s.waiting (if s.fencePending .gang true then .next (s.wait .drain) else s.showRelaxed.endTask)

/-- Whether a core takes tasks: it waits at JOIN, BAR or EBAR, or at an implicit JOIN, with no task in hand (R292). A core at
the deepest frame takes none. -/
def Core.takes (c : Core) : Bool :=
  decide (c.tasks.depth < 8) && c.tasks.taken.isNone &&
  match c.tasks.wait with
  | .atBar | .atEbar => true
  | .atJoin | .atTaskend | .atExit => decide (c.tasks.count ≠ 0)
  | _ => false

/-- The other cores of the gang in ring order of virtual cores from its own + 1 (R292). -/
def State.ring (s : State) : List Nat :=
  let i := s.gang.findIdx (· == s.core.name)
  s.gang.drop (i + 1) ++ s.gang.take i

/-- The core whose deque a core probes, with its place in the ring: the first from the place of its probe on that has not exited (R292). -/
def State.probeTarget (s : State) : Option (Nat × Core) :=
  let r := (s.ring.zipIdx.filterMap fun x => (s.coreAt x.1).map fun c => (x.2, c)).filter fun x => x.2.tasks.wait != .exited
  (r.find? fun x => decide (s.core.tasks.probe ≤ x.1)).or r.head?

/-- A core that a freeze of its gang stops serves no probe (R294). -/
def Core.probeFrozen (c : Core) : Bool := c.trapFrozen || c.stopped || c.apart

/-- A probe of the core in focus ends (R292, R294): it takes the tail of the deque it probes, or goes on to the next. -/
def execStealProbe (s : State) : Out :=
  if !s.core.takes || !s.core.tasks.deque.isEmpty then .next (s.modTasks fun t => { t with probe := 0, probeAt := none })
  else
    let again := fun (i : Nat) => s.modTasks fun t => { t with probe := (i + 1) % max 1 s.ring.length, probeAt := some (s.core.unf + 24) }
    match s.probeTarget with
    | none => .next (again 0)
    | some (i, c) =>
      if c.probeFrozen then .next s
      else
        let seen := fun (s : State) => s.modAt c.name fun c => { c with tasks := { c.tasks with probed := some c.unf } }
        match c.tasks.deque.getLast? with
        | none => .next (seen (again i))
        | some e =>
          .next ((seen (s.modAt c.name fun c => { c with tasks := { c.tasks with deque := c.tasks.deque.dropLast } })).modTasks
            fun t => { t with taken := some e, probe := 0, probeAt := none })

/-- Dispatch of a task (R292 step 4): a frame is pushed, g13 and g14 are written without entering a queue, and the task's first
bundle issues four unfrozen cycles later. -/
def State.dispatch (s : State) (e : ForkEntry) : State :=
  let f : Frame := ⟨0, s.core.flow.pc, 0, e.owner, e.depth⟩
  let s := s.modTasks fun t => { t with frames := f :: t.frames, wait := .running, taken := none, probe := 0, probeAt := none,
                                        releaseAt := none }
  let s := s.modRegs fun r => { r with g := (r.g.set 13 e.arg0).set 14 e.arg1 }
  s.modFlow fun x => { x with pc := s.taskWords.getD e.task.toNat 0#12, skip := 4, stall := none, prefetch := [] }

/-- TASK_DISPATCH: the waiting core in focus runs the task in hand, else the head of its own deque (R292). -/
def execTaskDispatch (s : State) : Out :=
  match s.core.tasks.taken with
  | some e => .next (s.dispatch e)
  | none =>
    if !s.core.takes then .next s
    else match s.core.tasks.deque with
      | [] => .next s
      | e :: r => .next ((s.modTasks fun t => { t with deque := r }).dispatch e)

/-- Count a notice at a depth: frames are listed from the deepest (R293). -/
def Tasks.notice (t : Tasks) (depth clock : Nat) : Tasks :=
  let i := t.frames.length - 1 - depth
  { t with frames := t.frames.modify i fun f => { f with count := f.count - 1, clock := max f.clock clock } }

/-- A completion notice for the core in focus that is due arrives (R293). -/
def execCompletionNotice (s : State) : Out :=
  match s.notices.find? (fun n => n.core == s.core.name && decide (n.due ≤ s.core.unf)) with
  | none => .next s
  | some n => .next ({ s with notices := s.notices.erase n }.modTasks fun t => t.notice n.depth n.clock)

end Sys2Proof.Machine
end

