-- ==== Sys2Proof/Machine/Tables.lean ====
section
/-! DEFINITION. The tables and coefficients of VFEX2, VLG2, VRCP and VRSQ: the rounding expressions of R117 to R120, evaluated
exactly and rounded RNE, as codes of the lane type. -/

namespace Sys2Proof.Machine

/-- VFEX2 T[j], j = 0 to 63 (R117), FP32. -/
def tabExp32 : List Nat :=
  [0x3F800000, 0x3F8164D2, 0x3F82CD87, 0x3F843A29, 0x3F85AAC3, 0x3F871F62, 0x3F88980F, 0x3F8A14D5, 0x3F8B95C2,
   0x3F8D1ADF, 0x3F8EA43A, 0x3F9031DC, 0x3F91C3D3, 0x3F935A2B, 0x3F94F4F0, 0x3F96942D] ++
  [0x3F9837F0, 0x3F99E046, 0x3F9B8D3A, 0x3F9D3EDA, 0x3F9EF532, 0x3FA0B051, 0x3FA27043, 0x3FA43516, 0x3FA5FED7,
   0x3FA7CD94, 0x3FA9A15B, 0x3FAB7A3A, 0x3FAD583F, 0x3FAF3B79, 0x3FB123F6, 0x3FB311C4] ++
  [0x3FB504F3, 0x3FB6FD92, 0x3FB8FBAF, 0x3FBAFF5B, 0x3FBD08A4, 0x3FBF179A, 0x3FC12C4D, 0x3FC346CD, 0x3FC5672A,
   0x3FC78D75, 0x3FC9B9BE, 0x3FCBEC15, 0x3FCE248C, 0x3FD06334, 0x3FD2A81E, 0x3FD4F35B] ++
  [0x3FD744FD, 0x3FD99D16, 0x3FDBFBB8, 0x3FDE60F5, 0x3FE0CCDF, 0x3FE33F89, 0x3FE5B907, 0x3FE8396A, 0x3FEAC0C7,
   0x3FED4F30, 0x3FEFE4BA, 0x3FF28177, 0x3FF5257D, 0x3FF7D0DF, 0x3FFA83B3, 0x3FFD3E0C]

/-- VFEX2 T[j], j = 0 to 63 (R117), FP64. -/
def tabExp64 : List Nat :=
  [0x3FF0000000000000, 0x3FF02C9A3E778061, 0x3FF059B0D3158574, 0x3FF0874518759BC8, 0x3FF0B5586CF9890F,
   0x3FF0E3EC32D3D1A2, 0x3FF11301D0125B51, 0x3FF1429AAEA92DE0, 0x3FF172B83C7D517B, 0x3FF1A35BEB6FCB75,
   0x3FF1D4873168B9AA, 0x3FF2063B88628CD6, 0x3FF2387A6E756238, 0x3FF26B4565E27CDD, 0x3FF29E9DF51FDEE1,
   0x3FF2D285A6E4030B] ++
  [0x3FF306FE0A31B715, 0x3FF33C08B26416FF, 0x3FF371A7373AA9CB, 0x3FF3A7DB34E59FF7, 0x3FF3DEA64C123422,
   0x3FF4160A21F72E2A, 0x3FF44E086061892D, 0x3FF486A2B5C13CD0, 0x3FF4BFDAD5362A27, 0x3FF4F9B2769D2CA7,
   0x3FF5342B569D4F82, 0x3FF56F4736B527DA, 0x3FF5AB07DD485429, 0x3FF5E76F15AD2148, 0x3FF6247EB03A5585,
   0x3FF6623882552225] ++
  [0x3FF6A09E667F3BCD, 0x3FF6DFB23C651A2F, 0x3FF71F75E8EC5F74, 0x3FF75FEB564267C9, 0x3FF7A11473EB0187,
   0x3FF7E2F336CF4E62, 0x3FF82589994CCE13, 0x3FF868D99B4492ED, 0x3FF8ACE5422AA0DB, 0x3FF8F1AE99157736,
   0x3FF93737B0CDC5E5, 0x3FF97D829FDE4E50, 0x3FF9C49182A3F090, 0x3FFA0C667B5DE565, 0x3FFA5503B23E255D,
   0x3FFA9E6B5579FDBF] ++
  [0x3FFAE89F995AD3AD, 0x3FFB33A2B84F15FB, 0x3FFB7F76F2FB5E47, 0x3FFBCC1E904BC1D2, 0x3FFC199BDD85529C,
   0x3FFC67F12E57D14B, 0x3FFCB720DCEF9069, 0x3FFD072D4A07897C, 0x3FFD5818DCFBA487, 0x3FFDA9E603DB3285,
   0x3FFDFC97337B9B5F, 0x3FFE502EE78B3FF6, 0x3FFEA4AFA2A490DA, 0x3FFEFA1BEE615A27, 0x3FFF50765B6E4540,
   0x3FFFA7C1819E90D8]

/-- VFEX2 c[i], i from 1 (R117), FP32. -/
def tabExpC32 : List Nat :=
  [0x3F317218, 0x3E75FDF0, 0x3D635847]

/-- VFEX2 c[i], i from 1 (R117), FP64. -/
def tabExpC64 : List Nat :=
  [0x3FE62E42FEFA39EF, 0x3FCEBFBDFF82C58F, 0x3FAC6B08D704A0C0, 0x3F83B2AB6FBA4E77, 0x3F55D87FE78A6731,
   0x3F2430912F86C787]

/-- VLG2 L[k], k = 48 to 96 (R118), FP32. -/
def tabLog32 : List Nat :=
  [0xBED47FCC, 0xBEC544C0, 0xBEB6587B, 0xBEA7B7DE, 0xBE995FF7, 0xBE8B4E03, 0xBE7AFEC5, 0xBE5FE33D, 0xBE4544C0,
   0xBE2B1EE1, 0xBE116D6E, 0xBDF058D7, 0xBDBEB025, 0xBD8DD995, 0xBD3B9CA6, 0xBCBA1F74] ++
  [0x00000000, 0x3CB73CB4, 0x3D35D69C, 0x3D8759C5, 0x3DB31FB8, 0x3DDE4212, 0x3E0462C4, 0x3E19574F, 0x3E2E00D2,
   0x3E42615F, 0x3E567AF1, 0x3E6A4F72, 0x3E7DE0B6, 0x3E88983F, 0x3E92203D, 0x3E9B8926] ++
  [0x3EA4D3C2, 0x3EAE00D2, 0x3EB7110E, 0x3EC0052B, 0x3EC8DDD4, 0x3ED19BB0, 0x3EDA3F60, 0x3EE2C97D, 0x3EEB3A9F,
   0x3EF39355, 0x3EFBD42B, 0x3F01FED4, 0x3F060828, 0x3F0A0650, 0x3F0DF989, 0x3F11E20F] ++
  [0x3F15C01A]

/-- VLG2 L[k], k = 48 to 96 (R118), FP64. -/
def tabLog64 : List Nat :=
  [0xBFDA8FF971810A5E, 0xBFD8A8980ABFBD32, 0xBFD6CB0F6865C8EA, 0xBFD4F6FBB2CEC598, 0xBFD32BFEE370EE68,
   0xBFD169C05363F158, 0xBFCF5FD8A9063E35, 0xBFCBFC67A7FFF4CC, 0xBFC8A8980ABFBD32, 0xBFC563DC29FFACB2,
   0xBFC22DADC2AB3497, 0xBFBE0B1AE8F2FD56, 0xBFB7D60496CFBB4C, 0xBFB1BB32A600549D, 0xBFA77394C9D958D5,
   0xBF9743EE861F3556] ++
  [0x0000000000000000, 0x3F96E79685C2D22A, 0x3FA6BAD3758EFD87, 0x3FB0EB389FA29F9B, 0x3FB663F6FAC91316,
   0x3FBBC84240ADABBA, 0x3FC08C588CDA79E4, 0x3FC32AE9E278AE1A, 0x3FC5C01A39FBD688, 0x3FC84C2BD02F03B3,
   0x3FCACF5E2DB4EC94, 0x3FCD49EE4C325970, 0x3FCFBC16B902680A, 0x3FD11307DAD30B76, 0x3FD24407AB0E073A,
   0x3FD37124CEA4CDED] ++
  [0x3FD49A784BCD1B8B, 0x3FD5C01A39FBD688, 0x3FD6E221CD9D0CDE, 0x3FD800A563161C54, 0x3FD91BBA891F1709,
   0x3FDA33760A7F6051, 0x3FDB47EBF73882A1, 0x3FDC592FAD295B56, 0x3FDD6753E032EA0F, 0x3FDE726AA1E754D2,
   0x3FDF7A8568CB06CF, 0x3FE03FDA8B97997F, 0x3FE0C10500D63AA6, 0x3FE140C9FAA1E544, 0x3FE1BF311E95D00E,
   0x3FE23C41D42727C8] ++
  [0x3FE2B803473F7AD1]

/-- VLG2 Q[k], k = 48 to 96 (R118), FP32. -/
def tabQuot32 : List Nat :=
  [0x3FAAAAAB, 0x3FA72F05, 0x3FA3D70A, 0x3FA0A0A1, 0x3F9D89D9, 0x3F9A90E8, 0x3F97B426, 0x3F94F209, 0x3F924925,
   0x3F8FB824, 0x3F8D3DCB, 0x3F8AD8F3, 0x3F888889, 0x3F864B8A, 0x3F842108, 0x3F820821] ++
  [0x3F800000, 0x3F7C0FC1, 0x3F783E10, 0x3F74898D, 0x3F70F0F1, 0x3F6D7304, 0x3F6A0EA1, 0x3F66C2B4, 0x3F638E39,
   0x3F607038, 0x3F5D67C9, 0x3F5A740E, 0x3F579436, 0x3F54C77B, 0x3F520D21, 0x3F4F6475] ++
  [0x3F4CCCCD, 0x3F4A4588, 0x3F47CE0C, 0x3F4565C8, 0x3F430C31, 0x3F40C0C1, 0x3F3E82FA, 0x3F3C5264, 0x3F3A2E8C,
   0x3F381703, 0x3F360B61, 0x3F340B41, 0x3F321643, 0x3F302C0B, 0x3F2E4C41, 0x3F2C7692] ++
  [0x3F2AAAAB]

/-- VLG2 Q[k], k = 48 to 96 (R118), FP64. -/
def tabQuot64 : List Nat :=
  [0x3FF5555555555555, 0x3FF4E5E0A72F0539, 0x3FF47AE147AE147B, 0x3FF4141414141414, 0x3FF3B13B13B13B14,
   0x3FF3521CFB2B78C1, 0x3FF2F684BDA12F68, 0x3FF29E4129E4129E, 0x3FF2492492492492, 0x3FF1F7047DC11F70,
   0x3FF1A7B9611A7B96, 0x3FF15B1E5F75270D, 0x3FF1111111111111, 0x3FF0C9714FBCDA3B, 0x3FF0842108421084,
   0x3FF0410410410410] ++
  [0x3FF0000000000000, 0x3FEF81F81F81F820, 0x3FEF07C1F07C1F08, 0x3FEE9131ABF0B767, 0x3FEE1E1E1E1E1E1E,
   0x3FEDAE6076B981DB, 0x3FED41D41D41D41D, 0x3FECD85689039B0B, 0x3FEC71C71C71C71C, 0x3FEC0E070381C0E0,
   0x3FEBACF914C1BAD0, 0x3FEB4E81B4E81B4F, 0x3FEAF286BCA1AF28, 0x3FEA98EF606A63BE, 0x3FEA41A41A41A41A,
   0x3FE9EC8E951033D9] ++
  [0x3FE999999999999A, 0x3FE948B0FCD6E9E0, 0x3FE8F9C18F9C18FA, 0x3FE8ACB90F6BF3AA, 0x3FE8618618618618,
   0x3FE8181818181818, 0x3FE7D05F417D05F4, 0x3FE78A4C8178A4C8, 0x3FE745D1745D1746, 0x3FE702E05C0B8170,
   0x3FE6C16C16C16C17, 0x3FE6816816816817, 0x3FE642C8590B2164, 0x3FE6058160581606, 0x3FE5C9882B931057,
   0x3FE58ED2308158ED] ++
  [0x3FE5555555555555]

/-- VLG2 b[i], i from 1 (R118), FP32. -/
def tabLogC32 : List Nat :=
  [0x3FB8AA3B, 0xBF38AA3B, 0x3EF6384F, 0xBEB8AA3B]

/-- VLG2 b[i], i from 1 (R118), FP64. -/
def tabLogC64 : List Nat :=
  [0x3FF71547652B82FE, 0xBFE71547652B82FE, 0x3FDEC709DC3A03FD, 0xBFD71547652B82FE, 0x3FD2776C50EF9BFE,
   0xBFCEC709DC3A03FD, 0x3FCA61762A7ADED9, 0xBFC71547652B82FE]

/-- VRCP RC[j], j = 0 to 63 (R119), FP32. -/
def tabRcp32 : List Nat :=
  [0x3F7E03F8, 0x3F7A232D, 0x3F76603E, 0x3F72B9D6, 0x3F6F2EB7, 0x3F6BBDB3, 0x3F6865AC, 0x3F652598, 0x3F61FC78,
   0x3F5EE95C, 0x3F5BEB62, 0x3F5901B2, 0x3F562B81, 0x3F53680D, 0x3F50B6A0, 0x3F4E168A] ++
  [0x3F4B8728, 0x3F4907DA, 0x3F46980C, 0x3F443730, 0x3F41E4BC, 0x3F3FA030, 0x3F3D6910, 0x3F3B3EE7, 0x3F392144,
   0x3F370FBB, 0x3F3509E7, 0x3F330F63, 0x3F311FD4, 0x3F2F3ADE, 0x3F2D602B, 0x3F2B8F6A] ++
  [0x3F29C84A, 0x3F280A81, 0x3F2655C4, 0x3F24A9CF, 0x3F23065E, 0x3F216B31, 0x3F1FD80A, 0x3F1E4CAD, 0x3F1CC8E1,
   0x3F1B4C70, 0x3F19D723, 0x3F1868C8, 0x3F17012E, 0x3F15A025, 0x3F144581, 0x3F12F114] ++
  [0x3F11A2B4, 0x3F105A38, 0x3F0F177A, 0x3F0DDA52, 0x3F0CA29C, 0x3F0B7034, 0x3F0A42F8, 0x3F091AC7, 0x3F07F781,
   0x3F06D905, 0x3F05BF37, 0x3F04A9FA, 0x3F039930, 0x3F028CC0, 0x3F01848E, 0x3F008081]

/-- VRCP RC[j], j = 0 to 63 (R119), FP64. -/
def tabRcp64 : List Nat :=
  [0x3FEFC07F01FC07F0, 0x3FEF44659E4A4271, 0x3FEECC07B301ECC0, 0x3FEE573AC901E574, 0x3FEDE5D6E3F8868A,
   0x3FED77B654B82C34, 0x3FED0CB58F6EC074, 0x3FECA4B3055EE191, 0x3FEC3F8F01C3F8F0, 0x3FEBDD2B899406F7,
   0x3FEB7D6C3DDA338B, 0x3FEB2036406C80D9, 0x3FEAC5701AC5701B, 0x3FEA6D01A6D01A6D, 0x3FEA16D3F97A4B02,
   0x3FE9C2D14EE4A102] ++
  [0x3FE970E4F80CB872, 0x3FE920FB49D0E229, 0x3FE8D3018D3018D3, 0x3FE886E5F0ABB04A, 0x3FE83C977AB2BEDD,
   0x3FE7F405FD017F40, 0x3FE7AD2208E0ECC3, 0x3FE767DCE434A9B1, 0x3FE724287F46DEBC, 0x3FE6E1F76B4337C7,
   0x3FE6A13CD1537290, 0x3FE661EC6A5122F9, 0x3FE623FA77016240, 0x3FE5E75BB8D015E7, 0x3FE5AC056B015AC0,
   0x3FE571ED3C506B3A] ++
  [0x3FE5390948F40FEB, 0x3FE5015015015015, 0x3FE4CAB88725AF6E, 0x3FE49539E3B2D067, 0x3FE460CBC7F5CF9A,
   0x3FE42D6625D51F87, 0x3FE3FB013FB013FB, 0x3FE3C995A47BABE7, 0x3FE3991C2C187F63, 0x3FE3698DF3DE0748,
   0x3FE33AE45B57BCB2, 0x3FE30D190130D190, 0x3FE2E025C04B8097, 0x3FE2B404AD012B40, 0x3FE288B01288B013,
   0x3FE25E22708092F1] ++
  [0x3FE23456789ABCDF, 0x3FE20B470C67C0D9, 0x3FE1E2EF3B3FB874, 0x3FE1BB4A4046ED29, 0x3FE19453808CA29C,
   0x3FE16E0689427379, 0x3FE1485F0E0ACD3B, 0x3FE12358E75D3033, 0x3FE0FEF010FEF011, 0x3FE0DB20A88F4696,
   0x3FE0B7E6EC259DC8, 0x3FE0953F39010954, 0x3FE073260A47F7C6, 0x3FE05197F7D73404, 0x3FE03091B51F5E1A,
   0x3FE0101010101010]

/-- VRSQ RS[j], j = 0 to 47 (R120), FP32. -/
def tabRsq32 : List Nat :=
  [0x3F7C1764, 0x3F74C867, 0x3F6E133E, 0x3F67E3ED, 0x3F6229ED, 0x3F5CD76E, 0x3F57E0CF, 0x3F533C2E, 0x3F4EE116,
   0x3F4AC83F, 0x3F46EB5A, 0x3F4344E6, 0x3F3FD012, 0x3F3C889F, 0x3F396ACE, 0x3F36734A] ++
  [0x3F339F19, 0x3F30EB96, 0x3F2E565C, 0x3F2BDD46, 0x3F297E62, 0x3F2737F0, 0x3F250855, 0x3F22EE1D, 0x3F20E7F5,
   0x3F1EF4A4, 0x3F1D130E, 0x3F1B422C, 0x3F19810C, 0x3F17CED0, 0x3F162AA9, 0x3F1493D9] ++
  [0x3F1309AF, 0x3F118B87, 0x3F1018C6, 0x3F0EB0E0, 0x3F0D534F, 0x3F0BFF97, 0x3F0AB544, 0x3F0973E8, 0x3F083B1E,
   0x3F070A87, 0x3F05E1C7, 0x3F04C08B, 0x3F03A682, 0x3F029362, 0x3F0186E2, 0x3F0080C1]

/-- VRSQ RS[j], j = 0 to 47 (R120), FP64. -/
def tabRsq64 : List Nat :=
  [0x3FEF82EC882C0F9B, 0x3FEE990CDAD55ED2, 0x3FEDC267BEA45549, 0x3FECFC7DA32A9213, 0x3FEC453D90F057A2,
   0x3FEB9AEDBA588347, 0x3FEAFC19D8606169, 0x3FEA6785B41BACF7, 0x3FE9DC22BE484458, 0x3FE95907EB87AB44,
   0x3FE8DD6B4563A009, 0x3FE8689CC7E07E7D, 0x3FE7FA023F1068D1, 0x3FE79113EBBD7729, 0x3FE72D59C45F1FC5,
   0x3FE6CE6931D5858D] ++
  [0x3FE673E32EF63A03, 0x3FE61D72B7978671, 0x3FE5CACB7802F342, 0x3FE57BA8B0EE01B9, 0x3FE52FCC468D6B54,
   0x3FE4E6FDF33CF032, 0x3FE4A10A97AF7B92, 0x3FE45DC3A3C34FA3, 0x3FE41CFE93FF5199, 0x3FE3DE948077DB58,
   0x3FE3A261BA6D7A37, 0x3FE36845766EEC92, 0x3FE330218127C0E0, 0x3FE2F9D9FD52FD50, 0x3FE2C5552988E428,
   0x3FE2927B2CD320F5] ++
  [0x3FE26135E91DAF55, 0x3FE23170D2BE638A, 0x3FE20318CC6A8F5D, 0x3FE1D61C070AE7D3, 0x3FE1AA69E4F2777F,
   0x3FE17FF2E00EC3EE, 0x3FE156A872B5EF62, 0x3FE12E7D02C40253, 0x3FE10763CEC30B26, 0x3FE0E150DCE2B60C,
   0x3FE0BC38EB8BA412, 0x3FE0981163615499, 0x3FE074D04A8B1438, 0x3FE0526C39213BFA, 0x3FE030DC4EA03A72,
   0x3FE0101828467EE9]

end Sys2Proof.Machine
end

