-- ==== Sys2Proof/WellFormed.lean ====
section
/-! DEFINITION. Which operations have an encoding: the limits on operands that the entries state (R45 to R56, R113 to R135, R247). -/

namespace Sys2Proof

/-- Types of the vector entries (R113, R116, R117, R125). -/
def tyArith : List Ty := [.f64, .f32, .bf16, .f16, .i32, .n32, .i64, .n64]
def tyAbs : List Ty := [.f64, .f32, .bf16, .f16, .i32, .i64]
def tyReal : List Ty := [.f64, .f32]
def tyWide : List Ty := [.f64, .f32, .i32, .n32, .i64, .n64]
def isFloatTy (t : Ty) : Bool := [Ty.f64, .f32, .bf16, .f16, .e4m3, .e5m2].contains t

/-- Control-register indices whose CTLW is a row of its own. -/
def ownCtlw : List Nat := [0x001, 0x00A, 0x00F, 0x104, 0x105, 0x200, 0x203]

/-- An atomic's use and delay: `.com` takes no delay (R54, R247). -/
def wfUse (use : AtUse) (dl : Delay) : Bool := use != .com || dl == ⟨0#6, 0#2⟩

/-- The operand limits of an operation. Events have no operands to limit. -/
def Instr.wf : Instr → Bool
  | .headerTransfer l _ xc tb ext => (xc != .never || tb == 0) && (l || decide (ext.toNat < 64))
  | .lockHeader _ _ _ banks => banks != 0#16
  | .ctlw idx _ => !ownCtlw.contains idx.toNat
  | .ld _ _ sz sx _ _ | .ldAcq _ _ sz sx _ _ => !(sx && sz == 3#2)
  | .amoAdd _ _ _ use dl | .amoAnd _ _ _ use dl | .amoOr _ _ _ use dl | .amoXor _ _ _ use dl
  | .amoMin _ _ _ use dl | .amoMax _ _ _ use dl => wfUse use dl
  | .amoSwap _ _ _ use _ => use != .com
  | .cas _ _ _ _ use _ => use != .com
  | .vadd _ _ _ _ ty | .vsub _ _ _ _ ty | .vmul _ _ _ _ ty | .vmin _ _ _ _ ty | .vmax _ _ _ _ ty
  | .vcmp _ _ _ _ _ ty => tyArith.contains ty
  | .vdiv _ _ _ _ ty | .vsqrt _ _ _ ty | .vrcp _ _ _ ty | .vrsq _ _ _ ty | .vfex2 _ _ _ ty | .vlg2 _ _ _ ty
  | .vgetx _ _ _ ty | .vinsx _ _ _ _ ty | .vrndi _ _ _ _ ty => tyReal.contains ty
  | .vabs _ _ _ ty | .vneg _ _ _ ty => tyAbs.contains ty
  | .vand _ _ _ _ ty | .vor _ _ _ _ ty | .vxor _ _ _ _ ty | .vshl _ _ _ _ ty | .vshr _ _ _ _ ty | .vsra _ _ _ _ ty
  | .vsel _ _ _ _ ty | .vbcast _ _ _ ty | .vext _ _ _ ty | .vins _ _ _ _ ty | .viota _ _ ty | .vperm _ _ _ _ ty
  | .vredadd _ _ _ ty | .vredmax _ _ _ ty | .vredmin _ _ _ ty => tyWide.contains ty
  | .vcvt _ _ td _ _ _ sat => !(sat && isFloatTy td)
  | .vdefer v n _ _ | .vdrain v n _ => decide (v.val + n.toNat ≤ 15)
  | _ => true

end Sys2Proof
end

