-- ==== Sys2Proof/Machine/Vector.lean ====
section
/-! DEFINITION. Lane arithmetic, transcendentals, conversions, compares, masks, lane movement and reductions (07_vector.md R109
to R127). -/

namespace Sys2Proof.Machine

/-! ### Lanes and masks (R109, R110) -/

/-- Lane `i` of width `w`. -/
def laneGet (w : Nat) (v : Vec) (i : Nat) : Nat := (v.toNat >>> (w * i)) % 2 ^ w

/-- A vector from its lanes, lane 0 first. -/
def laneNat (w : Nat) : List Nat → Nat
  | [] => 0
  | x :: r => x + 2 ^ w * laneNat w r
def laneJoin (w : Nat) (l : List Nat) : Vec := .ofNat 1024 (laneNat w l)

/-- Lane `i` of the destination as it stood at the read step; zero for the queue-only destination (R110). An inactive lane keeps all its bits,
those above a 16-bit type too (DEDUCED, log entry 139: R110 keeps the lane as it stood, R109 writes zeros above a value). -/
def State.oldLane (s : State) (d : Dst) (w i : Nat) : Nat :=
  match d with
  | .reg n => laneGet w (s.core.regs.v.get n) i
  | .queue => 0

/-- A vector result under a write mask, with the flags of its active lanes (R110, R111). -/
def State.lanewise (s : State) (lat : Nat) (d : Dst) (k : Small) (w n : Nat) (f : Nat → Nat × Fl) : Out :=
  let rs := (List.range n).map fun i => if (s.gK k).getLsbD i then f i else (s.oldLane d w i, flNone)
  let fl := rs.foldl (fun a r => a ||| r.2) flNone
  let s := s.post lat (.vector d (laneJoin w (rs.map Prod.fst)))
  .next (if fl = flNone then s else s.post lat (.flags fl))

/-- An entry accepts some types only (R113). -/
def State.typed (s : State) (l : List Ty) (ty : Ty) (f : Out) : Out := if l.contains ty then f else s.illop

/-- A one-operand lane operation, and a two-operand one. -/
def State.lanes1 (s : State) (lat : Nat) (d : Dst) (a : Src) (k : Small) (ty : Ty) (f : Nat → Nat × Fl) : Out :=
  s.lanewise lat d k ty.lane ty.lanes fun i => f (laneGet ty.lane (s.gV a) i % 2 ^ ty.bits)
def State.lanes2 (s : State) (lat : Nat) (d : Dst) (a b : Src) (k : Small) (ty : Ty) (f : Nat → Nat → Nat × Fl) : Out :=
  s.lanewise lat d k ty.lane ty.lanes fun i =>
    f (laneGet ty.lane (s.gV a) i % 2 ^ ty.bits) (laneGet ty.lane (s.gV b) i % 2 ^ ty.bits)

/-! ### Elementary arithmetic (R113 to R116) -/

/-- Deliver a result of floating-point values in a format, RNE (R111). -/
def Fmt.put (f : Fmt) (r : Fp × Fl) : Nat × Fl := f.enc .rne r.1 r.2

/-- A lane operation with a floating-point and an integer form. -/
def laneOp (ty : Ty) (fp : Fp → Fp → Fp × Fl) (int : Int → Int → Int) (x y : Nat) : Nat × Fl :=
  match ty.fmt? with
  | some f => f.put (fp (f.dec x) (f.dec y))
  | none => (ofIntN ty.bits (int (ty.toInt x) (ty.toInt y)), flNone)

def laneAdd (ty : Ty) : Nat → Nat → Nat × Fl := laneOp ty Fp.add (· + ·)
def laneMin (ty : Ty) : Nat → Nat → Nat × Fl := laneOp ty (Fp.least false) min
def laneMax (ty : Ty) : Nat → Nat → Nat × Fl := laneOp ty (Fp.least true) max

def execVadd (d : Dst) (a b : Src) (k : Small) (ty : Ty) (s : State) : Out :=
  s.typed tyArith ty (s.lanes2 3 d a b k ty (laneAdd ty))
def execVsub (d : Dst) (a b : Src) (k : Small) (ty : Ty) (s : State) : Out :=
  s.typed tyArith ty (s.lanes2 3 d a b k ty (laneOp ty (fun x y => x.add y.negate) (· - ·)))
def execVmul (d : Dst) (a b : Src) (k : Small) (ty : Ty) (s : State) : Out :=
  s.typed tyArith ty (s.lanes2 4 d a b k ty (laneOp ty Fp.mul (· * ·)))
def execVmin (d : Dst) (a b : Src) (k : Small) (ty : Ty) (s : State) : Out :=
  s.typed tyArith ty (s.lanes2 3 d a b k ty (laneMin ty))
def execVmax (d : Dst) (a b : Src) (k : Small) (ty : Ty) (s : State) : Out :=
  s.typed tyArith ty (s.lanes2 3 d a b k ty (laneMax ty))

/-- Latency of VDIV and VSQRT (R114). -/
def divLatency (ty : Ty) : Nat := if ty = .f64 then 36 else 20

def execVdiv (d : Dst) (a b : Src) (k : Small) (ty : Ty) (s : State) : Out :=
  s.typed tyReal ty (s.lanes2 (divLatency ty) d a b k ty (laneOp ty Fp.div (fun _ _ => 0)))
def execVsqrt (d : Dst) (a : Src) (k : Small) (ty : Ty) (s : State) : Out :=
  s.typed tyReal ty (s.lanes1 (divLatency ty) d a k ty fun x => laneOp ty (fun v _ => v.sqrt) (fun _ _ => 0) x 0)

/-- Magnitude and negation keep everything but the sign; a NaN becomes canonical (R74). -/
def Fp.abs : Fp → Fp
  | .nan s => .nan s
  | .inf _ => .inf false
  | .fin _ m e => .fin false m e

def execVabs (d : Dst) (a : Src) (k : Small) (ty : Ty) (s : State) : Out :=
  s.typed tyAbs ty (s.lanes1 3 d a k ty fun x => laneOp ty (fun v _ => (v.abs, v.sigFl)) (fun i _ => i.natAbs) x 0)
def execVneg (d : Dst) (a : Src) (k : Small) (ty : Ty) (s : State) : Out :=
  s.typed tyAbs ty (s.lanes1 3 d a k ty fun x => laneOp ty (fun v _ => (v.negate, v.sigFl)) (fun i _ => -i) x 0)

/-- The fused forms (R115). -/
def State.fused (s : State) (d : Dst) (a b c : Src) (ty : Ty) (k : Small) (np nc : Bool) : Out :=
  match ty.fmt? with
  | none => s.illop
  | some f =>
    s.lanewise 4 d k ty.lane ty.lanes fun i =>
      let rd := fun r => f.dec (laneGet ty.lane (s.gV r) i % 2 ^ ty.bits)
      let x := rd a
      let z := rd c
      f.put ((if np then x.negate else x).fma (rd b) (if nc then z.negate else z))

def execVfma (d : Dst) (a b c : Src) (tf : FTy) (k : Small) (s : State) : Out := s.fused d a b c tf.ty k false false
def execVfms (d : Dst) (a b c : Src) (tf : FTy) (k : Small) (s : State) : Out := s.fused d a b c tf.ty k false true
def execVfnma (d : Dst) (a b c : Src) (tf : FTy) (k : Small) (s : State) : Out := s.fused d a b c tf.ty k true false

/-- The bitwise and shift operations: only the lane width matters (R116). -/
def State.bitwise (s : State) (d : Dst) (a b : Src) (k : Small) (ty : Ty) (f : Nat → Nat → Nat) : Out :=
  s.typed tyWide ty (s.lanes2 3 d a b k ty fun x y => (f x y % 2 ^ ty.lane, flNone))

def execVand (d : Dst) (a b : Src) (k : Small) (ty : Ty) (s : State) : Out := s.bitwise d a b k ty (· &&& ·)
def execVor (d : Dst) (a b : Src) (k : Small) (ty : Ty) (s : State) : Out := s.bitwise d a b k ty (· ||| ·)
def execVxor (d : Dst) (a b : Src) (k : Small) (ty : Ty) (s : State) : Out := s.bitwise d a b k ty (· ^^^ ·)
def execVshl (d : Dst) (a b : Src) (k : Small) (ty : Ty) (s : State) : Out :=
  s.bitwise d a b k ty fun x y => x <<< (y % ty.lane)
def execVshr (d : Dst) (a b : Src) (k : Small) (ty : Ty) (s : State) : Out :=
  s.bitwise d a b k ty fun x y => x >>> (y % ty.lane)
def execVsra (d : Dst) (a b : Src) (k : Small) (ty : Ty) (s : State) : Out :=
  s.bitwise d a b k ty fun x y => ofIntN ty.lane (signed ty.lane x / (2 ^ (y % ty.lane) : Nat))

/-- VSEL writes every lane; K is its selector (R116). -/
def execVsel (d : Dst) (a b : Src) (k : Small) (ty : Ty) (s : State) : Out :=
  s.typed tyWide ty (s.vector 3 d (laneJoin ty.lane ((List.range ty.lanes).map fun i =>
    laneGet ty.lane (s.gV (if (s.gK k).getLsbD i then a else b)) i)))

/-! ### Transcendentals (R117 to R120) -/

/-- One rounded step of an algorithm: only INX comes from it. -/
def Fmt.step (f : Fmt) (r : Fp × Fl) : Fp × Fl := let (c, g) := f.put r; (f.dec c, g &&& flInx)

/-- Horner steps by FMA, highest coefficient first, with the flags. -/
def Fmt.horner (f : Fmt) (x : Fp) (cs : List Nat) (t : Fp × Fl) : Fp × Fl :=
  cs.foldl (fun t c => let (r, g) := f.step (t.1.fma x (f.dec c)); (r, t.2 ||| g)) t

/-- The polynomial of R117 and R118: t := c[n], the FMA steps, then t × d rounded. Coefficients are listed from 1. -/
def Fmt.poly (f : Fmt) (cs : List Nat) (d : Fp) : Fp × Fl :=
  match cs.reverse with
  | [] => (d, flNone)
  | c :: r =>
    let (t, g) := f.horner d r (f.dec c, flNone)
    let (t, h) := f.step (t.mul d)
    (t, g ||| h)

def Fp.ofInt (i : Int) : Fp := .fin (decide (i < 0)) i.natAbs 0

/-- VFEX2 of one lane (R117). -/
def fex2 (f : Fmt) (tab cs : List Nat) (x : Nat) : Nat × Fl :=
  match f.dec x with
  | .nan sig => (f.nanCode, (Fp.nan sig).sigFl)
  | .inf neg => if neg then (0, flNone) else (f.infCode false, flNone)
  | .fin neg m e =>
    let k := (toInt .rne neg m (e + 6)).1
    let j := (k % 64).toNat
    let q := (k - j) / 64
    let (d, g0) := f.step ((f.dec x).add (.fin (decide (0 < k)) k.natAbs (-6)))
    let (t, g1) := f.poly cs d
    let tj := f.dec (tab.getD j 0)
    let (y, g2) := f.step (tj.fma t tj)
    match y with
    | .fin s m e => let (c, g) := f.round .rne s m (e + q); (c, g0 ||| g1 ||| g2 ||| g)
    | _ => (f.nanCode, flNone)

/-- VLG2 of one lane (R118). -/
def flg2 (f : Fmt) (logs quots cs : List Nat) (x : Nat) : Nat × Fl :=
  match f.dec x with
  | .nan sig => (f.nanCode, (Fp.nan sig).sigFl)
  | .inf neg => if neg then (f.nanCode, flInv) else (f.infCode false, flNone)
  | .fin neg m e =>
    if m = 0 then (f.infCode true, flDivz)
    else if neg then (f.nanCode, flInv)
    else
      let top := log2At m e
      let ex : Int := if 2 * m < 3 * 2 ^ m.log2 then top else top + 1
      let k := (toInt .rne false m (e - ex + 6)).1.toNat - 48
      let (z, g0) := f.step ((Fp.fin false m (e - ex)).fma (f.dec (quots.getD k 0)) (Fp.ofInt (-1)))
      let (t, g1) := f.poly cs z
      let (h, g2) := f.step ((Fp.ofInt ex).add (f.dec (logs.getD k 0)))
      let (c, g) := f.put (h.add t)
      (c, g0 ||| g1 ||| g2 ||| g)

/-- Newton steps of VRCP: h := FMA(−m, y, 1), y := FMA(y, h, y) (R119). -/
def rcpSteps (f : Fmt) (m : Fp) : Nat → Fp × Fl → Fp × Fl
  | 0, y => y
  | n + 1, (y, g) =>
    let (h, g1) := f.step (m.negate.fma y (Fp.ofInt 1))
    let (y', g2) := f.step (y.fma h y)
    rcpSteps f m n (y', g ||| g1 ||| g2)

/-- VRCP of one lane (R119). -/
def frcp (f : Fmt) (tab : List Nat) (steps : Nat) (x : Nat) : Nat × Fl :=
  match f.dec x with
  | .nan sig => (f.nanCode, (Fp.nan sig).sigFl)
  | .inf neg => f.put (.fin neg 0 0, flNone)
  | .fin neg m e =>
    if m = 0 then (f.infCode neg, flDivz)
    else
      let j := m * 64 / 2 ^ m.log2 - 64
      let (y, g) := rcpSteps f (.fin false m (-(m.log2 : Int))) steps (f.dec (tab.getD j 0), flNone)
      match y with
      | .fin _ n q => let (c, h) := f.round .rne neg n (q - log2At m e); (c, g ||| h)
      | _ => (f.nanCode, flNone)

/-- Newton steps of VRSQ (R120). -/
def rsqSteps (f : Fmt) (m : Fp) : Nat → Fp × Fl → Fp × Fl
  | 0, y => y
  | n + 1, (y, g) =>
    let (t, g1) := f.step (y.mul y)
    let (h, g2) := f.step (m.negate.fma t (Fp.ofInt 1))
    let (y', g3) := f.step ((y.mul (.fin false 1 (-1))).1.fma h y)
    rsqSteps f m n (y', g ||| g1 ||| g2 ||| g3)

/-- VRSQ of one lane (R120). -/
def frsq (f : Fmt) (tab : List Nat) (steps : Nat) (x : Nat) : Nat × Fl :=
  match f.dec x with
  | .nan sig => (f.nanCode, (Fp.nan sig).sigFl)
  | .inf neg => if neg then (f.nanCode, flInv) else (0, flNone)
  | .fin neg m e =>
    if m = 0 then (f.infCode neg, flDivz)
    else if neg then (f.nanCode, flInv)
    else
      let k := log2At m e / 2
      let v := Fp.fin false m (e - 2 * k)
      let j := (toInt .rtz false m (e - 2 * k + 4)).1.toNat - 16
      let (y, g) := rsqSteps f v steps (f.dec (tab.getD j 0), flNone)
      match y with
      | .fin s n q => (((f.round .rne s n (q - k))).1, g)
      | _ => (f.nanCode, flNone)

/-- A lane function with an FP32 and an FP64 form; other types are ILLOP. -/
def State.real (s : State) (lat : Nat) (d : Dst) (a : Src) (k : Small) (ty : Ty) (f32 f64 : Nat → Nat × Fl) : Out :=
  s.typed tyReal ty (s.lanes1 lat d a k ty (if ty = .f64 then f64 else f32))

def execVfex2 (d : Dst) (a : Src) (k : Small) (ty : Ty) (s : State) : Out :=
  s.real 8 d a k ty (fex2 fF32 tabExp32 tabExpC32) (fex2 fF64 tabExp64 tabExpC64)
def execVlg2 (d : Dst) (a : Src) (k : Small) (ty : Ty) (s : State) : Out :=
  s.real 8 d a k ty (flg2 fF32 tabLog32 tabQuot32 tabLogC32) (flg2 fF64 tabLog64 tabQuot64 tabLogC64)
def execVrcp (d : Dst) (a : Src) (k : Small) (ty : Ty) (s : State) : Out :=
  s.real 8 d a k ty (frcp fF32 tabRcp32 2) (frcp fF64 tabRcp64 3)
def execVrsq (d : Dst) (a : Src) (k : Small) (ty : Ty) (s : State) : Out :=
  s.real 8 d a k ty (frsq fF32 tabRsq32 3) (frsq fF64 tabRsq64 4)

/-! ### Exponents and integral rounding (R121) -/

/-- VRNDI of one lane. -/
def frndi (f : Fmt) (rm : Rm) (x : Nat) : Nat × Fl :=
  match f.dec x with
  | .nan sig => (f.nanCode, (Fp.nan sig).sigFl)
  | .inf _ => (x, flNone)
  | .fin neg m e => if 0 ≤ e then (x, flNone) else f.put (.fin neg (roundAt rm neg m e 0).1 0, flNone)

/-- VGETX of one lane. -/
def fgetx (f : Fmt) (x : Nat) : Nat × Fl :=
  match f.dec x with
  | .nan sig => (f.nanCode, (Fp.nan sig).sigFl)
  | .inf _ => (f.infCode false, flNone)
  | .fin _ m e => if m = 0 then (f.infCode true, flDivz) else f.put (Fp.ofInt (log2At m e), flNone)

/-- VINSX of one lane, its special operands in the order of R121. -/
def finsx (f : Fmt) (x y : Nat) : Nat × Fl :=
  let a := f.dec x
  let b := f.dec y
  let fl := a.sigFl ||| b.sigFl
  match a, b with
  | .nan _, _ => (f.nanCode, fl)
  | _, .nan _ => (f.nanCode, fl)
  | .inf _, .inf true => (f.nanCode, flInv)
  | .inf _, _ => (x, flNone)
  | .fin neg m _, .inf down =>
    if m = 0 then (if down then (x, flNone) else (f.nanCode, flInv))
    else if down then f.put (.fin neg 0 0, flNone) else (f.infCode neg, flNone)
  | .fin neg m e, .fin bn bm be => if m = 0 then (x, flNone) else f.round .rne neg m (e + (toInt .rtz bn bm be).1)

def execVrndi (d : Dst) (a : Src) (rm : Rm) (k : Small) (ty : Ty) (s : State) : Out :=
  s.real 3 d a k ty (frndi fF32 rm) (frndi fF64 rm)
def execVgetx (d : Dst) (a : Src) (k : Small) (ty : Ty) (s : State) : Out := s.real 3 d a k ty (fgetx fF32) (fgetx fF64)
def execVinsx (d : Dst) (a b : Src) (k : Small) (ty : Ty) (s : State) : Out :=
  s.typed tyReal ty (s.lanes2 3 d a b k ty (if ty = .f64 then finsx fF64 else finsx fF32))

/-! ### Conversion (R122) -/

/-- VCVT: 16 lanes when either type is 64 bits wide, else 32; SAT with a floating-point destination is ILLOP (R87). -/
def execVcvt (d : Dst) (a : Src) (tyd tys : Ty) (rm : Rm) (k : Small) (sat : Bool) (s : State) : Out :=
  let wide := tyd.bits = 64 ∨ tys.bits = 64
  let w := if wide then 64 else 32
  let n := if wide then 16 else 32
  if sat && tyd.fmt?.isSome then s.illop
  else s.lanewise 3 d k w n fun i => convert tyd tys rm sat (laneGet w (s.gV a) i % 2 ^ tys.bits)

/-! ### Compares and masks (R123, R124) -/

/-- A condition of VCMP on one lane, with its flags. -/
def VCond.holds (cc : VCond) (ty : Ty) (x y : Nat) : Bool × Fl :=
  let ord := fun (o : Ordering) => match cc with
    | .eq => o == .eq
    | .ne => o != .eq
    | .lt => o == .lt
    | .le => o != .gt
    | .gt => o == .gt
    | .ge => o != .lt
    | .un => false
    | .ord => true
  match ty.fmt? with
  | none => (ord (compare (ty.toInt x) (ty.toInt y)), flNone)
  | some f =>
    let a := f.dec x
    let b := f.dec y
    if a.isNan || b.isNan then
      match cc with
      | .ne | .un => (true, a.sigFl ||| b.sigFl)
      | .eq | .ord => (false, a.sigFl ||| b.sigFl)
      | _ => (false, flInv)
    else (ord (a.cmp b), flNone)

/-- A mask from its bits. -/
def maskOf (l : List Bool) : BitVec 32 :=
  l.zipIdx.foldl (fun m p => if p.1 then m ||| (1#32 <<< p.2) else m) 0#32

def execVcmp (kd : Small) (cc : VCond) (a b : Src) (k : Small) (ty : Ty) (s : State) : Out :=
  s.typed tyArith ty
    (let rs := (List.range ty.lanes).map fun i =>
       if (s.gK k).getLsbD i then
         VCond.holds cc ty (laneGet ty.lane (s.gV a) i % 2 ^ ty.bits) (laneGet ty.lane (s.gV b) i % 2 ^ ty.bits)
       else (false, flNone)
     let fl := rs.foldl (fun a r => a ||| r.2) flNone
     let s := s.post 3 (.mask kd (maskOf (rs.map Prod.fst)))
     .next (if fl = flNone then s else s.post 3 (.flags fl)))

def execKand (kd ka kb : Small) (s : State) : Out := .next (s.post 3 (.mask kd (s.gK ka &&& s.gK kb)))
def execKor (kd ka kb : Small) (s : State) : Out := .next (s.post 3 (.mask kd (s.gK ka ||| s.gK kb)))
def execKnot (kd ka : Small) (s : State) : Out := .next (s.post 3 (.mask kd (~~~(s.gK ka))))

/-- Ones of a mask (R124). -/
def maskOnes (m : BitVec 32) : Nat := ((List.range 32).filter fun i => m.getLsbD i).length

def execKpopc (d : Dst) (ka : Small) (s : State) : Out := s.scalar 3 d (.ofNat 64 (maskOnes (s.gK ka)))
def execVctw (ka : Small) (s : State) : Out := .next (s.post 3 (.condNext (s.gK ka)))

/-! ### Lane movement and reduction (R125 to R127) -/

def execVbcast (d : Dst) (a : Src) (k : Small) (ty : Ty) (s : State) : Out :=
  s.typed tyWide ty (s.lanewise 3 d k ty.lane ty.lanes fun _ => ((s.gS a).toNat % 2 ^ ty.lane, flNone))

/-- A lane as a scalar: sign-extended for .i32, zero-extended otherwise (R125, R127). -/
def laneScalar (ty : Ty) (x : Nat) : Word := if ty = .i32 then BitVec.ofInt 64 (signed 32 x) else .ofNat 64 x

def execVext (d : Dst) (a b : Src) (ty : Ty) (s : State) : Out :=
  s.typed tyWide ty (s.scalar 3 d (laneScalar ty (laneGet ty.lane (s.gV a) ((s.gS b).toNat % ty.lanes))))

/-- VINS writes every lane; K is its selector (R125). -/
def execVins (d : Dst) (a b : Src) (k : Small) (ty : Ty) (s : State) : Out :=
  s.typed tyWide ty (s.vector 3 d (laneJoin ty.lane ((List.range ty.lanes).map fun i =>
    if (s.gK k).getLsbD i then (s.gS b).toNat % 2 ^ ty.lane else laneGet ty.lane (s.gV a) i)))

def execViota (d : Dst) (k : Small) (ty : Ty) (s : State) : Out :=
  s.typed tyWide ty (s.lanewise 3 d k ty.lane ty.lanes fun i =>
    match ty.fmt? with
    | some f => f.put (Fp.ofInt i, flNone)
    | none => (i, flNone))

def execVperm (d : Dst) (a b : Src) (k : Small) (ty : Ty) (s : State) : Out :=
  s.typed tyWide ty (s.lanewise 4 d k ty.lane ty.lanes fun i =>
    (laneGet ty.lane (s.gV a) (laneGet ty.lane (s.gV b) i % ty.lanes), flNone))

/-- One level of the reduction tree (R127). -/
def treeLevel (f : Nat → Nat → Nat × Fl) : List Nat → List Nat × Fl
  | x :: y :: r =>
    let (v, g) := f x y
    let (l, h) := treeLevel f r
    (v :: l, g ||| h)
  | l => (l, flNone)

/-- The tree, by levels. -/
def tree (f : Nat → Nat → Nat × Fl) : Nat → List Nat → Nat × Fl
  | 0, l => (l.headD 0, flNone)
  | n + 1, l =>
    let (l, g) := treeLevel f l
    let (v, h) := tree f n l
    (v, g ||| h)

/-- The reduction of the active lanes, with an identity for the others. -/
def State.reduce (s : State) (d : Dst) (a : Src) (k : Small) (ty : Ty) (ident : Nat) (f : Nat → Nat → Nat × Fl) : Out :=
  s.typed tyWide ty
    (let l := (List.range ty.lanes).map fun i => if (s.gK k).getLsbD i then laneGet ty.lane (s.gV a) i else ident
     let (v, fl) := tree f (if ty.lanes = 16 then 4 else 5) l
     let s := s.post 8 (.scalar d (laneScalar ty v))
     .next (if fl = flNone then s else s.post 8 (.flags fl)))

/-- The identity of a reduction (R127): for a floating-point type, and the least or greatest value of an integer type. -/
def redIdent (ty : Ty) (fp : Fmt → Nat) (int : Int) : Nat :=
  match ty.fmt? with
  | some f => fp f
  | none => ofIntN ty.bits int

def execVredadd (d : Dst) (a : Src) (k : Small) (ty : Ty) (s : State) : Out :=
  s.reduce d a k ty (redIdent ty (fun f => 2 ^ (f.eb + f.mb)) 0) (laneAdd ty)
def execVredmax (d : Dst) (a : Src) (k : Small) (ty : Ty) (s : State) : Out :=
  s.reduce d a k ty (redIdent ty (fun f => f.infCode true) ty.lo) (laneMax ty)
def execVredmin (d : Dst) (a : Src) (k : Small) (ty : Ty) (s : State) : Out :=
  s.reduce d a k ty (redIdent ty (fun f => f.infCode false) ty.hi) (laneMin ty)

end Sys2Proof.Machine
end

