-- ==== Sys2Proof/Machine/Comm.lean ====
section
/-! DEFINITION. Direct transfers and the tile table (16_collectives.md R260 to R276). -/

namespace Sys2Proof.Machine

/-! ### Issue on the communication engine (R262, R263) -/

/-- Check 3 of R263: `n` bytes at a multiple of 64 wholly in the core scratchpad; the offset. -/
def State.checkSpad (s : State) (a n : Nat) : Chk Nat :=
  if a % 64 ≠ 0 then .bad 6 (.ofNat 64 a) false
  else match s.window s.core a n with
    | none => .bad 5 (.ofNat 64 (s.spanFault a)) false
    | some (.spad, o) => .ok o
    | some _ => .bad 1 (.ofNat 64 s.where) false

/-- Queue an operation, once a place is free (R262). -/
def State.commQueue (s : State) (obj : Nat) (op : CommOp) (f : State → Out) : Out :=
  if 8 ≤ s.core.port.nq.length then .next (s.wait .engineQueue)
  else f (s.modPort fun p =>
    { p with nq := p.nq ++ [⟨s.issuedNow, obj, op⟩], seq := p.seq + 1 })

/-! ### SEND (R260, R263 to R265) -/

/-- Fields of a peer word. -/
def pwOff (w : Nat) : Nat := bits w 0 22
def pwSlice (w : Nat) : Bool := w.testBit 22
def pwVc (w : Nat) : Nat := bits w 24 8
def pwGang (w : Nat) : Nat := bits w 32 12
def pwCtr (w : Nat) : RegNo := ⟨bits w 44 4, Nat.mod_lt _ (by decide)⟩
def pwRemote (w : Nat) : Bool := w.testBit 48
def pwPkg (w : Nat) : Nat := bits w 49 13

/-- Whether a package index has a valid entry in the peer table of the core's partition (R276). -/
def State.knowsPeer (s : State) (part pkg : Nat) : Bool := s.peers.any fun e => e.1 == part * 8192 + pkg

/-- The member of the instance that a peer word names. -/
def State.peerCore (s : State) (w : Nat) : Option Nat :=
  ((s.members s.core).find? fun m => m.1 == pwGang w && m.2.1 == pwVc w).map fun m => m.2.2

/-- Check 4 of R263. -/
def State.badPeer (s : State) (w n : Nat) : Bool :=
  bits w 62 2 != 0 || (!pwRemote w && pwPkg w != 0) || w.testBit 23 || pwOff w % 64 != 0 ||
  (match s.peerCore w with
   | none => true
   | some c => decide (sliceSize (decide (1024 ≤ c % 65536)) < pwOff w + n)) ||
  (pwRemote w && !s.knowsPeer (s.partOf s.core.id) (pwPkg w))

/-- The reads of a SEND, one chunk a cycle (R264). -/
def State.sendReads (s : State) (key w n : Nat) (seq : Nat) : List Sched :=
  let core := (s.peerCore w).getD s.core.id
  let goal := fun (k : Nat) =>
    if pwRemote w then SendTo.there (pwPkg w) (pwGang w) (pwVc w) (pwSlice w) (pwOff w + 64 * k)
    else .here core ((if pwSlice w then keySlice (core % 65536) (pwOff w) else keySpad (core % 65536) (pwOff w)) + 64 * k)
  (List.range (n / 64)).map fun k =>
    ⟨s.core.unf + 3 + k, s.core.unf, s.core.flow.slot,
      .send (key + 64 * k) (crossDelay s.core.id (core % 65536)) (goal k) (pwCtr w) seq⟩

/-- A read that would lose its bank cycle to an earlier access (R215). -/
def State.sendConflict (s : State) (rs : List Sched) : Option Nat := rs.findSome? fun a => s.missedBank a.due a.kind

/-- SEND (R263, R264). A provisional instance is held before it (R312). -/
def execSend (o a b c : Src) (s : State) : Out :=
  let w := (s.gS b).toNat
  let n := (s.gS c).toNat
  s.checked (s.checkObj (s.gS o).toNat) fun x =>
    if n % 64 ≠ 0 ∨ n < 64 ∨ 4096 < n then s.illop
    else s.checked (s.checkSpad (s.gS a).toNat n) fun off =>
      if s.badPeer w n then s.illop
      else
        let rs := s.sendReads (s.keyOf s.core .spad off) w n s.core.port.seq
        let k := n / 64
        match (if s.core.ctl.chk then s.sendConflict rs else none) with
        | some b => s.bankStall b
        | none => if s.core.prov then .next (s.wait .provisional) else s.commQueue x.2 (if pwRemote w then .sendRemote (pwPkg w) (sendFlow (pwGang w) (pwVc w)) k n else .send k n) fun s =>
            .next (s.modPort fun p => { p with sched := p.sched ++ rs })

/-- After a chunk its sender's SEND may have its bytes to report. -/
def State.afterChunk (s : State) (c : Chunk) : State :=
  match c.sender with
  | none => s
  | some (n, _) => s.on n State.finishSend

/-- The first chunk of another package for the core in focus is performed once it has a free cycle of its bank, as an access of the
communication engine (R216, R265). -/
def State.landRemote (s : State) : State :=
  match s.held.find? fun h => h.sender.isNone && h.dest == s.core.name with
  | none => s
  | some c =>
    if s.bankLocked c.key then s
    else
      let (s, go) := s.engineTurn 4 (2 ^ 128) [(c.key, c.data.length)]
      if go then { s with held := s.held.erase c }.performChunk c else s

/-- SEND_CHUNK_LANDING: a chunk whose bank cycle has come is counted; else the first chunk of the core in focus that is due arrives at its
bank (R214, R264); else a chunk of another package takes a free bank cycle, or a SEND that is over reports (R216, R265). -/
def execSendChunkLanding (s : State) : Out :=
  match s.arrived.find? fun x => decide (x.1 ≤ s.now) with
  | some x => .next (({ s with arrived := s.arrived.erase x }.countChunk x.2).afterChunk x.2)
  | none =>
    match firstBy (fun (a b : Chunk) => decide (a.due < b.due)) (s.core.port.chunks.filter fun c => decide (c.due ≤ s.core.unf)) with
    | some c => .next (((s.modPort fun p => { p with chunks := p.chunks.erase c }).arriveChunk c).afterChunk c)
    | none => .next (if s.held.any fun h => h.sender.isNone && h.dest == s.core.name then s.landRemote else s.finishSend)

/-- REMOTE_CHUNK_ARRIVAL: a chunk of another package's SEND arrives for the core in focus, and waits for its bank cycle (R265). -/
def execRemoteChunkArrival (win : Bool) (off : BitVec 22) (ctr : RegNo) (data : List Byte) (s : State) : Out :=
  .next (if sliceSize s.core.die < off.toNat + data.length then s
         else { s with held := s.held ++ [⟨s.core.unf, s.core.name, if win then keySlice s.core.id off.toNat else keySpad s.core.id off.toNat,
                ctr, data, none⟩] })

/-! ### RECV and RECVADD (R266, R267) -/

def execRecv (a b : Src) (s : State) : Out :=
  let x := s.gS a
  let i : RegNo := ⟨x.toNat % 16, Nat.mod_lt _ (by decide)⟩
  let n := (s.gS b).toNat
  if 16 ≤ x.toNat then s.illop
  else if (s.core.port.counters.get i).toNat < n then .next (s.wait .recv)
  else .next (s.modPort fun p => { p with counters := p.counters.set i (p.counters.get i - .ofNat 32 n) })

/-- Fields of RECVADD's control word. -/
def raLen (w : Nat) : Nat := bits w 0 13
def raN (w : Nat) : Nat := bits w 13 2 + 1
def raCtr (w : Nat) : RegNo := ⟨bits w 15 4, Nat.mod_lt _ (by decide)⟩
def raTy (w : Nat) : Ty := match bits w 19 2 with | 0 => .f32 | 1 => .f64 | 2 => .i32 | _ => .i64

def execRecvadd (o a b c : Src) (s : State) : Out :=
  let w := (s.gS c).toNat
  s.checked (s.checkObj (s.gS o).toNat) fun x =>
    if bits w 21 43 ≠ 0 ∨ raLen w % 64 ≠ 0 ∨ raLen w < 64 ∨ 4096 < raLen w then s.illop
    else s.checked (s.checkSpad (s.gS a).toNat (raLen w)) fun _ =>
      s.checked (s.checkSpad (s.gS b).toNat (raN w * raLen w)) fun _ =>
        s.commQueue x.2 (.recvadd (s.gS a) (s.gS b) (s.gS c) false) fun s => .next s

/-- Elements of a byte list, each of `n` bytes. -/
def elems (n : Nat) (bs : List Byte) : List Nat := let x := bytesNat bs; (List.range (bs.length / n)).map fun i => bits x (8 * n * i) (8 * n)

/-- Bytes of elements. -/
def elemBytes (n : Nat) (xs : List Nat) : List Byte := (xs.map fun x => natBytes x n).flatten

/-- Combine lists of elements, the first with each of the rest in order. -/
def combine (f : Nat → Nat → Nat) (acc : List Nat) (l : List (List Nat)) : List Nat := l.foldl (fun a b => List.zipWith f a b) acc

/-- The runs of `n` bytes of the core scratchpad at a generic address. -/
def State.spadRun (s : State) (a n : Nat) : Run := (s.keyOf s.core .spad (a - Win.spad.base), n)

/-- A RECVADD that may claim its counter now: the counter has the bytes, and no earlier RECVADD waits for it (R267). -/
def State.recvClaims (s : State) (j : CommJob) : Bool :=
  match j.op with
  | .recvadd _ _ c false =>
    let w := c.toNat
    decide (raN w * raLen w ≤ (s.core.port.counters.get (raCtr w)).toNat) &&
    !(s.core.port.nq.any fun e => decide (e.seq < j.seq) &&
      (match e.op with | .recvadd _ _ c' false => raCtr c'.toNat == raCtr w | _ => false))
  | _ => false

/-- The claim. -/
def State.recvClaim (s : State) (j : CommJob) : State :=
  match j.op with
  | .recvadd a b c _ => s.modPort fun p => { p with
      counters := p.counters.set (raCtr c.toNat) (p.counters.get (raCtr c.toNat) - .ofNat 32 (raN c.toNat * raLen c.toNat))
      nq := p.nq.map fun x => if x.seq == j.seq then { x with op := .recvadd a b c true } else x }
  | _ => s

/-- The element at a place of some contributions, added to the accumulator's in the declared order, and written (R267). -/
def State.recvElem (s : State) (ty : Ty) (dst src len n e : Nat) : State :=
  let sz := ty.bits / 8
  let el := fun (k : Nat) => bytesNat (s.readRuns [(k + e * sz, sz)])
  let x := (List.range n).foldl (fun a i => (laneAdd ty a (el (src + i * len))).1) (el dst)
  s.putBytes (dst + e * sz) (natBytes x sz)

/-- A RECVADD that has claimed: element after element, each written before the next is read (R267). -/
def State.recvCombine (s : State) (j : CommJob) : State :=
  match j.op with
  | .recvadd a b c true =>
    let w := c.toNat
    let len := raLen w
    let dst := s.spadRun a.toNat len
    let src := s.spadRun b.toNat (raN w * len)
    if !s.core.engineFree j.seq j.issue then s
    else if s.heldHost [(j.obj, 16)] then s.heldEngine
    else
      let (s, go) := s.engineGate 4 j.toIssued [dst, src, (j.obj, 16)]
      if !go then s
      else
        let s := s.modPort fun p => { p with nq := p.nq.filter fun x => x.seq != j.seq }
        if s.badRuns [dst, src] then s.engineFault j.obj 0xA
        else
          ((List.range (len / ((raTy w).bits / 8))).foldl (fun s e => s.recvElem (raTy w) dst.1 src.1 len (raN w) e) s).engineDone j.obj len 0
  | _ => s

/-- RECVADD_COMBINE: a RECVADD of the core in focus that may claim its counter does so; those that have claimed combine in order (R216,
R267). -/
def execRecvaddCombine (s : State) : Out :=
  let s := match s.core.port.nq.find? s.recvClaims with
    | some j => s.recvClaim j
    | none => s
  .next (match s.core.port.nq.find? fun j => match j.op with | .recvadd _ _ _ d => d | _ => false with
    | some j => s.recvCombine j
    | none => s)

/-! ### Tile-table entries (R268) -/

def teSrc (w : Nat) : Nat := bits w 0 64
def teDst (w : Nat) : Nat := bits w 64 64
def teBo (w : Nat) : Nat := bits w 128 64
def teLen (w : Nat) : Nat := bits w 192 24
def teOp (w : Nat) : Nat := bits w 216 2
def teTy (w : Nat) : Ty := match bits w 218 2 with | 0 => .f32 | 1 => .f64 | 2 => .bf16 | _ => .i32
def teNp (w : Nat) : Nat := bits w 220 3
def tePeer (w p : Nat) : Nat := bits w (256 + 64 * p) 64
def peerSelf (x : Nat) : Bool := x.testBit 0
def peerDie (x : Nat) : Bool := x.testBit 1
def peerRemote (x : Nat) : Bool := x.testBit 2
def peerPkg (x : Nat) : Nat := bits x 3 13

/-- Position of this die in the list. -/
def teSelf (w : Nat) : Nat := ((List.range (teNp w)).find? fun p => peerSelf (tePeer w p)).getD 0

/-- Positions of the other peers. -/
def teOthers (w : Nat) : List Nat := (List.range (teNp w)).filter fun p => !peerSelf (tePeer w p)

/-- Slots for one position, and for an entry (R271). -/
def teParts (w : Nat) : Nat := (teLen w + 4095) / 4096
def teSlots (w : Nat) : Nat := if teNp w = 0 then 0 else teParts w * (if teOp w = 0 then teNp w - 1 else teNp w)

/-- The checks of TTSET on an image that do not depend on the package (R274). Source, destination and length count 64 bytes. -/
def badImage (w : Nat) : Bool :=
  let np := teNp w
  bits w 236 20 != 0 || decide (5 ≤ np) || teLen w % 64 != 0 || teSrc w % 64 != 0 || teDst w % 64 != 0 || teBo w % 16 != 0 ||
  ((List.range 4).any fun p => if p < np then bits (tePeer w p) 16 48 != 0 || (peerSelf (tePeer w p) && tePeer w p != 1) else tePeer w p != 0) ||
  (np != 0 && (teLen w == 0 || ((List.range np).filter fun p => peerSelf (tePeer w p)).length != 1))

def State.entryAt (s : State) (die : Bool) (idx : Nat) : Option TileEntry := s.tileTab.find? fun e => e.die == die && e.idx == idx

/-- Change one entry. -/
def State.modEntry (s : State) (die : Bool) (idx : Nat) (f : TileEntry → TileEntry) : State :=
  { s with tileTab := s.tileTab.map fun e => if e.die == die && e.idx == idx then f e else e }

/-- Run in the context that wrote an entry. -/
def State.inEntry (s : State) (e : TileEntry) (f : State → State) : State :=
  if (s.coreAt e.core).isSome then s.on e.core f else f s

/-- The key of an entry's barrier object: none when it lies in no window that holds objects (R239). -/
def State.entryObj (s : State) (e : TileEntry) : Option Nat :=
  match s.window s.core (teBo e.image.toNat) 16 with
  | some (.global, _) | some (.lane, _) | none => none
  | some (w, o) => some (s.keyOf s.core w o)

/-- An entry with a fault becomes idle: its pending bit is cleared and its slots are freed of contents (R273). -/
def TileEntry.stop (e : TileEntry) : TileEntry := { e with firing := none, pending := none, staged := [], written := [] }

/-- Record a fault on an entry's object, once no lock hold keeps its bank (R217); `stop` makes the entry idle. -/
def State.entryFault (s : State) (die : Bool) (idx cause : Nat) (stop : Bool) (xlate : Option Word := none) : State :=
  match s.entryAt die idx with
  | none => s
  | some e =>
    let s := s.inEntry e fun s => (match s.entryObj e with
      | some k =>
        if s.bankLocked k then s.modEntry die idx fun e => { e with owed := e.owed ++ [(cause, xlate)] } else s.engineFault k cause xlate
      | none => s)
    if stop then s.modEntry die idx TileEntry.stop else s

/-- The faults that a lock hold has kept back are recorded. -/
def State.payOwed (s : State) (e : TileEntry) : State :=
  s.inEntry e fun s => match s.entryObj e with
    | some k => if s.bankLocked k then s
      else e.owed.foldl (fun s f => s.engineFault k f.1 f.2) (s.modEntry e.die e.idx fun e => { e with owed := [] })
    | none => s

/-- A firing that a set of the ready flag begins (R269, R270). -/
def State.firingOf (s : State) (clock : Nat) (j : Issued) : Firing := ⟨clock, false, false, s.core.name, j⟩

/-- Set the ready flag of an entry (R269): an idle entry fires, a firing one keeps the set pending, a third set is dropped with ENGFAULT. An
invalid entry takes no flag. -/
def State.setReady (s : State) (die : Bool) (idx : Nat) (f : Firing) : State :=
  match s.entryAt die idx with
  | none => s
  | some e =>
    if e.firing.isNone then s.modEntry die idx fun e => { e with firing := some f }
    else if e.pending.isNone then s.modEntry die idx fun e => { e with pending := some f }
    else s.entryFault die idx 9 false

/-- A tile index that the context may use (R268). -/
def State.tileIndex (s : State) (x : Word) (f : Nat → Out) : Out :=
  let i := x.toNat
  if 4095 < i ∨ i < s.core.exc.ttlo.toNat ∨ s.core.exc.tthi.toNat < i then s.illop else f i

/-! ### TTSET, TREADY, TWAIT (R274) -/

def execTtset (o a b : Src) (s : State) : Out :=
  s.checked (s.checkObj (s.gS o).toNat) fun x =>
    s.tileIndex (s.gS b) fun i =>
      let addr := (s.gS a).toNat
      if addr % 64 ≠ 0 then s.trap 6 (.ofNat 64 addr)
      else match s.window s.core addr 64 with
        | some (.spad, _) => s.commQueue x.2 (.ttset addr i) fun s => .next s
        | _ => s.illop

/-- TREADY waits for the core's copies and accesses, and sets the flag with the core's clock. -/
def execTready (a : Src) (s : State) : Out :=
  s.tileIndex (s.gS a) fun i =>
    if s.core.prov then .next (s.wait .provisional)
    else if s.fencePending .package true then .next (s.wait .tile)
    else .next (s.setReady s.core.die i (s.firingOf s.core.port.pts s.issuedNow))

def execTwait (a : Src) (s : State) : Out :=
  s.tileIndex (s.gS a) fun i =>
    match s.entryAt s.core.die i with
    | none => .next s
    | some e =>
      if e.pending.isSome || (match e.firing with | some f => !f.sent | none => false) then .next (s.wait .tile) else .next s

/-- Staging slots in the locked ways: numbers from way 23 downward (R271, R367). -/
def State.freeSlots (s : State) (but : Bool × Nat) : List Nat :=
  let taken := (s.tileTab.map fun e => if e.die == but.1 && e.idx == but.2 then [] else e.slots).flatten
  (List.range (2048 * s.ways)).filter fun i => !taken.contains i

/-- The oldest TTSET of the core in focus, once its entry is idle and nothing is staged for it. -/
def State.ttsetReady (s : State) : Option (CommJob × Nat × Nat) :=
  s.core.port.nq.findSome? fun j =>
    match j.op with
    | .ttset a i =>
      if s.core.engineFree j.seq j.issue &&
          !(s.core.port.nq.any fun e => decide (e.seq < j.seq) && (match e.op with | .ttset _ k => k == i | _ => false)) &&
          (match s.entryAt s.core.die i with
           | none => true
           | some e => e.firing.isNone && e.pending.isNone && e.staged.isEmpty && e.owed.isEmpty)
      then some (j, a, i) else none
    | _ => none

/-- TTSET_APPLY: the image is read and checked, slots are reserved, the entry is written, and 64 is added to O (R274). -/
def execTtsetApply (s : State) : Out :=
  match s.ttsetReady with
  | none => .next s
  | some (j, a, i) =>
    let run := s.spadRun a 64
    if s.heldHost [(j.obj, 16)] then .next s.heldEngine
    else
    let (s, go) := s.engineGate 4 j.toIssued [run, (j.obj, 16)]
    if !go then .next s
    else
    let s := s.modPort fun p => { p with nq := p.nq.filter fun x => x.seq != j.seq }
    if s.badRuns [run] then .next (s.engineFault j.obj 0xA)
    else
      let w := bytesNat (s.readRuns [run])
      let die := s.core.die
      let free := s.freeSlots (die, i)
      let unmapped := (teOthers w).any fun p =>
        peerRemote (tePeer w p) && !s.knowsPeer (s.partOf s.core.id) (peerPkg (tePeer w p))
      if badImage w || unmapped || decide (free.length < teSlots w) then .next (s.engineFault j.obj 9)
      else
        let rest := s.tileTab.filter fun e => !(e.die == die && e.idx == i)
        let e : TileEntry := ⟨die, i, s.core.name, j.toIssued, .ofNat 512 w, none, none, [], [], free.take (teSlots w), []⟩
        .next ({ s with tileTab := if teNp w = 0 then rest else rest ++ [e] }.engineDone j.obj 64 0)

/-! ### Firings (R270 to R273) -/

/-- Destinations of an entry: positions and addresses of what it writes. -/
def teTargets (w : Nat) : List (Nat × Nat) :=
  if teOp w = 0 then (teOthers w).map fun p => (p, genAddr (teDst w) ((p * teLen w : Nat) : Int)) else [(0, teDst w)]

/-- The parts of a contribution. -/
def teChunks (w : Nat) (data : List Byte) : List TileChunk :=
  (List.range (teParts w)).map fun i =>
    ⟨teSelf w, teLen w, .ofNat 2 (teOp w), .ofNat 2 (bits w 218 2), i, (data.drop (4096 * i)).take 4096, false, none⟩

/-- Send a chunk to every other peer of an entry. -/
def State.sendTile (s : State) (e : TileEntry) (c : TileChunk) : State :=
  (teOthers e.image.toNat).foldl (fun s p =>
    let x := tePeer e.image.toNat p
    if peerRemote x then
      s.netSend (s.partOf s.core.id) (peerPkg x) (tileFlow e.idx) (.tile (peerDie x) e.idx c)
    else { s with agenda := s.agenda ++ [(s.core.name, .tileChunkStage (peerDie x) e.idx c)] }) s

/-- What a firing will read, after its checks (R254, R273). -/
def State.firingRuns (s : State) (w : Nat) : ERes (List Run) :=
  (s.extentRuns (teSrc w) (teLen w) false).bind fun rs =>
    (ERes.all (fun (t : Nat × Nat) => s.extentRuns t.2 (teLen w) true) (teTargets w)).bind fun _ => .ok rs

/-- The gate of a firing's accesses: its setter's earlier accesses are performed, and its cycles are those of the setter's issue (R216, R226,
R270); the entry's core gives the bank cycles. -/
def State.firingGate (s : State) (j : Issued) (setter : Nat) (rs : List Run) : State × Bool :=
  let o := s.focus setter
  if o.engineOpen j rs && (o.core.name != setter || o.core.engineFree j.seq j.issue) then
    let (s, go) := s.engineTurn 4 j.seq rs
    (if go then s.countRuns rs else s, go)
  else (s, false)

/-- SRC is read, the own contribution is staged, and every other peer is sent it (R270). -/
def State.fire (s : State) (e : TileEntry) (f : Firing) (rs : List Run) : State :=
  let w := e.image.toNat
  let (s, c) := s.readClock f.clock rs
  let cs := teChunks w (s.readRuns rs)
  let s := s.modEntry e.die e.idx fun e => { e with
    firing := some { f with clock := c, fired := true, sent := false }
    staged := if teOp w = 0 then e.staged else e.staged ++ cs }
  cs.foldl (fun s c => s.sendTile e c) s

/-- TILE_FIRING_START: SRC is read once, with bank cycles of the communication engine (R216, R217, R270). -/
def State.startFiring (s : State) (e : TileEntry) (f : Firing) : State :=
  s.under e.job fun s =>
    match s.firingRuns e.image.toNat with
    | .fault x => s.entryFault e.die e.idx 9 true x
    | .bad => s.entryFault e.die e.idx 0xA true
    | .ok rs =>
      let (s, go) := s.firingGate f.job f.setter rs
      if !go then s
      else if s.badRuns rs then s.entryFault e.die e.idx 0xA true
      else s.fire e f rs

def execTileFiringStart (die : Bool) (idx : Nat) (s : State) : Out :=
  match s.entryAt die idx with
  | none => .next s
  | some e =>
    match e.firing with
    | none => .next s
    | some f => if f.fired then .next s else .next (s.inEntry e fun s => s.startFiring e f)

/-- Write bytes at a generic address as the engine of an entry, whose object it then adds to: the state, and the largest timestamp once they
are written. -/
def State.entryWrite (s : State) (e : TileEntry) (obj clock a : Nat) (data : List Byte) : State × Option Nat :=
  match (s.asIssued e.job).extentRuns a data.length true with
  | .ok rs =>
    let all := (obj, 16) :: rs
    if s.heldHost all then (s.heldEngine, none)
    else
      let (s, go) := match e.firing with
        | some f => s.firingGate f.job f.setter all
        | none => s.engineGate 4 e.job all
      if !go then (s, none)
      else if (s.stuckAt [rs]).isSome then ((s.writeRuns clock rs data).1.entryFault e.die e.idx 0xA true, none)
      else let (s, _, t) := s.writeRuns clock rs data; (s, some t)
  | .bad => (s.entryFault e.die e.idx 0xA true, none)
  | .fault x => (s.entryFault e.die e.idx 9 true x, none)

/-- The first staged chunks of a position, one of each part, once all are there. -/
def TileEntry.parts (e : TileEntry) (p : Nat) : Option (List TileChunk) :=
  let parts := (List.range (teParts e.image.toNat)).map fun i => e.staged.find? fun c => c.pos == p && c.part == i
  if parts.all Option.isSome then some (parts.filterMap id) else none

/-- Their bytes; a check value that does not match is the MCHECK of R273. -/
def TileEntry.contribution (e : TileEntry) (p : Nat) : Option (ERes (List Byte)) :=
  (e.parts p).map fun cs => if cs.any TileChunk.bad then .bad else .ok (cs.map TileChunk.data).flatten

/-- Drop the first staged chunk of every part of a position: its slots are free again. -/
def TileEntry.consume (e : TileEntry) (p : Nat) : TileEntry :=
  { e with staged := (List.range (teParts e.image.toNat)).foldl (fun st i =>
      match st.find? fun c => c.pos == p && c.part == i with
      | some c => st.erase c
      | none => st) e.staged }

/-- A copy entry writes each contribution that is complete, once in a firing (R272). -/
def State.writeCopies (s : State) (e : TileEntry) : State :=
  (teTargets e.image.toNat).foldl (fun s t =>
    match s.entryAt e.die e.idx with
    | none => s
    | some e =>
      if e.written.contains t.1 then s
      else match e.contribution t.1, s.entryObj e with
        | some (.ok data), some k =>
          (match s.entryWrite e k ((e.firing.map Firing.clock).getD 0) t.2 data with
           | (s, none) => s
           | (s, some ts) =>
             (s.modEntry e.die e.idx fun e => { e.consume t.1 with written := e.written ++ [t.1] }).engineDone k (teLen e.image.toNat) ts)
        | some _, _ => s.entryFault e.die e.idx 0xA true
        | none, _ => s) s

/-- Whether a chunk agrees with the entry that receives it (R273). -/
def TileEntry.accepts (e : TileEntry) (c : TileChunk) : Bool :=
  let w := e.image.toNat
  (teOthers w).contains c.pos && c.len == teLen w && c.op.toNat == teOp w && c.ty.toNat == bits w 218 2 &&
  decide (c.part < teParts w) && c.data.length == min 4096 (teLen w - 4096 * c.part)

/-- The entry of the other die that sent a refused chunk, if it came from this package. -/
def State.tileSender (s : State) (die : Bool) (idx : Nat) (c : TileChunk) : Bool :=
  match s.entryAt (!die) idx with
  | none => false
  | some e =>
    let w := e.image.toNat
    e.firing.isSome && teSelf w == c.pos && (teOthers w).any fun p => !peerRemote (tePeer w p) && peerDie (tePeer w p) == die

/-- The refusal of a chunk goes back to the package that the entry names at the chunk's position (R273; a chunk for an entry that names
nobody there can be answered only by its transport, DEDUCED, log entry 125). -/
def State.refuseRemote (s : State) (e : TileEntry) (c : TileChunk) : State :=
  let x := tePeer e.image.toNat c.pos
  if decide (c.pos < teNp e.image.toNat) && peerRemote x then
    s.netSend (s.partOf (e.core % 65536)) (peerPkg x) (tileFlow e.idx) (.refusal (peerDie x) e.idx)
  else s

/-- TILE_CHUNK_STAGE: a chunk arrives for an entry. One that agrees is staged; one for the next firing waits with its sender, as a second
chunk of its place. Another is refused (R271, R273). -/
def execTileChunkStage (die : Bool) (idx : Nat) (c : TileChunk) (s : State) : Out :=
  let refuse := fun (s : State) =>
    let out := match s.entryAt die idx with | some e => s.refuseRemote e c | none => s
    let s := out.entryFault die idx 9 true
    let src := match c.port with | some p => 4 * 4096 + p.val | none => 3 * 4096
    let s := s.record src 3 9 (noAddr idx) (.ofNat 64 c.pos)
    if s.tileSender die idx c then s.entryFault (!die) idx 9 true else s
  match s.entryAt die idx with
  | none => .next (refuse s)
  | some e =>
    if !e.accepts c then .next (refuse s)
    else
      let s := s.modEntry die idx fun e => { e with staged := e.staged ++ [c] }
      .next (if teOp e.image.toNat = 0 then s.inEntry e fun s => s.writeCopies e else s)

/-- Whether chunks of an entry's firing are still on their way inside the package, or wait for a slot of the other die (R270, R271). -/
def State.tileOnWay (s : State) (e : TileEntry) : Bool :=
  let w := e.image.toNat
  (s.agenda.any fun a => match a.2 with
    | .tileChunkStage d i c => d != e.die && i == e.idx && c.pos == teSelf w
    | _ => false) ||
  (match s.entryAt (!e.die) e.idx with
   | none => false
   | some r => (List.range (teParts w)).any fun i =>
      let n := (r.staged.filter fun c => c.pos == teSelf w && c.part == i).length
      decide (1 < n + (if r.written.contains (teSelf w) then 1 else 0)))

/-- SEND_PHASE_END: every peer has acknowledged receipt into staging (R270). Another package's refusal of a chunk ends it with ENGFAULT on the
entry's object (R273). -/
def execSendPhaseEnd (die : Bool) (answer : PeerAnswer) (s : State) : Out :=
  match answer with
  | .received idx =>
    match s.entryAt die idx with
    | none => .next s
    | some e =>
      match e.firing with
      | none => .next s
      | some f =>
        if !f.fired || s.tileOnWay e then .next s
        else .next (s.modEntry die idx fun e => { e with firing := some { f with sent := true } })
  | .refused idx =>
    match s.entryAt die idx with
    | none => .next s
    | some e =>
      match e.firing with
      | none => .next s
      | some f =>
        let remote := (teOthers e.image.toNat).any fun p => peerRemote (tePeer e.image.toNat p)
        .next (if f.fired && !f.sent && remote then s.entryFault die idx 9 true else s)

/-- What an entry combines with (R272): sums as VADD, the sum of .i32 modulo 2^32, and extremes as VMAX and VMIN. -/
def teFun (w : Nat) (x y : Nat) : Nat :=
  (match teOp w with
   | 1 => laneAdd (teTy w) x y
   | 2 => laneMax (teTy w) x y
   | _ => laneMin (teTy w) x y).1

/-- After a firing: a pending one starts, and then the flag of NEXT is set (R272). -/
def State.afterFiring (s : State) (e : TileEntry) (f : Firing) (clock : Nat) : State :=
  let s := s.modEntry e.die e.idx fun e => { e with firing := e.pending, pending := none, written := [] }
  if e.image.toNat.testBit 223 then s.setReady e.die (bits e.image.toNat 224 12) (s.firingOf clock f.job) else s

/-- A copy firing completes once every contribution is written, and then writes those of the next firing that are already there (R272). -/
def State.completeCopy (s : State) (e : TileEntry) (f : Firing) : State :=
  let s := s.writeCopies e
  match s.entryAt e.die e.idx with
  | none => s
  | some e' =>
    if (teOthers e.image.toNat).all fun p => e'.written.contains p then (s.afterFiring e f f.clock).writeCopies e else s

/-- A sum, maximum or minimum combines in list order once every slot is full (R272). -/
def State.completeCombine (s : State) (e : TileEntry) (f : Firing) : State :=
  let w := e.image.toNat
  let cs := (List.range (teNp w)).map e.contribution
  if cs.any Option.isNone then s
  else
    let sz := (teTy w).bits / 8
    match ERes.all id (cs.filterMap id), s.entryObj e with
    | .ok (x :: r), some k =>
      (match s.entryWrite e k f.clock (teDst w) (elemBytes sz (combine (teFun w) (elems sz x) (r.map (elems sz)))) with
       | (s, none) => s
       | (s, some ts) =>
         let s := s.modEntry e.die e.idx fun e => (List.range (teNp w)).foldl TileEntry.consume e
         (s.engineDone k (teLen w) ts).afterFiring e f (max f.clock ts))
    | .bad, _ => s.entryFault e.die e.idx 0xA true
    | _, _ => s

/-- What an entry does next for what has arrived: a copy entry writes each contribution as soon as it can, and a firing whose send phase has
ended completes (R272). -/
def State.runEntry (s : State) (e : TileEntry) : State :=
  let copy := teOp e.image.toNat = 0
  match e.firing with
  | some f =>
    if !f.sent then (if copy then s.writeCopies e else s)
    else if copy then s.completeCopy e f else s.completeCombine e f
  | none => if copy then s.writeCopies e else s

/-- TILE_FIRING_COMPLETE (R272), after the faults that a lock hold has kept back. -/
def execTileFiringComplete (die : Bool) (idx : Nat) (s : State) : Out :=
  match s.entryAt die idx with
  | none => .next s
  | some e => .next (if !e.owed.isEmpty then s.payOwed e else s.inEntry e fun s => s.runEntry e)

/-- TRANSPORT_TIMEOUT: what UET could not deliver is abandoned (R265, R273, R276). -/
def execTransportTimeout (what : NetOp) (s : State) : Out :=
  match what with
  | .send core =>
    .next (s.on core fun s =>
      match s.core.port.nq.findSome? fun j => match j.op with | .sendRemote pkg flow _ _ => some (j, pkg, flow) | _ => none with
      | none => s
      | some (j, pkg, flow) =>
        let port := (s.portFor (s.partOf s.core.id) pkg flow).getD 0
        let s := s.record (4 * 4096 + port) 2 9 (s.codeKey j.obj) 0#64
        (s.modPort fun p => p.dropSend s.core.name j.seq 9).finishSend)
  | .tile die idx pos =>
    match s.entryAt die idx with
    | none => .next s
    | some e =>
      match e.firing with
      | none => .next s
      | some f =>
        let x := tePeer e.image.toNat pos
        if !f.fired || f.sent || !(teOthers e.image.toNat).contains pos || !peerRemote x then .next s
        else
          let port := (s.portFor (s.partOf (e.core % 65536)) (peerPkg x) (tileFlow idx)).getD 0
          .next ((s.record (4 * 4096 + port) 2 9 (noAddr idx) (.ofNat 64 pos)).entryFault die idx 9 true)

end Sys2Proof.Machine
end

