-- ==== Sys2Proof/Machine/Control.lean ====
section
/-! DEFINITION. Headers, target preparation, control registers and ISYNC (03_encoding.md R47, R48, R58; 06_scalar_control.md
R102 to R107; 22_privilege_translation.md R350, R368; 08_matrix.md R142). -/

namespace Sys2Proof.Machine

/-! ### Target buffer and the header transfer (R102 to R104) -/

/-- The eight bundle words from a word of instruction memory, with wrap-around (R102). -/
def Core.eightWords (c : Core) (target : BitVec 12) : Cells (Option BWord) :=
  (List.range 8).foldl (fun m i =>
    cput none m ((target.toNat + i) % 4096) (some (cget 0#128 c.imem ((target.toNat + i) % 4096)))) []

/-- Begin the fill of an entry: ready four physical cycles later (R102). -/
def Core.fillTb (c : Core) (tb : Small) (target : BitVec 12) (lk : Bool) : Core :=
  { c with flow := { c.flow with tb := c.flow.tb.set tb ⟨.filling, target, lk, c.clock + 4, c.eightWords target⟩ } }

/-- A word of the monitor, which supervisor firmware may not reach (R382). -/
def Core.monitorWord (c : Core) (w : Nat) : Bool := c.guarded && decide (w < 2048)

/-- WINSPAN of a monitor word; `TRAPINFO` holds the word (DESIGN CHOICE, log entry 155). -/
def State.prepare (s : State) (tb : Small) (lk : Bool) (target : Int) : Out :=
  if target < 0 ∨ target > 4095 then s.illop
  else if s.core.monitorWord target.toNat then s.trap 5 (.ofNat 64 target.toNat)
  else .next (s.modCore fun c => c.fillTb tb (.ofInt 12 target) lk)

def execPtb (tb : Small) (lk : Bool) (off : BitVec 22) (s : State) : Out :=
  s.prepare tb lk (s.core.flow.pc.toNat + off.toInt)

def execPtbReg (tb : Small) (lk : Bool) (a : Src) (s : State) : Out := s.prepare tb lk (s.gS a).toNat

/-- A filling entry becomes ready once its four cycles have passed (R102). -/
def execTbReady (tb : Small) (s : State) : Out :=
  .next (s.modFlow fun f =>
    let e := f.tb.get tb
    if e.st = .filling ∧ e.readyAt ≤ s.core.clock then { f with tb := f.tb.set tb { e with st := .ready } } else f)

/-- Whether the condition of a transfer holds, and whether it advances the cursor (R45, R103). -/
def State.xcTaken (s : State) (xc : Xc) : Bool × Bool :=
  match xc with
  | .never => (false, false)
  | .always => (true, false)
  | .pred n => (s.gP n.succ, false)
  | .notPred n => (!s.gP n.succ, false)
  | .cv => (s.core.flow.cur.getLsbD s.core.flow.cursor.toNat, true)
  | .notCv => (!s.core.flow.cur.getLsbD s.core.flow.cursor.toNat, true)

/-- The header transfer (R103, R104). The bundle goes on at the entry's target; the words the entry holds are fetched from it.
A linking entry posts the return address for g15 at issue + 1. The cursor advances at
the commit. An entry still filling freezes the domain from the cycle after the commit up to the cycle in which it becomes ready. -/
def execHeaderTransfer (l : Bool) (_stall : BitVec 4) (xc : Xc) (tb : Small) (_ext : BitVec 14) (s : State) : Out :=
  let (take, adv) := s.xcTaken xc
  let e := s.core.flow.tb.get tb
  let ret : BitVec 12 := s.core.flow.pc + (if l then 2#12 else 1#12)
  if s.core.urg && adv then s.illop
  else if take && e.st == .empty then s.illop
  else
    let s := s.modFlow fun f => { f with
      advance := adv
      nextPc := if take then e.target else ret
      prefetch := if take then e.words else f.prefetch }
    let s := if take && e.lk then s.post 1 (.link (.ofNat 64 ret.toNat)) else s
    .next (if take then s.modCore fun c => { c with lost := max c.lost (e.readyAt - c.clock) } else s)

/-! ### Lock headers (R47, R48) -/

/-- Whether another context of the core holds one of the banks: a header of an urgent context waits for the hold of the core that it
pre-empted (DESIGN CHOICE, log entry 146). -/
def State.banksHeld (s : State) (banks : BitVec 16) : Bool :=
  s.others.any fun c => c.id == s.core.id && (match c.flow.hold with | some h => (h.banks &&& banks) != 0#16 | none => false)

/-- A lock header opens a span of the lock-headed bundle and the next CNT + 1 bundles; a header inside a span is LOCKVIOL.
Banks of an earlier hold that has not ended stay held. -/
def execLockHeader (_l : Bool) (_stall : BitVec 4) (cnt : BitVec 3) (banks : BitVec 16) (s : State) : Out :=
  if s.core.flow.lock.isSome then s.lockviol
  else if s.banksHeld banks then .next (s.wait .lockBanks)
  else
    let hold : Hold := match s.core.flow.hold with
      | some h => ⟨banks ||| h.banks, s.core.unf :: h.issues⟩
      | none => ⟨banks, [s.core.unf]⟩
    .next (s.modFlow fun f => { f with lock := some ⟨cnt.toNat + 2, banks⟩, hold := some hold })

/-- Chunks that queued behind a hold that is over take the next bank cycles, in order (R217); those of another package wait as engine accesses
do (R265). -/
def State.releaseHeld (s : State) : State :=
  let now := fun (h : Chunk) => h.sender.isSome && !s.bankLocked h.key
  (s.held.filter now).foldl State.placeChunk { s with held := s.held.filter fun h => !now h }

/-- The hold ends once the span is over and its last access has been performed (R48). Arrivals that queued behind a hold that a trap
ended go on too. -/
def execLockHoldEnd (s : State) : Out :=
  .next ((if s.core.holdOver then s.modFlow fun f => { f with hold := none } else s).releaseHeld)

/-- A split bundle takes one frozen cycle of its domain, together with any other cause of a freeze (R38, R58). -/
def execSplitCycle (s : State) : Out := .next (s.modCore fun c => { c with lost := max c.lost 1 })

/-! ### Control registers (R41, R106, R350, R368) -/

def flag (b : Bool) (i : Nat) : Nat := if b then 2 ^ i else 0

/-- What CTLR reads (R41, R368). -/
def State.ctlValue (s : State) (idx : Nat) : Nat :=
  let c := s.core
  let t := c.ctl
  let e := c.exc
  match idx with
  | 0x000 => flag t.chk 0 + flag c.urg 1
  | 0x001 => flag t.solo 0 + flag t.own 1
  | 0x002 => (c.clock - t.releasedAt) % 2 ^ 64
  | 0x003 => c.id % 2 ^ 11
  | 0x004 => t.vcore.toNat
  | 0x005 => t.gang.toNat
  | 0x006 => t.inst.toNat
  | 0x007 => t.extent.toNat
  | 0x008 => c.dq.length
  | 0x009 => t.slotmap.toNat
  | 0x00A => c.flow.cur.toNat + c.flow.cursor.toNat * 2 ^ 32
  | 0x00B => flag t.spemode 0
  | 0x00C => t.speqs.toNat
  | 0x00D => t.adjoff.toNat
  | 0x00E => t.flags.toNat
  | 0x00F => flag t.latch 0 + flag (!c.port.rollback.isEmpty) 1
  | 0x010 => t.lrfirst.toNat
  | 0x011 => t.lrlast.toNat
  | 0x100 => e.trapvec.toNat
  | 0x101 => e.trappc.toNat
  | 0x102 => e.cause.toNat + e.plvl.toNat * 2 ^ 8
  | 0x103 => e.info.toNat
  | 0x104 => e.asid.toNat + e.ttlo.toNat * 2 ^ 16 + e.tthi.toNat * 2 ^ 28
  | 0x105 => e.ptroot.toNat * 2 ^ 12
  | 0x106 => e.level.toNat
  | 0x107 => flag e.allow 0 + flag e.pend 1 + flag e.active 2
  | 0x200 => s.partmap.toNat
  | 0x201 => s.depthtab.toNat
  | 0x202 => s.fwslot.toNat
  | 0x203 => s.keyctl.toNat
  | _ => 0

/-- Bits that are RZ in a register that CTLW can write (R41, R368); a register of the program level that is RO has none. -/
def ctlRz (idx : Nat) : Nat :=
  let above := fun n => (2 ^ 64 - 1) - (2 ^ n - 1)
  match idx with
  | 0x000 => above 2
  | 0x001 => above 2
  | 0x00A => above 37
  | 0x00B => above 1
  | 0x00C => above 12
  | 0x00D => above 12
  | 0x00E => above 8
  | 0x00F => above 2
  | 0x010 => above 8
  | 0x011 => above 8
  | 0x100 => above 12
  | 0x101 => above 12
  | 0x102 => above 10
  | 0x104 => above 40
  | 0x105 => 0xFF00000000000FFF
  | 0x106 => above 2
  | 0x107 => above 3
  | 0x200 => 0xFF0000FFFFFF00E0
  | 0x202 => 0xFFFFFFFE
  | 0x203 => 0xFFFFFFFFFFFF00FC
  | _ => 0

/-- Registers that an urgent context may not name (R370). -/
def urgentCtl (idx : Nat) : Bool := [0x001, 0x008, 0x00A, 0x00B, 0x00C, 0x00D, 0x010, 0x011].contains idx

/-- Whether an index names a register, for the level check: `none` when the register is ILLOP at any level that may reach it
(R41, R350). -/
def ctlLevel (idx : Nat) (write : Bool) : Option Nat :=
  if idx ≤ 0x011 then some 0
  else if idx ≤ 0x0FF then none
  else if idx ≤ 0x107 then some (if write && (idx == 0x104 || idx == 0x105) then 2 else 1)
  else if idx ≤ 0x1FF then none
  else if idx ≤ 0x203 then some 2
  else none

/-- The check of a control-register index (R41, R350): an index below its least level is PRIV, an index that names nothing
ILLOP; an unassigned privileged index is PRIV below its range's level. -/
def State.ctlCheck (s : State) (idx : Nat) (write : Bool) (f : Out) : Out :=
  match ctlLevel idx write with
  | some l => if s.level < l then s.privTrap idx else if s.core.urg && urgentCtl idx then s.illop else f
  | none =>
    let least := if idx ≤ 0x0FF ∨ 0x300 ≤ idx then 0 else if idx ≤ 0x1FF then 1 else 2
    if s.level < least then s.privTrap idx else s.illop

/-- CTLR samples the register at its read step (R106). -/
def execCtlr (d : Dst) (idx : BitVec 12) (s : State) : Out :=
  s.ctlCheck idx.toNat false (s.scalar 1 d (.ofNat 64 (s.ctlValue idx.toNat)))

/-- The checks of CTLW that its value makes (R106): a one in an RZ field is ILLOP. -/
def State.ctlWrite (s : State) (idx : Nat) (v : Word) (f : Out) : Out :=
  s.ctlCheck idx true (if v.toNat &&& ctlRz idx ≠ 0 then s.illop else f)

/-- CTLW of a register without behaviour of its own: written at issue + 1 (R106). RO fields are ignored by the write. -/
def execCtlw (idx : BitVec 12) (a : Src) (s : State) : Out :=
  s.ctlWrite idx.toNat (s.gS a) (.next (s.post 1 (.ctl idx (s.gS a))))

/-- CTLW of `CVCUR` (R105). -/
def execCtlwCvcur (a : Src) (s : State) : Out := s.ctlWrite 0x00A (s.gS a) (.next (s.post 1 (.ctl 0x00A#12 (s.gS a))))

/-- CTLW of `EVT`: a one in LATCH clears it; `RBEV` follows the rollback list (R287, R332). -/
def execCtlwEvt (a : Src) (s : State) : Out := s.ctlWrite 0x00F (s.gS a) (.next (s.post 1 (.ctl 0x00F#12 (s.gS a))))

/-- Array work of a core's earlier bundles. -/
def Core.arrayBusy (c : Core) : Bool :=
  c.mtx.arrQ.any fun j => match j with | .mgo n => n.issue != c.unf | .mepi e => e.issue != c.unf

/-- The array work of the pair (R142), without what the bundle in hand issues (R9). -/
def State.pairBusy (s : State) : Bool :=
  s.core.arrayBusy || (match s.coreAt (s.core.id ^^^ 1) with | some c => c.arrayBusy | none => false)

/-- Whether the partner of the pair belongs to another gang (R142); a partner without an instance belongs to none. -/
def State.partnerForeign (s : State) : Bool :=
  match s.coreAt (s.core.id ^^^ 1) with
  | none => false
  | some c => !c.fw && c.launch.isSome && !s.gang.contains c.name

/-- CTLW of `ARRMODE` (R38, R142): it waits for the array work of the pair, also where it changes nothing (DEDUCED, log entry 47), and its
writer becomes the owner. -/
def execCtlwArrmode (a : Src) (s : State) : Out :=
  let v := s.gS a
  let solo := v.toNat.testBit 0
  s.ctlWrite 0x001 v
    (if solo != s.core.ctl.solo && s.partnerForeign then s.illop
     else if !solo && s.core.ctl.solo && !s.core.ctl.own then s.illop
     else if s.pairBusy then .next (s.wait .arrayWork)
     else .next (s.post 1 (.solo solo)))

/-- CTLW of `ASID` (R363). -/
def execCtlwAsid (a : Src) (s : State) : Out :=
  let v := (s.gS a).toNat
  let lo := bits v 16 12
  let hi := bits v 28 12
  let p := s.partOf s.core.id
  s.ctlWrite 0x104 (s.gS a)
    (if lo > hi then s.illop
     else if s.split && (bits v 14 2 != p || decide (lo < 1024 * p) || decide (1024 * p + 1023 < hi)) then s.illop
     else .next (s.post 1 (.ctl 0x104#12 (s.gS a))))

/-- CTLW of `PTROOT` (R363). -/
def execCtlwPtroot (a : Src) (s : State) : Out := s.ctlWrite 0x105 (s.gS a) (.next (s.post 1 (.ctl 0x105#12 (s.gS a))))

/-- CTLW of `PARTMAP` (R354, R368): ILLOP while a program core holds a released instance or a queue is resident, with SPLIT
and no partition, or with SPLIT and a window size out of range. -/
def execCtlwPartmap (a : Src) (s : State) : Out :=
  let v := (s.gS a).toNat
  s.ctlWrite 0x200 (s.gS a)
    (if s.cores.any (fun c => c.launch.isSome) || s.queues.any (fun q => q.res) then s.illop
     else if v.testBit 0 && (bits v 1 4 == 0 || decide (bits v 8 8 < 20) || decide (40 < bits v 8 8)) then s.illop
     else .next (s.post 1 (.ctl 0x200#12 (s.gS a))))

/-- CTLW of `KEYCTL`: ignored once LOCK is 1 (R368). -/
def execCtlwKeyctl (a : Src) (s : State) : Out := s.ctlWrite 0x203 (s.gS a) (.next (s.post 1 (.ctl 0x203#12 (s.gS a))))

/-! ### Condition vectors and ISYNC (R105, R107) -/

/-- CVADV completes at issue + 1; it is ILLOP in an urgent context (R105, R370). -/
def execCvadv (s : State) : Out := if s.core.urg then s.illop else .next (s.post 1 .cvadv)

/-- ISYNC discards fetched words and refills every target-buffer entry that is not empty (R107). -/
def execIsync (s : State) : Out :=
  .next (s.modCore fun c => { c with flow := { c.flow with
    prefetch := []
    tb := Vector.ofFn fun i => let e := c.flow.tb.get i
      if e.st = .empty then e else ⟨.filling, e.target, e.lk, c.clock + 4, c.eightWords e.target⟩ } })

end Sys2Proof.Machine
end

