-- ==== Sys2Proof/Machine/Front.lean ====
section
/-! DEFINITION. The command front end: its accesses, queue records and slots (18_launch_queues.md R298 to R304, R434), launch records and
launches (R305 to R308), how an instance ends. -/

namespace Sys2Proof.Machine

/-! ### The front end's accesses (R301, R434) -/

/-- The source of the front end's error records (R402 kind 7). -/
def frontSrc (num : Nat) : Nat := 7 * 4096 + num % 4096

/-- The root of a context's tables: that of its image; the firmware's context has the firmware core's root (DESIGN CHOICE, log entry 12). -/
def State.ctxRoot (s : State) (part : Nat) (asid : BitVec 16) : BitVec 44 :=
  match s.images.find? fun i => i.part == part && i.asid == asid with
  | some i => i.ptroot
  | none => ((s.coreAt 0).map fun c => c.exc.ptroot).getD 0#44

/-- The front end as an observer of a context: addresses of context 0 without a root are physical (DESIGN CHOICE, log entry 12). -/
def State.frontCore (s : State) (part : Nat) (asid : BitVec 16) : Core :=
  let root := s.ctxRoot part asid
  { Core.reset (192 * part) with
    clock := s.core.clock
    exc := { Exc.reset with level := if asid = 0#16 ∧ root = 0#44 then 2#2 else 1#2, asid := asid, ptroot := root } }

/-- Act as the front end for a context. -/
def State.asFront {α : Type} (s : State) (part : Nat) (asid : BitVec 16) (f : State → State × α) : State × α :=
  let r := f { s with core := s.frontCore part asid }
  ({ r.1 with core := s.core }, r.2)

/-- The runs of a word or record of the chip scratchpad or the global window; a signal lies in no host-mapped page (R301). -/
def State.frontRuns (s : State) (a n : Nat) (host write : Bool) : ERes (List Run) :=
  match s.window s.core a n with
  | some (w, _) =>
    if w.scheduled then .fault
    else (s.extentRuns a n write).bind fun rs => if !host && rs.any (fun r => isHostKey r.1) then .fault else .ok rs
  | none => .fault

/-- Read as a coherent load: the value and the clock of what was read. -/
def State.frontRead (s : State) (part : Nat) (asid : BitVec 16) (a n : Nat) (host : Bool) : State × ERes (Nat × Nat) :=
  s.asFront part asid fun s =>
    match s.frontRuns a n host false with
    | .ok rs =>
      if s.badRuns rs then (s, .bad)
      else let (s, c) := s.readClock 0 rs; (s, .ok (bytesNat (s.readRuns rs), c))
    | .fault x => (s, .fault x)
    | .bad => (s, .bad)

/-- Write as a .sc store with a clock; whether the address could be written. -/
def State.frontWrite (s : State) (part : Nat) (asid : BitVec 16) (a clock : Nat) (data : List Byte) (host : Bool := false) : State × Bool :=
  s.asFront part asid fun s =>
    match s.frontRuns a data.length host true with
    | .ok rs => ((s.writeRuns clock rs data).1, true)
    | _ => (s, false)

/-! ### Queues (R298, R299, R302, R303) -/

def State.queueAt (s : State) (part num : Nat) : Option Queue := s.queues.find? fun q => q.part == part && q.num == num

/-- STATE as the queue control word codes it (R299). -/
def QState.code : QState → Nat
  | .idle => 0
  | .ready => 1
  | .running => 2
  | .waiting => 3
  | .parked => 4
  | .error => 5

/-- The queue control word (R299). -/
def Queue.qctl (q : Queue) : Nat := q.st.code + flag q.res 3 + q.cause.toNat * 16 + q.pkt * 65536

/-- The front end mirrors its copy of RD, QCTL and WSIG (R298). -/
def State.mirror (s : State) (q : Queue) : State :=
  [(16, q.rd), (32, q.qctl), (40, q.wsig.toNat)].foldl (fun s x =>
    ((s.engineLine 0 (q.recKey + x.1)).1).putBytes (q.recKey + x.1) (natBytes x.2 8)) s

/-- Keep a queue's new state, and mirror it. -/
def State.putQueue (s : State) (q : Queue) : State :=
  State.mirror { s with queues := s.queues.map fun x => if x.part == q.part && x.num == q.num then q else x } q

/-- A queue enters a state: one that is Idle, Parked or in Error holds no slot (R302). -/
def Queue.enter (q : Queue) (st : QState) (now : Nat) : Queue :=
  { q with
    st := st
    res := q.res && (match st with | .idle | .parked | .error => false | _ => true)
    since := if q.st = st then q.since else now
    paused := if q.st = st then q.paused else 0
    raised := if q.st = st then q.raised else 0 }

/-- Effective priority (R303). -/
def Queue.level (q : Queue) : Nat := min 7 (q.prio + q.raised)

/-- Which of two queues is served first (R303). -/
def Queue.first (a b : Queue) : Bool :=
  if a.level != b.level then decide (b.level < a.level)
  else if a.since != b.since then decide (a.since < b.since)
  else decide (a.num < b.num)

/-- Free slots go to the queues that await one, a queue that has left Parked with a launch outstanding among them: 128 queues of the
package hold a slot at once (R302). -/
def State.grant (s : State) : State :=
  let used := (s.queues.filter fun q => q.res).length
  let want := sortBy Queue.first (s.queues.filter fun q => (q.st == .ready || q.st == .running) && !q.res)
  (want.take (128 - used)).foldl (fun s q => s.putQueue { q with res := true }) s

/-- The launches that the packets of a queue have dispatched and that are not complete. -/
def State.outstanding (s : State) (part num : Nat) : List Launch :=
  s.launches.filter fun l => l.part == part && l.qnum == num && l.parent.isNone

/-- The pre-emptions under way, those of saved instances among them (R376, R381). -/
def State.stops (s : State) : List Preempt := s.preempts ++ (s.saved.map Saved.stops).flatten

/-- The time since which the timeouts of a queue are paused: a gang of one of its launches is pre-empted (R376). -/
def State.pausedSince (s : State) (part num : Nat) : Option Nat :=
  firstBy (fun a b => decide (a < b)) (s.stops.filterMap fun p =>
    if s.launches.any fun l => p.slot == some l.slot && l.part == part && l.qnum == num then p.wall else none)

/-- The time by which the timeouts of a queue are judged (R376). -/
def State.timeoutNow (s : State) (part num : Nat) : Nat := (s.pausedSince part num).getD s.wallNow

/-- The timeout of a queue's wait, and of a launch, has run out (R304). -/
def State.waitOver (s : State) (q : Queue) : Bool := decide (q.since + q.paused + msec q.tmo ≤ s.timeoutNow q.part q.num)
def State.launchOver (s : State) (q : Queue) (l : Launch) : Bool := decide (l.since + l.paused + msec q.tmo ≤ s.timeoutNow q.part q.num)

/-- The state of a queue that no condition holds (R302). -/
def State.settle (s : State) (q : Queue) : State :=
  let st := if q.rd < q.wr then QState.ready else if (s.outstanding q.part q.num).isEmpty then .idle else .running
  (s.putQueue (q.enter st s.wallNow)).grant

/-- A packet is done: RD advances (R300). -/
def State.advance (s : State) (q : Queue) : State := s.settle { q with rd := q.rd + 1, wsig := 0#64, st := .running }

/-- What a write makes the front end read again: waited signals, the WR words that it touched, and shape signals (R301, R313). -/
def State.poke (s : State) (key n : Nat) : State :=
  let qs := s.queues.filter fun q => q.wsig != 0#64 || (decide (q.recKey + 24 < key + n) && decide (key < q.recKey + 32))
  let ls := s.launches.filter fun l => l.src == 2 && l.shape.isNone
  { s with agenda := s.agenda ++ (qs.map fun q => (s.core.name, Instr.signalReread (Fin.ofNat 4 q.part) q.num)) ++
      ls.map fun l => (s.core.name, Instr.shapeSignalRead l.slot) }

/-! ### The end of a core's run (R304, R311, R313) -/

/-- A core that issues no more. What a pre-emption shows in it stays. -/
def Core.ended (c : Core) : Core :=
  { c with
    tasks := { Tasks.reset with wait := .exited }
    exc := { c.exc with entering := none, drains := 0, shadow := none }
    flow := { c.flow with lock := none, hold := none, stall := none, skip := 0 }
    port := { c.port with sched := [], taken := [], pend := [], landings := [], chunks := [], events := [], walk := none, walkFault := [], walkBad := [], grants := [],
                          reply := none, mcheck := none }
    trapFrozen := false, stopped := false, resumeAt := none, owed := 0, lost := 0 }

/-- Scheduled accesses in the order of R214. -/
def Sched.before (a b : Sched) : Bool :=
  if a.due != b.due then decide (a.due < b.due) else if a.issue != b.issue then decide (a.issue < b.issue) else decide (a.slot < b.slot)

/-- A core waits no more for a place of the ready list (R325). -/
def State.dropWaiter (s : State) (n : Nat) : State := { s with waiters := s.waiters.filter fun w => w.2 != n }

/-- A core stops for good at a bundle boundary. What it has issued is performed, and its engine operations run to their end over the extent that
they had; `keep` discards their coherent writes (R304, R313). -/
def State.endCore (s : State) (n : Nat) (keep : Bool) : State :=
  s.on n fun s =>
    let crew := s.members s.core
    let s := (sortBy Sched.before s.core.port.sched).foldl State.performSched s
    let s := s.core.port.chunks.foldl State.arriveChunk s
    let s := s.core.port.landings.foldl (fun s l =>
      match l.dst, l.val with
      | .mepi, some v => s.landNext l v
      | _, _ => s) s
    let s := (s.modFlow fun f => { f with hold := none }).releaseHeld
    (s.dropWaiter n).modCore fun c => { c.ended with launch := none, crew := crew, prov := c.prov && keep }

/-- Change a launch. -/
def State.modLaunch (s : State) (slot : Nat) (f : Launch → Launch) : State :=
  { s with launches := s.launches.map fun l => if l.slot == slot then f l else l }

def State.launchAt (s : State) (slot : Nat) : Option Launch := s.launches.find? fun l => l.slot == slot

/-- An instance is trimmed: its cores stop, what it held is discarded, its cores are free (R313). -/
def State.trim (s : State) (slot : Nat) (i : Inst) : State :=
  let s := i.cores.foldl (fun s c => s.endCore c.2.2 true) s
  s.modInst slot i.idx fun i => { i with st := .trimmed, cores := [], buf := [], flags := [], held := [] }

/-! ### Completion (R308) -/

/-- The final extent of a launch. -/
def Launch.ext (l : Launch) : Nat := if l.src = 0 then l.floor else max (l.shape.getD 0) l.floor

/-- The completion word (R308). -/
def Launch.word (l : Launch) : Nat := l.ext % 2 ^ 32 + flag l.low 32 + flag l.tail 33 + flag l.err 34 + 2 ^ 63

/-- The completion word is written, and waiting signals are read again; false when its address could not be written. -/
def State.writeDone (s : State) (l : Launch) : State × Bool :=
  if l.done = 0#64 then (s, true)
  else
    let (s, ok) := s.frontWrite l.part l.asid l.done.toNat l.top (natBytes l.word 8)
    (s.poke 0 0, ok)

/-- The urgent context of a pre-emption has ended: its victims' `ACTIVE` clears (R378). -/
def State.urgentDone (s : State) (slot : Nat) : State :=
  match s.preempts.find? fun p => p.launch == slot && !p.done with
  | none => s
  | some p =>
    let s := p.victims.foldl (fun s n => s.modAt n fun c => { c with exc := { c.exc with active := false } }) s
    { s with preempts := s.preempts.map fun x => if x == p then { x with done := true } else x }

/-- A launch ends: it leaves its slot, and what is saved of it is dropped. -/
def State.dropLaunch (s : State) (slot : Nat) : State :=
  { s with
    launches := s.launches.filter fun l => l.slot != slot
    saved := s.saved.filter fun v => !v.cores.any fun c => (c.launch.map Prod.fst) == some slot
    preempts := s.preempts.map fun p => if p.slot = some slot then { p with slot := none } else p }

/-- A launch is ended by the Error of its queue (R304): its cores stop, its provisional instances are squashed, its completion word
shows ERR. -/
def State.endLaunch (s : State) (l : Launch) : State :=
  let s := l.insts.foldl (fun s i =>
    if i.provisional then s.trim l.slot i else i.cores.foldl (fun s c => s.endCore c.2.2 false) s) s
  ((s.writeDone { l with err := true, fin := true }).1.urgentDone l.slot).dropLaunch l.slot

/-- A queue enters Error (R299, R304): a record of class 5 is kept, and its launches end. -/
def State.queueError (s : State) (part num cause pkt : Nat) : State :=
  match s.queueAt part num with
  | none => s
  | some q =>
    let s := s.putQueue ({ q with cause := .ofNat 8 cause, pkt := pkt % 2 ^ 32, wsig := 0#64 }.enter .error s.wallNow)
    let s := s.record (frontSrc num) 5 cause (noAddr 0) (.ofNat 64 pkt)
    ((s.launches.filter fun l => l.part == part && l.qnum == num).foldl State.endLaunch s).grant

/-- An address that the front end reads, as a record gives it (R401). -/
def State.frontAddr (s : State) (part a : Nat) : Word := codedPart (s.codeAddr (s.frontCore part 0#16) 0 a)

/-- An uncorrectable error in what the front end reads for a queue (R434). -/
def State.queueMcheck (s : State) (part num pkt : Nat) (addr : Word) : State :=
  (s.record (frontSrc num) 2 0xA addr (.ofNat 64 pkt)).queueError part num 0xA pkt

/-! ### Launch records (R305) -/

def lrImage (r : Nat) : Nat := bits r 0 32
def lrFloor (r : Nat) : Nat := bits r 32 32
def lrCeil (r : Nat) : Nat := bits r 64 32
def lrSrc (r : Nat) : Nat := bits r 96 2
def lrPred (r : Nat) : Bool := r.testBit 98
def lrSite (r : Nat) : Nat := bits r 100 8
def lrEvt (r : Nat) : Bool := r.testBit 108
def lrSig (r : Nat) : Nat := bits r 128 64
def lrDone (r : Nat) : Nat := bits r 192 64
def lrPbo (r : Nat) : Nat := bits r 256 64
def lrPexp (r : Nat) : Nat := bits r 320 28

def State.imageOf (s : State) (part : Nat) (asid : BitVec 16) (num : Nat) : Option Image :=
  s.images.find? fun i => i.num == num && i.part == part && i.asid == asid

/-- Whether `n` bytes at an aligned address lie in the chip scratchpad or the global window. -/
def State.cohWord (s : State) (part : Nat) (a n : Nat) : Bool :=
  a % n == 0 && (match s.window (s.frontCore part 0#16) a n with | some (w, _) => !w.scheduled | none => false)

/-- Whether a PBO is in a window that it may use (R305): a scheduled window is judged from the image. -/
def State.pboOk (s : State) (part : Nat) (img : Option Image) (a : Nat) : Bool :=
  a % 16 == 0 &&
  (s.cohWord part a 16 ||
   (match img with
    | none => true
    | some i =>
      (decide (Win.spad.base ≤ a) && i.gangs.all fun g => decide (a + 16 ≤ Win.spad.base + sliceSize g.die)) ||
      (decide (Win.shared.base ≤ a) && decide (a < Win.spad.base) &&
        i.gangs.all fun g => decide (a + 16 ≤ Win.shared.base + g.cols * g.rows * sliceSize g.die))))

/-- LRBAD of R305. -/
def State.lrBad (s : State) (part : Nat) (img : Option Image) (r : Nat) : Bool :=
  r.testBit 99 || bits r 109 19 != 0 || bits r 348 164 != 0 || lrSrc r == 3 ||
  (lrSrc r != 2 && lrSig r != 0) || (lrSrc r == 0 && (lrCeil r != 0 || lrPred r)) ||
  (lrSrc r == 2 && !s.cohWord part (lrSig r) 8) || (lrDone r != 0 && !s.cohWord part (lrDone r) 8) ||
  (lrPbo r != 0 && !s.pboOk part img (lrPbo r))

/-- The refusal code of a record (R305), in the order of its table. -/
def State.lrCode (s : State) (part : Nat) (asid : BitVec 16) (r : Nat) : Option Nat :=
  let img := s.imageOf part asid (lrImage r)
  if s.lrBad part img r then some 0x20
  else if img.isNone then some 0x21
  else if 1024 ≤ s.launches.length then some 0x22
  else if !lrPred r && lrSrc r != 0 && decide (lrCeil r < lrFloor r) then some 0x23
  else none

/-! ### Dispatch (R307) -/

/-- The shapes recorded at a site (R307). -/
def State.history (s : State) (site : Nat) : List Nat := (cget (0, []) s.sites site).2.map BitVec.toNat

/-- The ceiling P (R307). -/
def State.ceiling (s : State) (r : Nat) : Nat :=
  if lrSrc r = 0 then lrFloor r
  else if lrPred r then
    let h := (s.history (lrSite r)).foldl max 0
    if (s.history (lrSite r)).isEmpty then lrFloor r else max (lrFloor r) (h + (h + 7) / 8)
  else lrCeil r

def newInst (st : IState) (i : Nat) : Inst := ⟨i, st, [], false, [], [], none, [], false⟩

/-- Definite instances below one bound, provisional instances from there to the other. -/
def newInsts (defs all : Nat) : List Inst :=
  (List.range defs).map (newInst .waitDef) ++ (List.range (all - defs)).map fun i => newInst .waitProv (defs + i)

/-- The number of a context: its partition and its `ASID`. -/
def ctxNum (part : Nat) (asid : BitVec 16) : Nat := part * 65536 + asid.toNat

/-- Record a shape at a site, for the launch's context: the oldest of four is dropped (R307, R313). -/
def State.recordShape (s : State) (l : Launch) (t : Nat) : State :=
  let h := (cget (0, []) s.sites l.site).2 ++ [BitVec.ofNat 32 t]
  if l.pred then { s with sites := cput (0, []) s.sites l.site (ctxNum l.part l.asid, h.drop (h.length - 4)) } else s

/-- A context ends: its images leave the package, and the sites that it recorded at last are cleared (R307). What ends a context is outside
the manual (DESIGN CHOICE, log entry 55). -/
def State.endContext (s : State) (part : Nat) (asid : BitVec 16) : State :=
  { s with
    images := s.images.filter fun i => !(i.part == part && i.asid == asid)
    sites := s.sites.filter fun x => x.2.1 != ctxNum part asid }

/-- A context starts: its tile-table entries are zero on both dies (R268). -/
def State.startContext (s : State) (ttlo tthi : BitVec 12) : State :=
  { s with tileTab := s.tileTab.filter fun e => !(decide (ttlo.toNat ≤ e.idx) && decide (e.idx ≤ tthi.toNat)) }

/-- The lowest free launch slot. -/
def State.freeSlot (s : State) : Nat := ((List.range 1024).find? fun i => !s.launches.any fun l => l.slot == i).getD 0

/-- A launch enters its slot with all its instances waiting. -/
def State.addLaunch (s : State) (part : Nat) (asid : BitVec 16) (qnum pkt : Nat) (parent : Option Nat) (r clock : Nat)
    (urgent : Option Nat) : State × Launch :=
  let l : Launch := {
    slot := s.freeSlot, gen := s.launchGen, part := part, asid := asid, qnum := qnum, pkt := pkt, parent := parent,
    image := lrImage r, floor := lrFloor r, ceil := s.ceiling r, src := lrSrc r, pred := lrPred r, site := lrSite r, evt := lrEvt r,
    sig := .ofNat 64 (lrSig r), done := .ofNat 64 (lrDone r), pbo := .ofNat 64 (lrPbo r), pexp := lrPexp r, shape := none, low := false,
    tail := false, err := false, fin := false, clock := clock, top := clock, since := s.wallNow, paused := 0, preset := false, urgent := urgent,
    insts := newInsts (lrFloor r) (s.ceiling r) }
  ({ s with launches := s.launches ++ [l], launchGen := (s.launchGen + 1) % 2 ^ 32 }, l)

/-- Dispatch (R307): a shape that the signal already shows makes every instance definite; a signal that cannot be read puts the queue in
Error (R301, R434). -/
def State.dispatchLaunch (s : State) (part : Nat) (asid : BitVec 16) (qnum pkt : Nat) (parent : Option Nat) (r clock : Nat) :
    State × Launch :=
  let (s, l) := s.addLaunch part asid qnum pkt parent r clock none
  if l.src ≠ 2 then (s, l)
  else
    match s.frontRead part asid l.sig.toNat 8 false with
    | (s, .ok (v, c)) =>
      if v.testBit 63 then
        let t := bits v 0 32
        ((s.modLaunch l.slot fun l => { l with
            shape := some t, low := decide (t < l.floor), top := max l.top c,
            insts := newInsts (max t l.floor) (max t l.floor) }).recordShape l t, l)
      else (s, l)
    | (s, .fault _) => (s.queueError part qnum 4 pkt, l)
    | (s, .bad) => (s.queueMcheck part qnum pkt (s.frontAddr part l.sig.toNat), l)

/-! ### Commit (R236, R313) -/

/-- Buffered writes enter T at one place: one timestamp for every line (R236). -/
def State.commitWrites (s : State) (ps : List StorePiece) (clock : Nat) : State × Nat :=
  let ls := ((ps.filter fun p => !isHostKey p.key).map fun p => runLines (p.key, p.data.length)).flatten
  let ts := ls.foldl (fun t l => max t ((cget (0, 0) s.lines l).2 + 1)) clock
  let s := ls.foldl (fun s l => { s.atHome l true with lines := cput (0, 0) s.lines l (ts, ts) }) s
  (s.putPieces ps, ts)

/-- No operation of an earlier program is still to be done on a core: it may be loaded again. -/
def Core.free (c : Core) : Bool :=
  c.port.cq0.isEmpty && c.port.cq1.isEmpty && c.port.nq.isEmpty && c.mtx.arrQ.isEmpty && c.port.cohQ.isEmpty && c.port.comQ.isEmpty &&
  c.port.cacheOps.isEmpty && c.port.region.isEmpty && c.port.sched.isEmpty && c.port.chunks.isEmpty

/-- Whether everything that a core of an instance issued is done (R280, R392). -/
def Core.finished (c : Core) : Bool := c.tasks.wait == .exited && c.free && c.port.pend.isEmpty && c.port.landings.isEmpty

/-- The clock that a completed core releases (R280): what it and its engines have written is at or below it. -/
def Core.released (c : Core) : Nat := max c.port.pts c.port.stamp

/-- Whether a tile-table firing that some cores set is still to be done (R280). -/
def State.firingSet (s : State) (names : List Nat) : Bool :=
  s.tileTab.any fun e =>
    (match e.firing with | some f => names.contains f.setter | none => false) ||
    (match e.pending with | some p => names.contains p.setter | none => false)

/-- Every core of an instance has exited, and nothing that they issued is left (R280, R392). -/
def State.instDone (s : State) (i : Inst) : Bool :=
  let names := i.cores.map fun c => c.2.2
  !names.isEmpty && (s.pick names).all Core.finished && !s.firingSet names

/-- A definite instance completes (R280): what its relaxed atomics wrote is shown, its cores are free, and its launch's completion comes
after what they wrote. -/
def State.completeInst (s : State) (slot : Nat) (i : Inst) : State :=
  let names := i.cores.map fun c => c.2.2
  let top := (s.pick names).map Core.released
  let s := names.foldl (fun s n => (s.on n State.showRelaxed).modAt n fun c => { c with launch := none }) s
  (s.modInst slot i.idx fun i => { i with st := .complete, cores := [] }).modLaunch slot fun l => { l with top := top.foldl max l.top }

/-- An instance becomes definite (R313): its writes have entered T; its cores read them from memory, its ready flags are set, and a
held trap is delivered. One that is finished completes at the same place (R392). -/
def State.commitInst (s : State) (slot : Nat) (i : Inst) (ts : Nat) : State :=
  let ls := bufLines i.buf
  let s := s.modInst slot i.idx fun i => { i with
    st := if i.loaded then .runDef else .waitDef, buf := [], flags := [], held := [] }
  let s := i.cores.foldl (fun s c => { s with l2d := s.l2d.filter fun l => !ls.contains l.line }.modAt c.2.2 fun c => { c with
    prov := false
    port := { c.port with pts := max c.port.pts ts, l1 := c.port.l1.filter fun l => !ls.contains l.line } }) s
  let s := match i.cores with
    | [] => s
    | c :: _ => s.on c.2.2 fun s => i.flags.foldl (fun s f => s.setReady f.1 f.2.1 { f.2.2 with clock := max f.2.2.clock ts }) s
  let s := i.cores.foldl (fun s c => s.on c.2.2 fun s =>
    match s.core.exc.entering with
    | some t => s.takeTrap t
    | none => s) s
  if i.loaded && s.instDone i then s.completeInst slot i else s

/-- The true shape arrives (R313). The place in T has a clock; the clock after it is answered. -/
def State.deliverShape (s : State) (slot t clock : Nat) : State × Nat :=
  match s.launchAt slot with
  | none => (s, clock)
  | some l =>
    let t' := max t l.floor
    let live := l.insts.filter fun i => i.provisional && i.st != .trimmed
    let keep := live.filter fun i => decide (i.idx < t')
    let (s, ts) := s.commitWrites ((keep.map Inst.buf).flatten) clock
    let s := keep.foldl (fun s i => s.commitInst slot i ts) s
    let s := (live.filter fun i => decide (t' ≤ i.idx)).foldl (fun s i => s.trim slot i) s
    let s := s.modLaunch slot fun l => { l with
      shape := some t, low := decide (t < l.floor), tail := decide (l.ceil < t), top := max l.top ts
      insts := l.insts ++ (List.range (t - l.ceil)).map fun i => newInst .waitDef (l.ceil + i) }
    (s.recordShape l t, ts)

end Sys2Proof.Machine
end

