-- ==== Sys2Proof/Machine/Launch.lean ====
section
/-! DEFINITION. Placing, loading, releasing and ending instances, and LAUNCH, SHAPE and QSIG (18_launch_queues.md R305 to R317;
17_execution_model.md R279, R280; 04_assembly_loader.md R68 to R70; 14_consistency.md R235, R236). -/

namespace Sys2Proof.Machine

/-! ### Clusters and cores (R68, R310) -/

/-- The enabled program cores of a cluster that a partition owns, by rising index (R20, R351). -/
def State.clusterCores (s : State) (part cl : Nat) : List Nat :=
  let ids := (List.range 192).map fun i => if cl = 4 then 1024 + i else 192 * cl + i
  ids.filter fun i => s.partExists part && i % 1024 != 0 && s.gradeOf i != 0#8 && (!s.split || (if cl = 4 then (i - 1024) / 48 == part else cl == part))

/-- Clusters of a die that a partition reaches. -/
def State.clustersOf (s : State) (part : Nat) (die : Bool) : List Nat :=
  if die then [4] else if s.split then [part] else [0, 1, 2, 3]

/-- The cores that an instance holds: a solo gang holds its pairs whole (R69, R310). -/
def State.instIds (s : State) (l : Launch) (i : Inst) : List Nat :=
  let gangs := ((s.imageOf l.part l.asid l.image).map Image.gangs).getD []
  (i.cores.map fun c =>
    let id := c.2.2 % 65536
    if ((gangs[c.1]?).map GangImg.solo).getD false then [id, id ^^^ 1] else [id]).flatten

/-- The cores that instances hold, of those that satisfy a condition. -/
def State.heldIds (s : State) (p : Launch → Inst → Bool) : List Nat :=
  ((s.launches.filter fun l => l.urgent.isNone).map fun l => ((l.insts.filter (p l)).map (s.instIds l)).flatten).flatten

/-- The Scruple's jobs of a core. -/
def ScrJob.ofCore (n : Nat) : ScrJob → Bool
  | .round c .. => c == n
  | .config c .. => c == n

/-- The available cores of a cluster (R310), given those that are held. -/
def State.availCores (s : State) (part cl : Nat) (held : List Nat) : List Nat := (s.clusterCores part cl).filter fun i => !held.contains i

/-- Whether an earlier program has left nothing to be done on a core, nor on a core whose engines still reach it, and no pre-emption holds it: a
load of the core waits for that (R304, R313, R375). -/
def State.loadable (s : State) (i : Nat) : Bool :=
  ((s.coreAt i).map Core.free).getD true && !s.scrQ.any (ScrJob.ofCore i) &&
  !s.cores.any (fun c => c.crew.any (fun m => m.2.2 == i) && !c.free) && !s.preempts.any fun p => p.victims.contains i

/-- The cores for a gang among the available ones, if the cluster can take it (R68): the other core of a solo core is available, disabled
or the firmware core. -/
def State.fitGang (s : State) (g : GangImg) (avail : List Nat) : Option (List Nat) :=
  let n := g.cols * g.rows
  let pair := fun i => (avail.contains (i ^^^ 1) && decide (i < i ^^^ 1)) || (i ^^^ 1) % 1024 == 0 || s.gradeOf (i ^^^ 1) == 0#8
  let ok := if g.solo then avail.filter pair else avail
  if n ≤ ok.length then some (ok.take n) else none

/-- Place the gangs one after the other, each on the first cluster in an order that can take it, up to the first that finds none; the
gangs that are left are answered too. -/
def State.placeGangs (s : State) (part : Nat) (order : GangImg → List Nat) :
    List (Nat × GangImg) → List Nat → List (Nat × Nat × Nat) × List (Nat × GangImg)
  | [], _ => ([], [])
  | (gi, g) :: r, held =>
    match (order g).findSome? fun cl => s.fitGang g (s.availCores part cl held) with
    | none => ([], (gi, g) :: r)
    | some ids =>
      let more := if g.solo then ids ++ ids.map (· ^^^ 1) else ids
      let t := s.placeGangs part order r (held ++ more)
      ((ids.zipIdx.map fun x => (gi, x.2, x.1)) ++ t.1, t.2)

/-- Clusters in which some cores lie. -/
def clustersIn (ids : List Nat) : List Nat := ids.map clusterOf

/-- Clusters that hold a core of another launch (R310). -/
def State.foreignClusters (s : State) (slot : Nat) : List Nat := clustersIn (s.heldIds fun l _ => l.slot != slot)

/-- The gangs of an instance that have no cores yet, with their numbers: a definite instance takes the cores of its gangs one gang after
the other (R310). -/
def Inst.unplaced (i : Inst) (img : Image) : List (Nat × GangImg) :=
  (img.gangs.zipIdx.map fun x => (x.2, x.1)).filter fun g => !i.cores.any fun c => c.1 == g.1

/-- The clusters that a gang of a launch may try: a child launch leaves out those of its issuer (R315). -/
def State.openClusters (s : State) (l : Launch) (g : GangImg) : List Nat :=
  let issuer := match l.parent with | none => [] | some p => clustersIn (s.heldIds fun x _ => x.slot == p)
  (s.clustersOf l.part g.die).filter fun cl => !issuer.contains cl

/-- The clusters that a gang of a definite instance tries, in order (R310). -/
def State.definiteOrder (s : State) (l : Launch) (g : GangImg) : List Nat :=
  let foreign := s.foreignClusters l.slot
  let all := s.openClusters l g
  (all.filter fun cl => !foreign.contains cl) ++ all.filter fun cl => foreign.contains cl

/-- Whether a waiting definite instance needs a cluster (R310, R311): with the cores that are free it finds none for one of its unplaced gangs,
which could take this one once provisional instances were evicted. An urgent launch waits for no cluster (R377). -/
def State.needed (s : State) (cl : Nat) : Bool :=
  s.launches.any fun l => l.urgent.isNone && match s.imageOf l.part l.asid l.image with
    | none => false
    | some img => l.insts.any fun i => i.st == .waitDef &&
      (s.placeGangs l.part (s.definiteOrder l) (i.unplaced img) (s.heldIds fun _ _ => true)).2.any fun g =>
        (s.openClusters l g.2).contains cl &&
        (s.fitGang g.2 (s.availCores l.part cl (s.heldIds fun _ i => !i.provisional))).isSome

/-- The clusters that a gang of an instance may try, in order (R310). -/
def State.clusterOrder (s : State) (l : Launch) (prov : Bool) (g : GangImg) : List Nat :=
  if prov then
    let foreign := s.foreignClusters l.slot
    let definite := clustersIn (s.heldIds fun _ i => !i.provisional)
    (s.openClusters l g).filter fun cl => !foreign.contains cl && !definite.contains cl && !s.needed cl
  else s.definiteOrder l g

/-- INSTANCE_PLACE (R310): instances are placed in ascending index, provisional ones after every definite one; a provisional instance takes
all its cores at once. -/
def execInstancePlace (launch inst : Nat) (s : State) : Out :=
  match s.launchAt launch with
  | none => .next s
  | some l =>
    match l.insts.find? (fun i => i.idx == inst), s.imageOf l.part l.asid l.image with
    | some i, some img =>
      let prov := i.st == .waitProv
      let before := l.insts.any fun x => !(x.unplaced img).isEmpty &&
        ((x.st == .waitDef && (prov || decide (x.idx < inst))) || (x.st == .waitProv && prov && decide (x.idx < inst)))
      if !(i.st == .waitDef || prov) || before || l.urgent.isSome then .next s
      else
        let t := s.placeGangs l.part (s.clusterOrder l prov) (i.unplaced img) (s.heldIds fun _ _ => true)
        .next (if prov && !t.2.isEmpty then s else s.modInst launch inst fun i => { i with cores := i.cores ++ t.1 })
    | _, _ => .next s

/-! ### Loading and release (R279) -/

/-- Put a core record in the list in place of one of the same name. -/
def State.putCore (s : State) (c : Core) : State :=
  if s.core.name = c.name then { s with core := c }
  else { s with others := s.others.filter (fun x => x.name != c.name) ++ [c] }

/-- `EXTENT` at a release (R307). -/
def Launch.extent (l : Launch) : Nat :=
  match l.shape with
  | some t => max t l.floor
  | none => if l.src = 0 then l.floor else l.ceil

/-- A core as the front end loads it, released in a cycle (R29, R279): the context's registers, its text over the old one, the engine
presets, the state of R29 in everything else; what waits for its core whatever runs there stays (R332). -/
def loadedCore (l : Launch) (img : Image) (g : GangImg) (old : Core) (inst gi vc r : Nat) (prov : Bool) : Core :=
  let text := g.texts.find? fun t => t.vcore == vc
  let c := Core.reset old.id
  { c with
    urg := l.urgent.isSome, fw := false, clock := r
    imem := ((text.map GangText.words).getD []).foldl (fun m w => cput 0#128 m w.1 w.2) old.imem
    ctl := { c.ctl with
      releasedAt := r, vcore := .ofNat 8 vc, gang := .ofNat 16 gi, inst := .ofNat 32 inst, extent := .ofNat 32 l.extent
      latch := l.evt, solo := g.solo, slotmap := old.ctl.slotmap }
    exc := { c.exc with
      level := 0#2, trapvec := g.trapvec, asid := img.asid, ttlo := img.ttlo, tthi := img.tthi, ptroot := img.ptroot }
    flow := { c.flow with pc := (text.map GangText.entry).getD 0#12, nextPc := (text.map GangText.entry).getD 0#12 }
    port := { c.port with pts := l.clock, drift := r + 64, rollback := old.port.rollback }
    mtx := { c.mtx with
      nest := g.nest
      streams := g.streams.foldl (fun v x => if h : x.1 < 16 then v.set x.1 ⟨x.2, none⟩ else v) c.mtx.streams }
    spe := ⟨[], g.shapes.foldl (fun m x => cput 0#256 m x.1 (x.2 &&& shapeMask)) []⟩
    launch := some (l.slot, inst), prov := prov }

/-- The record of a core, or a new one. -/
def State.recordOf (s : State) (id : Nat) : Core :=
  (s.coreAt id).getD { s.resetCore id with fw := false, tasks := { Tasks.reset with wait := .exited } }

/-- The registers of a context are written at its release: no error of an earlier run is left in them (R29, R369). -/
def State.clearRegs (s : State) (name : Nat) : State :=
  { s with bad := s.bad.filter fun u => (match u with
      | .reg c _ => c != name
      | .soft c code => c != name || code / 4096 == 8
      | _ => true) }

/-- The tiles, format states and errors of a core's registers are those of R29 at release. -/
def State.clearCore (s : State) (id : Nat) (solo : Bool) : State :=
  let mine := fun (t : Nat) => t / 4 == id || (solo && t / 4 == id ^^^ 1)
  { s.clearRegs id with
    tiles := s.tiles.filter fun p => !mine (p.1 / 4096)
    tileFmts := s.tileFmts.filter fun p => !mine p.1
    bad := (s.clearRegs id).bad.filter fun u => (match u with
      | .tile c t => !mine (c * 4 + t)
      | _ => true) }

/-- The other core of a pair follows the array mode that a load or a restore gives a core: in solo mode it owns nothing, even where it is
the firmware core (R16, R69, R141). -/
def State.pairMode (s : State) (id : Nat) (solo : Bool) : State :=
  s.modAt (id ^^^ 1) fun c => { c with ctl := { c.ctl with solo := solo, own := !solo } }

/-- The barrier object of a launch record is preset (R279): once for the launch in a coherent window, in every core's scratchpad, or
once in each gang's shared window. -/
def State.presetPbo (s : State) (l : Launch) (cores : List (Nat × Nat × Nat)) : State :=
  let a := l.pbo.toNat
  let data := natBytes (boInit l.pexp) 16
  -- an urgent context's window is the top 64 KiB; what it does not hold is not preset (R371, R377)
  let spad := fun (n : Nat) => if 65536 ≤ n then sliceSize (decide (1024 ≤ n % 65536)) - 65536 else 0
  if a = 0 then s
  else if l.urgent.isSome && decide (Win.shared.base ≤ a) && !(decide (Win.spad.base ≤ a) && decide (a + 16 ≤ Win.spad.base + 65536)) then s
  else if Win.spad.base ≤ a then cores.foldl (fun s c => s.putBytes (keySpad (c.2.2 % 65536) (spad c.2.2 + (a - Win.spad.base))) data) s
  else if Win.shared.base ≤ a then
    let o := a - Win.shared.base
    cores.foldl (fun s c =>
      let g := sliceSize (decide (1024 ≤ c.2.2 % 65536))
      if c.2.1 = o / g then s.putBytes (keySlice (c.2.2 % 65536) (o % g)) data else s) s
  else if l.preset then s
  else
    let s := (s.asFront l.part l.asid fun s =>
      match s.frontRuns a 16 false true with
      | .ok rs => ((s.writeRuns l.clock rs data).1, ())
      | _ => (s, ())).1
    s.modLaunch l.slot fun l => { l with preset := true }

/-- Load the cores of an instance and release them on one common cycle. -/
def State.loadInst (s : State) (l : Launch) (img : Image) (i : Inst) (prov : Bool) : State :=
  let olds := i.cores.map fun c => s.recordOf (c.2.2 % 65536)
  let r := (olds.map Core.clock).foldl max s.core.clock
  let s := s.presetPbo l i.cores
  let s := i.cores.foldl (fun s c =>
    match img.gangs[c.1]? with
    | none => s
    | some g =>
      let old := s.recordOf (c.2.2 % 65536)
      ((s.clearCore old.id g.solo).putCore (loadedCore l img g old i.idx c.1 c.2.1 r prov)).pairMode old.id g.solo) s
  -- a child sees what its issuer's copies wrote (R235): no older copy stays in the L2 of the draft die (DEDUCED, log entry 128)
  let s := if i.cores.any fun c => decide (1024 ≤ c.2.2 % 65536) then { s with l2d := [] } else s
  let s := { s with scopeEns := cput 0 s.scopeEns (l.slot * 2 ^ 32 + i.idx) 0,
                    scopeGang := s.scopeGang.filter fun p => p.1 / 65536 != l.slot * 2 ^ 32 + i.idx,
                    -- no completion notice of an earlier run reaches these cores (R293)
                    notices := s.notices.filter fun n => !i.cores.any fun c => c.2.2 == n.core }
  s.modInst l.slot i.idx fun x => { x with st := if prov then .runProv else .runDef, loaded := true, buf := [], flags := [] }

/-- INSTANCE_LOAD (R279): a placed instance is loaded and released. -/
def execInstanceLoad (launch inst : Nat) (s : State) : Out :=
  match s.launchAt launch with
  | none => .next s
  | some l =>
    match l.insts.find? (fun i => i.idx == inst), s.imageOf l.part l.asid l.image with
    | some i, some img =>
      if i.loaded || i.cores.isEmpty || !(i.unplaced img).isEmpty || !(s.instIds l i).all s.loadable || l.urgent.isSome || s.boot.recovery
        then .next s
      else if i.st == .waitDef then .next (s.loadInst l img i false)
      else if i.st == .waitProv then .next (s.loadInst l img i true)
      else .next s
    | _, _ => .next s

/-! ### Eviction (R311) -/

/-- Discard everything of a core's run: an evicted instance leaves no trace. -/
def Core.wiped (c : Core) : Core :=
  let c := c.ended
  { c with
    launch := none, prov := false
    port := { c.port with cohQ := [], comQ := [], cacheOps := [], region := [], cq0 := [], cq1 := [], nq := [] }
    mtx := { c.mtx with arrQ := [] } }

/-- PROVISIONAL_EVICT (R311): on a cluster that a definite instance needs and that holds only provisional instances, the instance of
highest index is stopped and waits again. -/
def execProvisionalEvict (launch inst : Nat) (s : State) : Out :=
  match s.launchAt launch with
  | none => .next s
  | some l =>
    match l.insts.find? (fun i => i.idx == inst) with
    | none => .next s
    | some i =>
      let cls := clustersIn (s.instIds l i)
      let definite := clustersIn (s.heldIds fun _ i => !i.provisional)
      let wanted := cls.any fun cl => s.needed cl && !definite.contains cl &&
        !(clustersIn (s.heldIds fun _ x => decide (inst < x.idx))).contains cl
      if !i.provisional || i.cores.isEmpty || !wanted then .next s
      else
        let s := i.cores.foldl (fun s c => s.modAt c.2.2 Core.wiped) s
        .next (s.modInst launch inst fun i => { i with st := .waitProv, cores := [], loaded := false, buf := [], flags := [], held := [] })

/-! ### Completion (R280, R308) -/

/-- INSTANCE_COMPLETE (R280, R392): its cores have exited, and their engine operations and tile firings are done: a definite instance is
complete, a provisional one is finished. -/
def execInstanceComplete (launch inst : Nat) (s : State) : Out :=
  match s.launchAt launch with
  | none => .next s
  | some l =>
    match l.insts.find? (fun i => i.idx == inst) with
    | none => .next s
    | some i =>
      if !s.instDone i then .next s
      else match i.st with
        | .runDef => .next (s.completeInst launch i)
        | .runProv => .next (s.modInst launch inst fun i => { i with st := .finished })
        | _ => .next s

/-- Whether a launch is complete (R308): its surviving instances and every launch that its cores made. -/
def State.launchDone (s : State) (l : Launch) : Bool :=
  (l.src == 0 || l.shape.isSome) && l.insts.all (fun i => i.st == .complete || i.st == .trimmed) &&
  !s.launches.any fun x => x.parent == some l.slot

/-- A completed launch writes its completion word and leaves its slot; its queue goes on, unless the word could not be written. -/
def State.completeLaunch (s : State) (l : Launch) : State :=
  let (s, ok) := s.writeDone { l with fin := true }
  let s := (s.urgentDone l.slot).dropLaunch l.slot
  let s := match l.parent with
    | none => s
    | some p => s.modLaunch p fun x => { x with top := max x.top l.top }
  if !ok then s.queueError l.part l.qnum 4 l.pkt
  else match s.queueAt l.part l.qnum with
    | none => s
    | some q => if q.st = .running ∨ (q.st = .waiting ∧ q.wsig = 0#64 ∧ (s.outstanding l.part l.qnum).isEmpty) then s.settle q else s

/-- LAUNCH_COMPLETE (R308). -/
def execLaunchComplete (launch : Nat) (s : State) : Out :=
  match s.launchAt launch with
  | none => .next s
  | some l => .next (if l.urgent.isNone && s.launchDone l then s.completeLaunch l else s)

/-! ### Shape signals (R313) -/

/-- SHAPE_SIGNAL_READ (R313): the first value with bit 63 set delivers the true shape. -/
def execShapeSignalRead (launch : Nat) (s : State) : Out :=
  match s.launchAt launch with
  | none => .next s
  | some l =>
    if l.src ≠ 2 ∨ l.shape.isSome then .next s
    else
      match s.frontRead l.part l.asid l.sig.toNat 8 false with
      | (s, .ok (v, c)) => .next (if v.testBit 63 then (s.deliverShape launch (bits v 0 32) c).1 else s)
      | (s, .fault _) => .next (s.queueError l.part l.qnum 4 l.pkt)
      | (s, .bad) => .next (s.queueMcheck l.part l.qnum l.pkt (s.frontAddr l.part l.sig.toNat))

/-! ### LAUNCH, SHAPE, QSIG (R315 to R317) -/

/-- An address of the chip scratchpad or the global window, with its key (R315, R317). -/
def State.frontKey (s : State) (a n : Nat) (write atomic : Bool) (f : Nat → Out) : Out :=
  s.checked (s.checkCoh a n write atomic) f

/-- Wait as FENCE.X of package scope, for the earlier copy-engine operations too (R235, R316). -/
def State.drainedFor (s : State) (f : Out) : Out := if s.fencePending .package true then .next (s.wait .fence) else f

/-- The bytes of a record that the front end reads for an instruction; an uncorrectable error is MCHECK with ORIGIN 6 (R305). -/
def State.readRecord (s : State) (a key n : Nat) (f : Nat → Out) : Out :=
  if s.badBytes key n then
    let info := s.codeAddr s.core 6 a
    (s.coreRecord 2 0xA info info).lateTrap 0xA info
  else f (memNat s.mem key n)

/-- The queue and the packet that a core's launches are charged to (R299, R315). -/
def State.charge (s : State) : Nat × Nat × Option Nat :=
  match s.launchOf s.core with
  | none => (65535, 0, none)
  | some l => (l.qnum, l.pkt, some l.slot)

/-- What LAUNCH, PRMT and SQCFG return for a refusal. -/
def refusal (code : Nat) : Word := .ofNat 64 (2 ^ 63 + code)

def execLaunch (d : Dst) (a : Src) (s : State) : Out :=
  let addr := (s.gS a).toNat
  if s.core.urg then s.illop
  else s.frontKey addr 64 false false fun key =>
    if s.core.prov then .next (s.wait .provisional)
    else s.drainedFor (s.readRecord addr key 64 fun r =>
      let s := s.showRelaxed
      let part := s.partOf s.core.id
      match s.lrCode part s.core.exc.asid r with
      | some code => s.scalar 1 d (refusal code)
      | none =>
        let (qnum, pkt, parent) := s.charge
        let s := s.afterEngines
        let (t, l) := s.dispatchLaunch part s.core.exc.asid qnum pkt parent r s.core.port.pts
        t.scalar 1 d (.ofNat 64 (l.slot + l.gen * 2 ^ 10)))

def execShape (a b : Src) (s : State) : Out :=
  let h := (s.gS a).toNat
  let t := (s.gS b).toNat
  if s.core.urg || decide (2 ^ 32 ≤ t) then s.illop
  else if s.core.prov then .next (s.wait .provisional)
  else s.drainedFor (match s.launches.find? fun l => l.slot == bits h 0 10 && l.gen == h / 2 ^ 10 with
    | none => s.lateTrap 1 (.ofNat 64 s.where)
    | some l =>
      if l.src ≠ 1 ∨ l.shape.isSome ∨ l.asid ≠ s.core.exc.asid ∨ l.part ≠ s.partOf s.core.id then s.lateTrap 1 (.ofNat 64 s.where)
      else
        let s := s.showRelaxed.afterEngines
        let (s, ts) := s.deliverShape l.slot t s.core.port.pts
        .next (s.modPort fun p => { p with pts := max p.pts ts }))

/-- QSIG (R317): an atomic write of a signal, and the front end reads it again. -/
def State.qsig (s : State) (a b : Src) (f : Nat → Nat → Nat) : Out :=
  let addr := (s.gS a).toNat
  s.frontKey addr 8 true true fun key =>
    if s.core.prov then .next (s.wait .provisional)
    else s.drainedFor
      (if s.badBytes key 8 then
        let info := s.codeAddr s.core 0 addr
        (s.coreRecord 2 0xA info info).lateTrap 0xA info
      else
        let (s, _) := s.showRelaxed.rmw key 8 (fun old => some (f old (s.gS b).toNat % 2 ^ 64)) true
        .next (s.poke key 8))

def execQsigSet (a b : Src) (s : State) : Out := s.qsig a b fun _ b => b
def execQsigAdd (a b : Src) (s : State) : Out := s.qsig a b fun o b => o + b
def execQsigOr (a b : Src) (s : State) : Out := s.qsig a b fun o b => o ||| b

end Sys2Proof.Machine
end

