-- ==== Sys2Proof/Machine/Queues.lean ====
section
/-! DEFINITION. Packets of queues, waits, timeouts, priorities (18_launch_queues.md R300 to R304), and the control queue's repair and
configuration packets (27_recovery.md R415 to R418). -/

namespace Sys2Proof.Machine

/-! ### Taking a packet (R300, R434) -/

/-- The packet that a queue takes next, with the clock of what was read: nothing when the queue takes none; a packet that cannot be read
puts the queue in Error. -/
def State.nextPacket (s : State) (part num : Nat) : State × Option (Queue × Nat × Nat) :=
  match s.queueAt part num with
  | none => (s, none)
  | some q =>
    let open_ := s.partExists part && (match q.st with | .ready | .running | .waiting => true | _ => false)
    if !open_ || !q.res || decide (q.wr ≤ q.rd) then (s, none)
    else
      let a := q.ring.toNat + 64 * (q.rd % 2 ^ q.lsz)
      match s.frontRead part q.asid a 64 true with
      | (s, .ok (p, c)) => let (s, c) := s.readClock c [(q.recKey + 24, 8)]; (s, some (q, p, c))
      | (s, .fault _) => (s.queueError part num 4 q.rd, none)
      | (s, .bad) => (s.queueMcheck part num q.rd (s.frontAddr part a), none)

/-- Bits of a packet that lie outside the named fields (R300). -/
def onlyFields (p : Nat) (fields : List (Nat × Nat)) : Bool :=
  fields.foldl (fun p f => p - bits p f.1 f.2 * 2 ^ f.1) p == 0

/-- A queue begins to wait, or waits on (R302). -/
def State.queueWaits (s : State) (q : Queue) (sig : Word) : State :=
  (s.putQueue ({ q with wsig := sig }.enter .waiting s.wallNow)).grant

/-- LAUNCH_PACKET (R300): a packet of no type that its queue accepts puts the queue in Error. -/
def execLaunchPacket (part : Fin 4) (n : Nat) (s : State) : Out :=
  match s.nextPacket part.val n with
  | (s, none) => .next s
  | (s, some (q, p, c)) =>
    let ty := bits p 0 8
    if ty = 2 ∨ ty = 3 ∨ (n = controlQueue ∧ 4 ≤ ty ∧ ty ≤ 8) then .next s
    else if ty ≠ 1 ∨ !onlyFields p [(0, 9), (64, 64)] then .next (s.queueError part.val n 1 q.rd)
    else if !p.testBit 8 && !(s.outstanding part.val n).isEmpty then .next (s.queueWaits q 0#64)
    else
      let a := bits p 64 64
      if a % 64 ≠ 0 then .next (s.queueError part.val n 0x20 q.rd)
      else match s.frontRead part.val q.asid a 64 true with
        | (s, .fault _) => .next (s.queueError part.val n 4 q.rd)
        | (s, .bad) => .next (s.queueMcheck part.val n q.rd (s.frontAddr part.val a))
        | (s, .ok (r, c')) =>
          match s.lrCode part.val q.asid r with
          | some code => .next (s.queueError part.val n code q.rd)
          | none =>
            let s := s.putQueue ({ q with rd := q.rd + 1 }.enter .running s.wallNow)
            -- its cores start with pts 0; its completion is above what the packet was read at (R224, R280)
            let (s, l) := s.dispatchLaunch part.val q.asid n q.rd none r 0
            .next ((s.modLaunch l.slot fun l => { l with top := max l.top (max c c') }).grant)

/-- Whether a signal satisfies the comparison of a WAIT packet (R300). -/
def waitHolds (p v : Nat) : Bool :=
  let x := bits p 128 64
  match bits p 192 4 with
  | 0 => v == x
  | 1 => v != x
  | 2 => decide (x ≤ v)
  | _ => decide (v < x)

/-- The wait of a queue is tried: the signal is read as a .sc load (R300, R301). -/
def State.tryWait (s : State) (q : Queue) (p : Nat) : State :=
  let a := bits p 64 64
  if a % 8 ≠ 0 then s.queueError q.part q.num 4 q.rd
  else match s.frontRead q.part q.asid a 8 false with
    | (s, .fault _) => s.queueError q.part q.num 4 q.rd
    | (s, .bad) => s.queueMcheck q.part q.num q.rd (s.frontAddr q.part a)
    | (s, .ok (v, _)) =>
      if waitHolds p v then s.advance q
      else if q.st = .parked then s
      else s.queueWaits q (.ofNat 64 a)

/-- WAIT_PACKET (R300). -/
def execWaitPacket (part : Fin 4) (n : Nat) (s : State) : Out :=
  match s.nextPacket part.val n with
  | (s, none) => .next s
  | (s, some (q, p, _)) =>
    if bits p 0 8 ≠ 2 then .next s
    else if !onlyFields p [(0, 8), (64, 128), (192, 4)] || decide (3 < bits p 192 4) then .next (s.queueError part.val n 1 q.rd)
    else .next (s.tryWait q p)

/-- The operation of a SIGNAL packet (R300). -/
def signalOp (p old : Nat) : Nat :=
  let v := bits p 128 64
  match bits p 192 4 with
  | 0 => v
  | 1 => (old + v) % 2 ^ 64
  | _ => old ||| v

/-- SIGNAL_PACKET (R300): a .sc atomic at system scope once every earlier launch of the queue is complete. -/
def execSignalPacket (part : Fin 4) (n : Nat) (s : State) : Out :=
  match s.nextPacket part.val n with
  | (s, none) => .next s
  | (s, some (q, p, c)) =>
    let a := bits p 64 64
    if bits p 0 8 ≠ 3 then .next s
    else if !onlyFields p [(0, 8), (64, 128), (192, 4)] || decide (2 < bits p 192 4) then .next (s.queueError part.val n 1 q.rd)
    else if !(s.outstanding part.val n).isEmpty then .next (s.queueWaits q 0#64)
    else if a % 8 ≠ 0 then .next (s.queueError part.val n 4 q.rd)
    else
      let r := s.asFront part.val q.asid fun s =>
        match s.frontRuns a 8 false true with
        | .ok rs =>
          if s.badRuns rs then (s, ERes.bad)
          else ((s.writeRuns c rs (natBytes (signalOp p (bytesNat (s.readRuns rs))) 8)).1, .ok (rs.map Prod.fst))
        | .fault x => (s, .fault x)
        | .bad => (s, .bad)
      match r with
      | (s, .fault _) => .next (s.queueError part.val n 4 q.rd)
      | (s, .bad) => .next (s.queueMcheck part.val n q.rd (s.frontAddr part.val a))
      | (s, .ok ks) => .next (ks.foldl (fun s k => s.poke k 8) (s.advance q))

/-- SIGNAL_REREAD (R301): the front end reads the WR word and the signal that the queue waits on. -/
def execSignalReread (part : Fin 4) (n : Nat) (s : State) : Out :=
  match s.queueAt part.val n with
  | none => .next s
  | some q =>
    if q.st = .error then .next s
    else if s.badBytes (q.recKey + 24) 8 then .next (s.queueMcheck part.val n q.rd (s.codeKey (q.recKey + 24)))
    else
      let q := { q with wr := memNat s.mem (q.recKey + 24) 8 }
      let s := { s with queues := s.queues.map fun x => if x.part == q.part && x.num == q.num then q else x }
      if q.st = .idle then .next (if q.rd < q.wr then s.settle q else s)
      else if q.st = .ready ∧ q.wr ≤ q.rd then .next (s.settle q)
      else if q.wsig = 0#64 then .next s
      else
        let a := q.ring.toNat + 64 * (q.rd % 2 ^ q.lsz)
        match s.frontRead part.val q.asid a 64 true with
        | (s, .ok (p, _)) => .next (s.tryWait q p)
        | (s, .fault _) => .next (s.queueError part.val n 4 q.rd)
        | (s, .bad) => .next (s.queueMcheck part.val n q.rd (s.frontAddr part.val a))

/-- QUEUE_PARK (R302). -/
def execQueuePark (part : Fin 4) (n : Nat) (s : State) : Out :=
  match s.queueAt part.val n with
  | none => .next s
  | some q => .next (if q.st = .waiting ∧ q.wsig ≠ 0#64 then
      (s.putQueue { q.enter .parked s.wallNow with since := q.since, paused := q.paused }).grant else s)

/-- PRIORITY_RAISE (R303). -/
def execPriorityRaise (part : Fin 4) (n : Nat) (s : State) : Out :=
  match s.queueAt part.val n with
  | none => .next s
  | some q => .next (if q.st = .ready then { s with queues := s.queues.map fun x =>
      if x.part == q.part && x.num == q.num then { x with raised := x.raised + 1 } else x } else s)

/-- QUEUE_TIMEOUT (R304): CAUSE QTIMEOUT, charged to the packet that waits, else to the oldest launch (R299). -/
def execQueueTimeout (part : Fin 4) (n : Nat) (s : State) : Out :=
  match s.queueAt part.val n with
  | none => .next s
  | some q =>
    let waits := (q.st = .waiting ∨ q.st = .parked) ∧ q.wsig ≠ 0#64
    match s.outstanding part.val n with
    | l :: _ =>
      -- a launch that has run TMO before the wait began to is charged with it
      if q.st = .error then .next s
      else if waits ∧ !(decide (l.since ≤ q.since) && s.launchOver q l) then .next (s.queueError part.val n 0xF q.rd)
      else .next (s.queueError part.val n 0xF l.pkt)
    | [] => .next (if waits then s.queueError part.val n 0xF q.rd else s)

/-! ### The control queue (R415 to R418) -/

/-- Take a packet of a type from the control queue: RES, which may lie in a host-mapped page, is checked first, then the fields (R417). The meaning answers the result
word, or waits. -/
def State.controlPacket (s : State) (part : Fin 4) (ty : Nat) (fields : List (Nat × Nat)) (ok : Nat → Bool)
    (f : State → Queue → Nat → Nat → Option (State × Nat)) : Out :=
  match s.nextPacket part.val controlQueue with
  | (s, none) => .next s
  | (s, some (q, p, c)) =>
    if bits p 0 8 ≠ ty then .next s
    else
      let res := bits p 192 64
      let writable := (s.asFront part.val q.asid fun s => (s, s.frontRuns res 8 true true)).2
      match (if res % 8 = 0 then writable else .fault) with
      | .ok _ =>
        let answer := fun (s : State) (v : Nat) => (s.frontWrite part.val q.asid res c (natBytes v 8) true).1.poke 0 0
        if !onlyFields p ([(0, 8), (192, 64)] ++ fields) || !ok p then
          .next ((answer s (2 ^ 63 + 1)).queueError part.val controlQueue 1 q.rd)
        else
          (match f s q p c with
           | none => .next (s.queueWaits q 0#64)
           | some (s, v) => .next ((answer s v).advance q))
      | _ => .next (s.queueError part.val controlQueue 1 q.rd)

/-- The result word of a refusal. -/
def refuse (code : Nat) : Nat := 2 ^ 63 + code

/-- A queue in Error goes on at a packet, or the code of a refusal (R416). -/
def State.resumeQueue (s : State) (t : Queue) (rd : Nat) : State × Nat :=
  let wr := memNat s.mem (t.recKey + 24) 8
  -- an uncorrectable WR leaves the target in Error (R434); the result is open (DESIGN CHOICE, log entry 131)
  if s.badBytes (t.recKey + 24) 8 then
    (s.tick.queueMcheck t.part t.num t.rd (s.codeKey (t.recKey + 24)), 2 ^ 63 + (Config.freeWord s.fresh).toNat % 2 ^ 63)
  else if wr < rd ∨ 2 ^ t.lsz < wr - rd then (s, refuse 0x61)
  else
    let t := { t with rd := rd, wr := wr, cause := 0#8, pkt := 0, wsig := 0#64 }
    ((s.putQueue (t.enter (if rd = wr then .idle else .ready) s.wallNow)).grant, 0)

/-- What a repair packet does (R416): it waits for the target's launches to have ended, then checks. -/
def State.repair (s : State) (part : Nat) (p : Nat) : Option (State × Nat) :=
  let n := bits p 64 16
  if s.launches.any (fun l => l.part == part && l.qnum == n) then none
  else match s.queueAt part n with
    | none => some (s, refuse 0x62)
    | some t =>
      if t.st ≠ .error then some (s, refuse 0x60)
      else if bits p 8 2 = 1 then some ({ s with queues := s.queues.filter fun x => !(x.part == part && x.num == n) }, 0)
      else some (s.resumeQueue t (bits p 128 64))

/-- REPAIR_PACKET (R416, R417). -/
def execRepairPacket (part : Fin 4) (s : State) : Out :=
  s.controlPacket part 4 [(8, 2), (64, 16), (128, 64)] (fun p => decide (bits p 8 2 < 2)) fun s _ p _ => s.repair part.val p

/-- A queue record's checks (R298): RZ fields, LSZ, TMO. -/
def qrecOk (r : Nat) : Bool :=
  onlyFields r [(0, 71), (72, 32), (128, 256)] && decide (4 ≤ bits r 64 4) && bits r 88 16 != 0

/-- The context of a new queue: that of the partition's program image loaded last, else the firmware's (DESIGN CHOICE, log entry 14). -/
def State.queueContext (s : State) (part : Nat) : BitVec 16 :=
  match (s.images.filter fun i => i.part == part).getLast? with
  | some i => i.asid
  | none => 0#16

/-- QCREATE (R298, R418). -/
def execQcreate (part : Fin 4) (s : State) : Out :=
  s.controlPacket part 5 [(64, 16), (128, 64)] (fun _ => true) fun s _ p _ =>
    let n := bits p 64 16
    let a := bits p 128 64
    let asid := s.queueContext part.val
    let runs := (s.asFront part.val asid fun s => (s, s.frontRuns a 128 true true)).2
    match (if a % 128 = 0 ∧ a < 2 ^ 48 then runs else .fault) with
    | .ok ((key, _) :: _) =>
      if s.badBytes key 128 then some (s, refuse 0x64)
      else
        let r := memNat s.mem key 128
        if !qrecOk r then some (s, refuse 0x64)
        else if n = controlQueue ∨ (s.queueAt part.val n).isSome then some (s, refuse 0x65)
        else
          let q : Queue := {
            part := part.val, num := n, recKey := key, ring := .ofNat 64 (bits r 0 64), lsz := bits r 64 4, prio := bits r 68 3,
            tol := bits r 72 16, tmo := bits r 88 16, rd := 0, wr := bits r 192 64, st := .idle, res := false, cause := 0#8, pkt := 0,
            wsig := 0#64, raised := 0, asid := asid, since := s.wallNow, paused := 0 }
          let q := if 0 < q.wr then { q with st := .ready } else q
          some ((({ s with queues := s.queues ++ [q] }).mirror q).grant, 0)
    | _ => some (s, refuse 0x64)

/-- A Scruple partition block's share of the chip scratchpad (R318, R352): the offsets of a range, if it lies in a die's part. -/
def State.chipRange (s : State) (die : Bool) (a n : Nat) : Option (Nat × Nat) :=
  let o := a - Win.chip.base
  let (lo, hi) := if s.split then (if die then (0x4000000, 0x7000000) else (0, 2 ^ 24)) else (if die then (0x4000000, 0x10000000) else (0, 0x4000000))
  if Win.chip.base ≤ a ∧ lo ≤ o ∧ o + n ≤ hi then some (o, o + n) else none

/-- First index and number of a partition's sequences (R320). -/
def State.slice (s : State) (part : Nat) : Nat × Nat := if s.split then (1024 * part, 1024) else (0, 4096)

/-- The checks of a block image (R318, SBIMG of R418). -/
def State.blockOk (s : State) (part r : Nat) : Bool :=
  let pw := bits r 0 64
  let rg := bits r 64 64
  let fg := bits r 128 64
  let n := bits r 192 11
  bits r 203 53 == 0 && pw % 4096 == 0 && rg % 131072 == 0 && fg % 8 == 0 && decide (n ≤ 1535) &&
  (match s.chipRange false pw (4096 * (s.slice part).2) with
   | none => false
   | some _ =>
     n == 0 ||
     (match s.chipRange true rg (131072 * n), s.chipRange true fg (8 * n) with
      | some x, some y => decide (x.2 ≤ y.1) || decide (y.2 ≤ x.1)
      | _, _ => false))

/-- A source that a configuration packet names, read as .sc loads (R418). -/
def State.configRead (s : State) (part : Nat) (q : Queue) (a n : Nat) : State × Option Nat :=
  match s.frontRead part q.asid a n true with
  | (s, .ok (v, _)) => (s, some v)
  | (s, _) => (s, none)

/-- A write of an (F, G) word by the Scruple (R331): the word becomes good (R334), and the timestamp of the write is answered. -/
def State.fgWrite (s : State) (key clock f g : Nat) : State × Nat :=
  let (s, ts) := s.engineLine clock key
  ({ s with
      mem := memPutList s.mem key (natBytes (f % 2 ^ 32 + g % 2 ^ 32 * 2 ^ 32) 8)
      flips := s.flips.filter fun p => !(decide (key ≤ p.1) && decide (p.1 < key + 8))
      bad := (s.bad.map fun u => match u with
        | .bytes k n =>
          if decide (k < key + 8) && decide (key < k + n) then
            ([(k, key - k), (key + 8, k + n - (key + 8))].filter fun x => decide (0 < x.2)).map fun x => BadUnit.bytes x.1 x.2
          else [u]
        | _ => [u]).flatten }, ts)

/-- The Scruple writes the block: ring tags and (F, G) words are reset (R318). A part without a listed tag has position
0xFFFF_FFFF. -/
def State.putBlock (s : State) (part : Nat) (r : Nat) : State :=
  let n := bits r 192 11
  let rg := s.partKey part (bits r 64 64)
  let fg := s.partKey part (bits r 128 64)
  let s := { s with tags := s.tags.filter fun t => !(decide (rg ≤ t.1 * 128) && decide (t.1 * 128 < rg + 131072 * n)) }
  let s := (List.range n).foldl (fun s k => (s.fgWrite (fg + 8 * k) 0 0 0).1) s
  if h : part < 4 then { s with blocks := s.blocks.set part (.ofNat 256 r) } else s

/-- SCRBLK (R318, R418). -/
def execScrblk (part : Fin 4) (s : State) : Out :=
  s.controlPacket part 6 [(64, 64)] (fun _ => true) fun s q p _ =>
    let (lo, n) := s.slice part.val
    let busy := s.seqs.any fun x => decide (lo ≤ x.1) && decide (x.1 < lo + n) && bits x.2.toNat 288 2 != 0
    let waits := s.scrQ.any fun j => match j with | .round _ pt .. => pt == part.val | _ => false
    if busy || waits then some (s, refuse 0x66)
    else match s.configRead part.val q (bits p 64 64) 32 with
      | (s, none) => some (s, refuse 0x67)
      | (s, some r) => if s.blockOk part.val r then some (s.putBlock part.val r, 0) else some (s, refuse 0x67)

/-- RLLIMIT (R344, R418). -/
def execRllimit (part : Fin 4) (s : State) : Out :=
  s.controlPacket part 7 [(64, 11)] (fun _ => true) fun s _ p _ =>
    if s.split && part.val != 0 then some (s, refuse 0x68) else some ({ s with rllim := .ofNat 11 (bits p 64 11) }, 0)

/-- The checks of a peer-table entry (R418). -/
def State.peerOk (s : State) (part e : Nat) : Bool :=
  let mask := bits e 16 8
  let own := if s.split then 3 * 4 ^ part else 255
  onlyFields e [(0, 14), (16, 8), (64, 128)] && decide (bits e 0 13 ≤ 8191) &&
  (!e.testBit 13 || (mask != 0 && mask &&& own == mask))

/-- One entry replaces the earlier entry of its package; one with V = 0 removes it. -/
def State.putPeer (s : State) (part e : Nat) : State :=
  let k := part * 8192 + bits e 0 13
  let rest := s.peers.filter fun x => x.1 != k
  { s with peers := if e.testBit 13 then rest ++ [(k, .ofNat 256 e)] else rest }

/-- PEERSET (R418): every entry is checked before any is written. -/
def execPeerset (part : Fin 4) (s : State) : Out :=
  s.controlPacket part 8 [(64, 64), (128, 13)] (fun _ => true) fun s q p _ =>
    let n := bits p 128 13 + 1
    let a := bits p 64 64
    match (if a % 32 = 0 then s.configRead part.val q a (32 * n) else (s, none)) with
    | (s, none) => some (s, refuse 0x69)
    | (s, some v) =>
      let es := (List.range n).map fun i => bits v (256 * i) 256
      if es.all fun e => s.peerOk part.val e then some (es.foldl (fun s e => s.putPeer part.val e) s, 0) else some (s, refuse 0x69)

end Sys2Proof.Machine
end

