-- ==== Sys2Proof/Machine/Array.lean ====
section
/-! DEFINITION. What the matrix array's operations share: accumulator tiles, stream registers, nest configurations and what a nest
reaches (08_matrix.md R141 to R148, R152, R156). -/

namespace Sys2Proof.Machine

/-! ### Tiles (R141, R156) -/

/-- The number of tile a0–a7 of a core in the package: its own four, then its partner's. -/
def Core.tileOf (c : Core) (acc : Nat) : Nat := (if acc < 4 then c.id else c.id ^^^ 1) * 4 + acc % 4

/-- Accumulator names of the current mode (R30). -/
def State.accLimit (s : State) : Nat := if s.core.ctl.solo then 8 else 4

/-- The tiles that hold the low and the high halves of an FP64 pair with an even name. -/
def Core.halves (c : Core) (acc : Nat) : Nat × Nat :=
  if Config.oddHigh then (c.tileOf acc, c.tileOf (acc + 1)) else (c.tileOf (acc + 1), c.tileOf acc)

/-- The key of an element of a tile. -/
def tileKey (t i : Nat) : Nat := t * 4096 + i

/-- The elements of a list of cells at `n` keys from `k`. -/
def dense : Nat → Nat → Cells (BitVec 32) → List Nat
  | 0, _, _ => []
  | n + 1, k, [] => 0 :: dense n (k + 1) []
  | n + 1, k, (j, v) :: r => if j = k then v.toNat :: dense n (k + 1) r else 0 :: dense n (k + 1) ((j, v) :: r)

/-- The 4,096 elements of a tile, row by row. -/
def State.tileVals (s : State) (t : Nat) : List Nat :=
  dense 4096 (tileKey t 0) (s.tiles.filter fun p => decide (tileKey t 0 ≤ p.1) && decide (p.1 < tileKey t 4096))

/-- Write a whole tile; its uncorrectable error is gone (R399). -/
def State.setTile (s : State) (t : Nat) (xs : List Nat) : State :=
  let new := ((xs.take 4096).zipIdx.filter fun p => BitVec.ofNat 32 p.1 != 0#32).map fun p => (tileKey t p.2, BitVec.ofNat 32 p.1)
  { s with
    tiles := (s.tiles.filter fun p => decide (p.1 < tileKey t 0)) ++ new ++ s.tiles.filter fun p => decide (tileKey t 4096 ≤ p.1)
    bad := s.bad.filter fun u => u != .tile (t / 4) (t % 4) }

/-- The value of one tile element, and an uncorrectable error in a tile (R399). -/
def State.tileAt (s : State) (t i : Nat) : Nat := (cget 0#32 s.tiles (tileKey t i)).toNat
def State.badTile (s : State) (t : Nat) : Bool := s.bad.contains (.tile (t / 4) (t % 4))

/-- The format state of a tile (R156). -/
def State.tileFmt (s : State) (t : Nat) : TileFmt := cget .fp32 s.tileFmts t
def State.setTileFmt (s : State) (t : Nat) (f : TileFmt) : State := { s with tileFmts := cput .fp32 s.tileFmts t f }

/-! ### Streams (R144 to R146) -/

def stBase (w : Nat) : Nat := bits w 0 64
def stFmt (w : Nat) : Nat := bits w 64 4
def stMixed (w : Nat) : Bool := w.testBit 68
def stPtag (w : Nat) : Nat := bits w 69 2
def stUstr (w : Nat) : Nat := bits w 72 20
def stStr (w l : Nat) : Int := signed 24 (bits w (96 + 24 * l) 24)
def stSize (w : Nat) : Nat := unitBytes (stFmt w) (stMixed w) (stPtag w)

/-- A nonzero RZ field or a reserved value of a stream register (R144). -/
def badStream (w : Nat) : Bool :=
  w.testBit 71 || bits w 92 4 != 0 || bits w 240 16 != 0 || stPtag w == 3 || (stMixed w && stFmt w != 15) ||
  (stPtag w != 0 && (stFmt w != 15 || stMixed w))

/-! ### Nests (R147, R148) -/

def nestCnt (w l : Nat) : Nat := bits w (16 * l) 16
def nestRole (w l : Nat) : Nat := bits w (96 + 2 * l) 2
def nestAstr (w l : Nat) : Nat := bits w (128 + 4 * l) 4

/-- A nonzero RZ field or a reserved value of a nest configuration, or a K level with an accumulator stride (R147, R159). -/
def badNest (w : Nat) : Bool :=
  bits w 108 20 != 0 || bits w 152 104 != 0 ||
  (List.range 6).any fun l => nestRole w l == 3 || decide (7 < nestAstr w l) || (nestRole w l == 0 && nestAstr w l != 0)

/-- The product of the counts of the levels of a role: K_t, M_t or N_t. -/
def nestDim (w role : Nat) : Nat := (List.range 6).foldl (fun p l => if nestRole w l = role then p * nestCnt w l else p) 1

/-- Steps of a nest. -/
def nestSteps (w : Nat) : Nat := (List.range 6).foldl (fun p l => p * nestCnt w l) 1

/-- The counters of a step, level 0 fastest. -/
def counters (w k : Nat) : List Nat :=
  ((List.range 6).foldl (fun (a : List Nat × Nat) l => (a.1 ++ [a.2 % nestCnt w l], a.2 / nestCnt w l)) ([], k)).1

/-- The k-block index of some counters (R148). -/
def kBlock (w : Nat) (cs : List Nat) : Nat :=
  ((List.range 6).foldl (fun (a : Nat × Nat) l =>
    if nestRole w l = 0 then (a.1 + cs.getD l 0 * a.2, a.2 * nestCnt w l) else a) (0, 1)).1

/-- The accumulator index of some counters. -/
def stepAcc (w acc : Nat) (cs : List Nat) : Nat := (List.range 6).foldl (fun a l => a + cs.getD l 0 * nestAstr w l) acc

/-- The planes P and the chunks C of a stream's format (R145). -/
def stPlanes (w : Nat) : Nat :=
  match stFmt w with
  | 0 => 53
  | 1 => 24
  | 2 | 8 | 14 => 8
  | 7 | 13 => 2
  | 15 => if stMixed w then 7 else match stPtag w with | 0 => 2 | 1 => 4 | _ => 7
  | _ => 4
def stChunks (w : Nat) : Nat := match stFmt w with | 0 => 7 | 1 => 3 | _ => 1

/-- Every accumulator index that a nest can reach, as far as a name can lie in any mode. -/
def reach (w acc : Nat) : List Nat :=
  if nestDim w 1 = 0 ∨ nestDim w 2 = 0 then []
  else (List.range 6).foldl (fun xs l =>
    if nestRole w l = 0 ∨ nestAstr w l = 0 then xs
    else ((List.range (min 9 (nestCnt w l))).map fun i => xs.map fun x => x + i * nestAstr w l).flatten.foldl
      (fun a x => if a.contains x then a else a ++ [x]) []) [acc]

/-! ### Pairings (R152) -/

/-- The accumulator format and the window of a pairing. -/
def pairing (fa fb : Nat) : Option (TileFmt × Option Nat) :=
  if fa = 0 ∨ fb = 0 then (if fa = fb then some (.fp64, some 120) else none)
  else if fa = 8 ∧ fb = 8 then some (.int32, none)
  else if 9 ≤ fa ∧ 9 ≤ fb then some (.fp32, none)
  else if fa = 1 ∨ fb = 1 then some (.fp32, some 64)
  else some (.fp32, some 40)

/-- The pairing of a nest's streams. -/
def Nest.pair (n : Nest) : Option (TileFmt × Option Nat) := pairing (stFmt n.sa.bits.toNat) (stFmt n.sb.bits.toNat)
def Nest.fmt (n : Nest) : TileFmt := (n.pair.map Prod.fst).getD .fp32

/-- Accumulator names that a nest of a format writes. -/
def accNames (f : TileFmt) (xs : List Nat) : List Nat := if f = .fp64 then (xs.map fun x => [x, x + 1]).flatten else xs

/-- The cycles that one step of a nest occupies the array for (R34, R150, R151). -/
def Nest.cost (n : Nest) (solo : Bool) : Nat :=
  let a := n.sa.bits.toNat
  let b := n.sb.bits.toNat
  (if !n.ser || decide (stPlanes a ≤ stPlanes b) then stPlanes a * stChunks b else stPlanes b * stChunks a) * (if solo then 1 else 2)

/-- The tiles that an outstanding MGO may write (R163). -/
def Core.nestTiles (c : Core) (n : Nest) : List Nat := (accNames n.fmt (reach n.nest.toNat n.acc)).map c.tileOf

/-- The format state that a tile will have once the MGOs among some jobs have run (R156). -/
def State.fmtAfter (s : State) (js : List ArrJob) (t : Nat) : TileFmt :=
  js.foldl (fun f j =>
    match j with
    | .mgo n => if (s.core.nestTiles n).contains t then n.fmt else f
    | .mepi _ => f) (s.tileFmt t)

/-- The format state that a tile will have once every queued MGO has run. -/
def State.nextFmt (s : State) (t : Nat) : TileFmt := s.fmtAfter s.core.mtx.arrQ t

/-- The tiles that an MEPI behind some jobs will read; one that has begun has read its own. -/
def State.epiTiles (s : State) (before : List ArrJob) (e : Epi) : List Nat :=
  if e.left.isSome then []
  else [s.core.tileOf e.acc] ++ (if s.fmtAfter before (s.core.tileOf e.acc) = .fp64 then [s.core.tileOf (e.acc + 1)] else [])

/-- An outstanding MGO may write a tile; an outstanding MEPI will read it (R163). -/
def State.mgoWrites (s : State) (t : Nat) : Bool :=
  s.core.mtx.arrQ.any fun j => (match j with | .mgo n => (s.core.nestTiles n).contains t | .mepi _ => false)
def State.mepiReads (s : State) (t : Nat) : Bool :=
  s.core.mtx.arrQ.zipIdx.any fun j => (match j.1 with | .mgo _ => false | .mepi e => (s.epiTiles (s.core.mtx.arrQ.take j.2) e).contains t)

/-- An earlier CPYS of the core that is still to read one of some tiles (R192). -/
def State.cpysReads (s : State) (seq : Nat) (ts : List Nat) : Bool :=
  (s.core.port.cq0 ++ s.core.port.cq1).any fun j => decide (j.seq < seq) && (match j.op with
    | .cpys _ _ c t => bits c.toNat 42 2 == 2 && ts.contains t
    | _ => false)

/-- A core that does not own its array in solo mode has no M slot (R30, R169). -/
def State.ownArray (s : State) (f : Out) : Out := if s.core.ctl.solo && !s.core.ctl.own then s.illop else f

end Sys2Proof.Machine
end

