-- ==== Sys2Proof/Machine/Sampling.lean ====
section
/-! DEFINITION. Sampling records: CPYS and SMRG (10_sampling.md R182 to R195). A record is held as one little-endian number of 8,192
bits. -/

namespace Sys2Proof.Machine

/-! ### FP32 steps that gather flags -/

/-- A value with the flags gathered so far. -/
abbrev WithFl := Nat × Fl

def subF (a b : Nat) : WithFl := f32Add a (b ^^^ 0x80000000)
def fmaF (a b c : Nat) : WithFl := let (x, f) := (fF32.dec a).fma (fF32.dec b) (fF32.dec c); fF32.enc .rne x f
def exp2F (x : Nat) : WithFl := fex2 fF32 tabExp32 tabExpC32 x
def lg2F (x : Nat) : WithFl := flg2 fF32 tabLog32 tabQuot32 tabLogC32 x
def divF (a b : Nat) : WithFl := let (x, f) := (fF32.dec a).div (fF32.dec b); fF32.enc .rne x f

/-- x < y and x ≤ y for FP32 codes; false for a NaN. -/
def ltF (x y : Nat) : Bool := let a := fF32.dec x; let b := fF32.dec y; !a.isNan && !b.isNan && a.cmp b == .lt
def leF (x y : Nat) : Bool := let a := fF32.dec x; let b := fF32.dec y; !a.isNan && !b.isNan && a.cmp b != .gt
def eqF (x y : Nat) : Bool := leF x y && leF y x

def negInfF : Nat := 0xFF800000
def oneF : Nat := 0x3F800000
def noId : Nat := 0xFFFFFFFF

/-- One candidate outranks another: the larger key, and the lower id among equal keys (R186). -/
def outranks (k i k' i' : Nat) : Bool := ltF k' k || (eqF k k' && decide (i < i'))

/-! ### The record (R182) -/

def rcSeed (r : Nat) : Nat := bits r 0 64
def rcSeq (r : Nat) : Nat := bits r 64 32
def rcPos (r : Nat) : Nat := bits r 96 32
def rcVsz (r : Nat) : Nat := bits r 128 21
def rcVb (r : Nat) : Nat := bits r 160 21
def rcTemp (r : Nat) : Nat := bits r 192 32
def rcDraw (r : Nat) : Nat := bits r 224 2
def rcNcap (r : Nat) : Nat := bits r 226 5
def rcDone (r : Nat) : Bool := r.testBit 231
def rcFirst (r : Nat) : Nat := bits r 256 21
def rcCursor (r : Nat) : Nat := bits r 288 21
def rcCapId (r c : Nat) : Nat := bits r (1024 + 64 * c) 32
def rcCap (r c : Nat) : Nat := bits r (1056 + 64 * c) 32

/-- The capture ids in use. -/
def rcIds (r : Nat) : List Nat := (List.range (rcNcap r)).map (rcCapId r)

/-- The fields that CPYS and SMRG keep: flags, cursor, counts, winner, maximum and sum, the eight best, the captured logits, and the
lanes. -/
structure Kept where
  done   : Bool
  flg    : Fl
  cursor : Nat
  nan    : Nat
  ninf   : Nat
  wid    : Nat
  wkey   : Nat
  mfin   : Nat
  zfin   : Nat
  top    : List (Nat × Nat)
  caps   : List Nat
  lanes  : List (Nat × Nat)

def keptOf (r : Nat) : Kept :=
  { done := rcDone r, flg := .ofNat 8 (bits r 232 8), cursor := rcCursor r, nan := bits r 320 32, ninf := bits r 352 32,
    wid := bits r 384 32, wkey := bits r 416 32, mfin := bits r 448 32, zfin := bits r 480 32,
    top := (List.range 8).map fun e => (bits r (512 + 64 * e) 32, bits r (544 + 64 * e) 32),
    caps := (List.range 31).map (rcCap r),
    lanes := (List.range 32).map fun j => (bits r (3072 + 64 * j) 32, bits r (3104 + 64 * j) 32) }

/-- Numbers of `w` bits, the first lowest. -/
def packW (w : Nat) (xs : List Nat) : Nat := laneNat w xs

/-- A record with new kept fields; the other fields stay. -/
def putKept (r : Nat) (k : Kept) : Nat :=
  let head := bits r 0 231 + (if k.done then 2 ^ 231 else 0) + k.flg.toNat * 2 ^ 232 + bits r 256 32 * 2 ^ 256 + k.cursor * 2 ^ 288
  let mid := packW 32 [k.nan, k.ninf, k.wid, k.wkey, k.mfin, k.zfin]
  let pairs := fun (l : List (Nat × Nat)) => packW 32 (l.map fun p => [p.1, p.2]).flatten
  head + mid * 2 ^ 320 + pairs k.top * 2 ^ 512 + pairs (k.caps.zipIdx.map fun c => (rcCapId r c.2, c.1)) * 2 ^ 1024 +
  pairs k.lanes * 2 ^ 3072

/-- Every kept field but the cursor at its start (R183). -/
def Kept.restart (k : Kept) : Kept :=
  { k with done := false, flg := flNone, nan := 0, ninf := 0, wid := noId, wkey := negInfF, mfin := negInfF, zfin := 0,
           top := List.replicate 8 (noId, negInfF), caps := List.replicate 31 fF32.nanCode,
           lanes := List.replicate 32 (negInfF, 0) }

def Kept.flag (k : Kept) (f : Fl) : Kept := { k with flg := k.flg ||| f }

/-! ### Scale and noise (R184 to R186) -/

/-- The scale of a TEMP: nothing for one that faults, no scale in greedy mode, else the scale with its flags (R184). -/
def tempScale (t : Nat) : Option (Option WithFl) :=
  match fF32.dec t with
  | .fin neg m _ =>
    if m = 0 then some none
    else if neg then none
    else let (c, f) := divF 0x3FB8AA3B t; if (fF32.dec c).isFin then some (some (c, f)) else none
  | _ => none

/-- One round of Philox4×32 on the counter words and the key (R185). -/
def philoxRound (c : Nat × Nat × Nat × Nat) (k0 k1 : Nat) : Nat × Nat × Nat × Nat :=
  let p0 := c.1 * 0xD2511F53
  let p1 := c.2.2.1 * 0xCD9E8D57
  ((p1 / 2 ^ 32) ^^^ c.2.1 ^^^ k0, p1 % 2 ^ 32, (p0 / 2 ^ 32) ^^^ c.2.2.2 ^^^ k1, p0 % 2 ^ 32)

def philox (seed : Nat) (c : Nat × Nat × Nat × Nat) : Nat × Nat × Nat × Nat :=
  (List.range 10).foldl (fun c i =>
    philoxRound c ((bits seed 0 32 + i * 0x9E3779B9) % 2 ^ 32) ((bits seed 32 32 + i * 0xBB67AE85) % 2 ^ 32)) c

/-- The noise word of an id (R185). -/
def noiseWord (seed id draw pos seq : Nat) : Nat :=
  let w := philox seed (id / 4, draw, pos, seq)
  match id % 4 with
  | 0 => w.1
  | 1 => w.2.1
  | 2 => w.2.2.1
  | _ => w.2.2.2

/-- The uniform and the Gumbel term of an id (R185). -/
def uniformF (seed id draw pos seq : Nat) : Nat := (fF32.round .rtz false (2 * (noiseWord seed id draw pos seq / 256) + 1) (-25)).1
def gumbelF (seed id draw pos seq : Nat) : WithFl :=
  let (a, f) := lg2F (uniformF seed id draw pos seq)
  let (g, h) := lg2F (a ^^^ 0x80000000)
  (g, f ||| h)

/-! ### Lanes (R187 to R189) -/

/-- One scaled logit enters a lane (R188). -/
def laneStep (greedy : Bool) (l : Nat × Nat) (a : Nat) : (Nat × Nat) × Fl :=
  let (m, s) := l
  if greedy then ((if ltF m a then a else m, s), flNone)
  else if ltF m a then
    let (d, f) := subF m a
    let (x, g) := exp2F d
    let (t, h) := fmaF s x oneF
    ((a, t), f ||| g ||| h)
  else
    let (d, f) := subF a m
    let (x, g) := exp2F d
    let (t, h) := f32Add s x
    ((m, t), f ||| g ||| h)

/-- COMB (R189). -/
def comb (greedy : Bool) (x y : Nat × Nat) : (Nat × Nat) × Fl :=
  if x.1 = negInfF ∧ y.1 = negInfF then ((negInfF, 0), flNone)
  else
    let (h, l) := if leF y.1 x.1 then (x, y) else (y, x)
    if greedy then ((h.1, 0), flNone)
    else
      let (d, f) := subF l.1 h.1
      let (e, g) := exp2F d
      let (t, k) := fmaF l.2 e h.2
      ((h.1, t), f ||| g ||| k)

/-- One level of the pairwise tree, and the tree. -/
def combLevel (greedy : Bool) : List (Nat × Nat) → List (Nat × Nat) × Fl
  | x :: y :: r =>
    let (v, f) := comb greedy x y
    let (l, g) := combLevel greedy r
    (v :: l, f ||| g)
  | l => (l, flNone)

def combTree (greedy : Bool) : Nat → List (Nat × Nat) → (Nat × Nat) × Fl
  | 0, l => (l.headD (negInfF, 0), flNone)
  | n + 1, l =>
    let (l, f) := combLevel greedy l
    let (v, g) := combTree greedy n l
    (v, f ||| g)

/-- A record that covers the whole vocabulary is finished (R189). -/
def Kept.finish (r : Nat) (greedy : Bool) (k : Kept) : Kept :=
  if rcFirst r = 0 ∧ k.cursor = rcVsz r then
    let (v, f) := combTree greedy 5 k.lanes
    { k with mfin := v.1, zfin := if greedy then 0 else v.2, done := true }.flag f
  else k

/-- Insert into the list of the eight best. -/
def insertTop (a i : Nat) (l : List (Nat × Nat)) : List (Nat × Nat) :=
  (insertBy (fun x y => outranks x.2 x.1 y.2 y.1) (i, a) l).take 8

def sat32 (x : Nat) : Nat := min x (2 ^ 32 - 1)

/-- What CPYS does with one logit (R187). In sampling mode the key of every id is computed, whose flags count; a capture id wins nothing. -/
def Kept.logit (r : Nat) (scale : Option WithFl) (k : Kept) (i l : Nat) : Kept :=
  if rcVb r ≤ i then k
  else
    let c := (rcIds r).findIdx? (· == i)
    let k := match c with | some c => { k with caps := k.caps.set c l } | none => k
    let nan := { k with nan := sat32 (k.nan + 1) }
    let ninf := { k with ninf := sat32 (k.ninf + 1) }
    match fF32.dec l with
    | .nan _ => nan
    | .inf neg => if neg then ninf else nan
    | .fin _ _ _ =>
      let (a, f) := match scale with | some (c, _) => f32Mul l c | none => (l, flNone)
      match fF32.dec a with
      | .inf neg => (if neg then ninf else nan).flag f
      | _ =>
        let (v, g) := laneStep scale.isNone (k.lanes.getD (i % 32) (negInfF, 0)) a
        let k := { k with lanes := k.lanes.set (i % 32) v, top := insertTop a i k.top }.flag (f ||| g)
        if scale.isNone then k
        else
          let (n, f) := gumbelF (rcSeed r) i (rcDraw r) (rcPos r) (rcSeq r)
          let (key, g) := subF a n
          let k := k.flag (f ||| g)
          if c.isNone && outranks key i k.wkey k.wid then { k with wid := i, wkey := key } else k

/-- Record checks of R191 that need no address. -/
def badRecord (r : Nat) : Bool :=
  let ids := rcIds r
  bits r 149 11 != 0 || bits r 181 11 != 0 || bits r 240 16 != 0 || bits r 277 11 != 0 || bits r 309 11 != 0 || bits r 3008 64 != 0 ||
  bits r 5120 3072 != 0 || rcDraw r == 3 || decide (rcVsz r < rcVb r) || rcVsz r == 0 || decide (2 ^ 20 < rcVsz r) ||
  (List.zipWith (fun a b => decide (b ≤ a)) ids ids.tail).any id || (tempScale (rcTemp r)).isNone

def segSid (w : Nat) : Nat := bits w 0 21
def segN (w : Nat) : Nat := bits w 21 21
def segKind (w : Nat) : Nat := bits w 42 2

/-- A segment that the record does not admit (R191). -/
def badSegment (r w : Nat) : Bool :=
  badRecord r || (segSid w != rcCursor r && segSid w != rcFirst r) || decide (rcVsz r < segSid w + segN w) ||
  (rcDone r && segSid w != rcFirst r)

/-- The record after a segment (R183, R187 to R189, R192). -/
def addSegment (r w : Nat) (ls : List Nat) : Nat :=
  if segN w = 0 then r
  else
    let scale := (tempScale (rcTemp r)).getD none
    let k := keptOf r
    let k := if segSid w = rcFirst r then k.restart else k
    let k := k.flag ((scale.map Prod.snd).getD flNone)
    let k := ls.zipIdx.foldl (fun k l => k.logit r scale (segSid w + l.2) l.1) k
    putKept r ({ k with cursor := segSid w + segN w }.finish r scale.isNone)

/-- Whether SMRG refuses to join B into A (R193). -/
def badMerge (a b : Nat) : Bool :=
  badRecord a || badRecord b || bits a 0 149 != bits b 0 149 || rcVb a != rcVb b || bits a 192 39 != bits b 192 39 || rcIds a != rcIds b ||
  rcCursor a != rcFirst b || rcDone a

/-- Record A after SMRG (R193). -/
def merge (a b : Nat) : Nat :=
  let greedy := ((tempScale (rcTemp a)).getD none).isNone
  let x := keptOf a
  let y := keptOf b
  let ls := List.zipWith (comb greedy) x.lanes y.lanes
  let win := outranks y.wkey y.wid x.wkey x.wid
  let k : Kept := { x with
    flg := x.flg ||| y.flg
    cursor := y.cursor
    nan := sat32 (x.nan + y.nan)
    ninf := sat32 (x.ninf + y.ninf)
    wid := if win then y.wid else x.wid
    wkey := if win then y.wkey else x.wkey
    top := (sortBy (fun p q => outranks p.2 p.1 q.2 q.1) (x.top ++ y.top)).take 8
    caps := (List.range 31).map fun c =>
      if c < rcNcap a ∧ rcFirst b ≤ rcCapId a c then y.caps.getD c 0 else x.caps.getD c 0
    lanes := ls.map Prod.fst }
  putKept a (k.finish a greedy)

/-! ### CPYS and SMRG (R190 to R193) -/

/-- The checks of CPYS at issue (R191). -/
def State.badCpys (s : State) (b w : Nat) : Bool :=
  segKind w == 3 || bits w 44 20 != 0 ||
  -- an urgent context has no accumulators (R369; DEDUCED, log entry 132)
  (segKind w == 2 && (s.core.urg || decide (b / 512 ≠ 0) || decide (64 < segN w) || decide (s.accLimit ≤ b % 8) ||
    s.nextFmt (s.core.tileOf (b % 8)) != .fp32 || (s.core.ctl.solo && !s.core.ctl.own)))

def execCpys (o a b c : Src) (s : State) : Out :=
  s.cIssue o (s.badCpys (s.gS b).toNat (s.gS c).toNat) fun obj =>
    s.copyQueue obj (.cpys (s.gS a) (s.gS b) (s.gS c) (s.core.tileOf ((s.gS b).toNat % 8)))

def execSmrg (o a b : Src) (s : State) : Out := s.cIssue o false fun obj => s.copyQueue obj (.smrg (s.gS a) (s.gS b))

/-- The bytes of a record: aligned, in one window, no lane slice (R191). -/
def State.recordRuns (s : State) (a : Nat) (write : Bool) : ERes (List Run) :=
  if a % 64 ≠ 0 then .fault else s.extentRuns a 1024 write

/-- The source bytes of a segment in memory. -/
def State.segmentRuns (s : State) (b w : Nat) : ERes (List Run) :=
  let size := if segKind w = 0 then 4 else 2
  if segKind w = 2 ∨ segN w = 0 then .ok [] else if b % size ≠ 0 then .fault else s.extentRuns b (segN w * size) false

/-- The logits of a segment. -/
def State.logits (s : State) (b w t : Nat) (rs : List Run) : List Nat :=
  match segKind w with
  | 2 => (List.range (segN w)).map fun k => s.tileAt t (64 * (b / 8 % 64) + k)
  | 0 => elems' 4 (s.readRuns rs)
  | _ => (elems' 2 (s.readRuns rs)).map (· * 2 ^ 16)
where
  elems' (n : Nat) (bs : List Byte) : List Nat :=
    let x := bytesNat bs
    (List.range (bs.length / n)).map fun i => bits x (8 * n * i) (8 * n)

/-- Write a record in one piece and count 1,024 (R192). -/
def State.putRecord (s : State) (eng : Nat) (j : CopyJob) (clock : Nat) (reads rec : List Run) (r : Nat) : State :=
  let (s, c) := s.readClock clock (reads ++ rec)
  let (s, _, t) := s.writeRuns c rec (natBytes r 1024)
  s.copyEnd eng j (.ok t)

/-- A record operation goes on once it may write its record and has its bank cycles (R216, R312). -/
def State.recordGate (s : State) (eng : Nat) (j : CopyJob) (reads rec : List Run) (f : State → State) : State :=
  if s.heldHost ((j.obj, 16) :: rec) then s.heldEngine
  else
    let (s, go) := s.engineGate (2 + eng) j.toIssued ((j.obj, 16) :: reads ++ rec)
    if go then f s else s

/-- CPYS_RECORD_UPDATE: the oldest operation of an engine, a CPYS, is applied to its record (R191, R192). -/
def State.runCpys (s : State) (eng : Nat) : State :=
  match s.copyReady eng with
  | none => s
  | some (j, clock) =>
    match j.op with
    | .cpys a b c t =>
      let w := c.toNat
      let tile := segKind w == 2
      if tile && s.core.mtx.arrQ.any fun q => (match q with
          | .mgo n => decide (n.seq < j.seq) && (s.core.nestTiles n).contains t
          | .mepi _ => false) then s
      else s.under j.toIssued fun s =>
        match s.recordRuns a.toNat true, s.segmentRuns b.toNat w with
        | .ok rec, .ok src =>
          s.recordGate eng j src rec fun s =>
            if s.badRuns rec || s.badRuns src || (tile && s.badTile t) then s.copyEnd eng j .bad
            else
              let r := bytesNat (s.readRuns rec)
              if badSegment r w then s.copyEnd eng j .fault
              else s.putRecord eng j clock src rec (addSegment r w (s.logits b.toNat w t src))
        | .bad, _ | _, .bad => s.copyStop eng j .bad
        | x, y => s.copyStop eng j (.fault (x.xlate.or y.xlate))
    | _ => s

def execCpysRecordUpdate (eng : Fin 2) (s : State) : Out := .next (s.runCpys eng.val)

/-- SMRG_RECORD_UPDATE (R193). -/
def State.runSmrg (s : State) (eng : Nat) : State :=
  match s.copyReady eng with
  | none => s
  | some (j, clock) =>
    match j.op with
    | .smrg a b =>
      s.under j.toIssued fun s =>
        (match s.recordRuns a.toNat true, s.recordRuns b.toNat false with
         | .ok ra, .ok rb =>
           s.recordGate eng j rb ra fun s =>
             if s.badRuns ra || s.badRuns rb then s.copyEnd eng j .bad
             else
               let x := bytesNat (s.readRuns ra)
               let y := bytesNat (s.readRuns rb)
               if badMerge x y then s.copyEnd eng j .fault else s.putRecord eng j clock rb ra (merge x y)
         | .bad, _ | _, .bad => s.copyStop eng j .bad
         | x, y => s.copyStop eng j (.fault (x.xlate.or y.xlate)))
    | _ => s

def execSmrgRecordUpdate (eng : Fin 2) (s : State) : Out := .next (s.runSmrg eng.val)

end Sys2Proof.Machine
end

