-- ==== Sys2Proof/Machine/Spec.lean ====
section
/-! DEFINITION. Proposal queue, Scruple, draft-state region (19_speculation.md R318 to R339, 21_prog_rounds.md R344; the acceptance test of
10_sampling.md R196 to R201). -/

namespace Sys2Proof.Machine

/-! ### The sequence table (R320) -/

def sqSeed (e : Nat) : Nat := bits e 0 64
def sqSeqid (e : Nat) : Nat := bits e 64 32
def sqPosc (e : Nat) : Nat := bits e 96 32
def sqVsz (e : Nat) : Nat := bits e 128 21
def sqVb (e : Nat) : Nat := bits e 160 21
def sqTemp (e : Nat) : Nat := bits e 192 32
def sqAlpha (e : Nat) : Nat := bits e 224 16
def sqDepth (e : Nat) : Nat := bits e 240 5
def sqDmax (e : Nat) : Nat := bits e 245 5
def sqGen (e : Nat) : Nat := bits e 256 32
def sqStatus (e : Nat) : Nat := bits e 288 2
def sqDcore (e : Nat) : Nat := bits e 290 11
def sqDsp (e : Nat) : Nat := bits e 320 64

/-- An entry with a field replaced. -/
def putField (e lo n v : Nat) : Nat := e - bits e lo n * 2 ^ lo + v % 2 ^ n * 2 ^ lo

def State.seqAt (s : State) (i : Nat) : Nat := (cget 0#512 s.seqs i).toNat
def State.putSeq (s : State) (i e : Nat) : State := { s with seqs := cput 0#512 s.seqs i (.ofNat 512 e) }

/-- Whether an index lies in the slice of a partition (R320). -/
def State.inSlice (s : State) (part i : Nat) : Bool :=
  let (lo, n) := s.slice part
  decide (lo ≤ i) && decide (i < lo + n)

/-- A partition's block (R318). -/
def State.block (s : State) (part : Nat) : Nat := (s.blocks.toList.getD part 0#256).toNat

/-- The key of the window slot of a position (R318, R322). -/
def State.windowKey (s : State) (part i pos : Nat) : Nat :=
  s.partKey part (bits (s.block part) 0 64) + 4096 * (i - (s.slice part).1) + 256 * (pos % 16)

/-! ### PQPUSH and PQTAKE (R325, R326, R344) -/

/-- Places of the ready list (R344). -/
def State.readyLimit (s : State) : Nat :=
  let n := s.rllim.toNat
  if n = 0 ∨ 1024 < n then 1024 else n

/-- The accesses of earlier bundles alone. -/
def Port.earlier (p : Port) (unf : Nat) : Port :=
  { p with
    cohQ := p.cohQ.filter fun a => decide (a.issue < unf)
    sched := p.sched.filter fun a => decide (a.issue < unf)
    region := p.region.filter fun r => match r with | .vstv i .. | .vldv i .. => decide (i < unf) }

/-- The accesses of the core's earlier bundles have been performed. -/
def Core.earlierDone (c : Core) : Bool := { c with port := c.port.earlier c.unf }.engineFree c.port.seq c.unf

/-- A core waits for a place on the ready list, in the order of first tries (R325). -/
def State.awaitPlace (s : State) : Out :=
  let first := fun (a b : Nat × Nat) => decide (a.1 < b.1) || (a.1 == b.1 && decide (a.2 < b.2))
  let s := if s.waiters.any (fun w => w.2 == s.core.name) then s else { s with waiters := insertBy first (s.core.clock, s.core.name) s.waiters }
  .next (s.wait .readyList)

/-- Whether the core in focus may reserve a place now. -/
def State.mayReserve (s : State) : Bool :=
  decide (s.ready.length + s.posts.length < s.readyLimit) &&
  (match s.waiters with | [] => true | w :: _ => w.2 == s.core.name)

def execPqpush (a b : Src) (s : State) : Out :=
  let addr := (s.gS a).toNat
  let w := (s.gS b).toNat
  let seq := bits w 0 12
  let d := bits w 12 5
  let ra := if w.testBit 17 then 1 else 0
  let part := s.partOf s.core.id
  let n := (d + ra) * 256
  if s.core.urg || w / 2 ^ 18 != 0 || d == 0 || decide (16 < d + ra) || !s.inSlice part seq then s.illop
  else if addr % 64 ≠ 0 then s.trap 6 (.ofNat 64 addr)
  else match s.window s.core addr n with
    | none => s.trap 5 (.ofNat 64 (s.spanFault addr))
    | some (.spad, o) =>
      if s.core.prov then .next (s.wait .provisional)
      else if !s.mayReserve || !s.core.earlierDone || s.lockedRuns [(s.keyOf s.core .spad o, n)] then s.awaitPlace
      else
        let key := s.keyOf s.core .spad o
        let s := s.dropWaiter s.core.name
        if s.badBytes key n then
          let info := s.codeAddr s.core 6 addr
          (s.coreRecord 2 0xA info info).lateTrap 0xA info
        else
          let s := s.countRead key n
          let data := (List.range n).map fun i => s.codedByte (key + i)
          let ws := (List.range (d + ra)).map fun i =>
            let e := (data.drop (256 * i)).take 256
            (⟨s.windowKey part seq (bytesNat ((e.drop 4).take 4)), e⟩ : StorePiece)
          let word := w + s.core.ctl.lrfirst.toNat * 2 ^ 24 + s.core.ctl.lrlast.toNat * 2 ^ 32
          .next { s with posts := s.posts ++ [⟨s.core.name, ws, .ofNat 64 word, s.core.port.pts⟩] }
    | some _ => s.illop

/-- NOTICE_POST (R325): the oldest push's entries are written, and its notice enters the ready list with their largest timestamp. -/
def execNoticePost (s : State) : Out :=
  match s.posts with
  | [] => .next s
  | p :: r =>
    -- the writes of a definite instance, whatever the core that pushed runs by now
    let t := (s.focus p.core).modCore fun c => { c with prov := false }
    let (t, _, ts) := t.writeRuns p.clock (p.writes.map fun w => (w.key, w.data.length)) ((p.writes.map StorePiece.data).flatten)
    let t := (t.modCore fun c => { c with prov := (s.focus p.core).core.prov }).focus s.core.name
    .next { t with posts := r, ready := s.ready ++ [⟨p.word, ts⟩] }

/-- PQTAKE (R326): the list is read when the instruction issues. -/
def execPqtake (d : Dst) (dl : Delay) (s : State) : Out :=
  if s.core.urg then s.illop
  else if !s.landingRoom then s.illop
  else if s.core.prov then .next (s.wait .provisional)
  else
    let t := s.addLanding (delayCycles dl) 0 (.notice d) true
    match s.ready with
    | [] => .next (t.fill s.core.unf s.core.flow.slot 0#1024 true none true)
    | n :: r =>
      let v : Vec := .ofNat 1024 (n.word.toNat % 2 ^ 63 + 2 ^ 63 + n.stamp * 2 ^ 64)
      .next { t.fill s.core.unf s.core.flow.slot v true none true with ready := r }

/-! ### DEPTH and RBREAD (R335, R337) -/

/-- DEPTH (R337): the entry is read when the instruction issues. -/
def execDepth (d : Dst) (a : Src) (dl : Delay) (s : State) : Out :=
  let i := (s.gS a).toNat
  if s.core.urg || !s.inSlice (s.partOf s.core.id) i || !s.landingRoom then s.illop
  else
    let e := s.seqAt i
    let v := sqDepth e + sqDmax e * 2 ^ 8 + sqAlpha e * 2 ^ 16 + sqStatus e * 2 ^ 32
    .next ((s.addLanding (delayCycles dl) 0 (.scalar d 8 false) true).fill s.core.unf s.core.flow.slot (.ofNat 1024 v) true none true)

/-- RBREAD (R335): the oldest record is removed at issue. -/
def execRbread (d : Dst) (dl : Delay) (s : State) : Out :=
  if s.core.urg || !s.landingRoom then s.illop
  else if s.core.prov then .next (s.wait .provisional)
  else
    let v := s.core.port.rollback.headD 0#64
    let t := s.modPort fun p => { p with rollback := p.rollback.tail }
    .next ((t.addLanding (delayCycles dl) 2 (.scalar d 8 false) true).fill s.core.unf s.core.flow.slot (.ofNat 1024 v.toNat) true none true)

/-! ### The draft-state region (R330, R331, R333, R334) -/

/-- The ring part at an address: its key, the key of its slot's (F, G) word, and the position modulo 128 (R318, R330). -/
def State.ringPart (s : State) (a : Nat) : Option (Nat × Nat × Nat) :=
  let part := s.partOf s.core.id
  let b := s.block part
  let rg := bits b 64 64
  if rg ≤ a ∧ a < rg + 131072 * bits b 192 11 then
    some (s.partKey part a, s.partKey part (bits b 128 64) + 8 * ((a - rg) / 131072), (a - rg) / 1024 % 128)
  else none

/-- The checks of VSTV and VLDV at issue (R333). -/
def State.regionCheck (s : State) (a b : Src) (f : Nat → Nat → BitVec 32 → Out) : Out :=
  let addr := (s.gS a).toNat
  let w := (s.gS b).toNat
  if s.core.urg then s.illop
  else if addr % 128 ≠ 0 then s.trap 6 (.ofNat 64 addr)
  else match s.ringPart addr with
    | none => s.illop
    | some (key, fg, p) => if w % 128 ≠ p ∨ w = 2 ^ 32 - 1 ∨ 2 ^ 32 ≤ w then s.illop else f key fg (.ofNat 32 w)

/-- VSTV (R333): its tag is read in program order among the core's coherent accesses. -/
def execVstv (b a sb : Src) (k : Small) (s : State) : Out :=
  s.regionCheck a sb fun key fg pos =>
    if s.core.prov then .next (s.wait .provisional)
    else
      let v := (s.gV b).toNat
      let m := s.gK k
      let lanes := ((List.range 32).filter fun i => m.getLsbD i).map fun i => (i, natBytes (v >>> (32 * i)) 4)
      .next ((s.addCoh (.tag fg)).modPort fun p => { p with
        region := p.region ++ [.vstv s.core.unf s.core.flow.slot key fg pos none lanes] })

/-- VLDV (R334). -/
def execVldv (d : Dst) (a b : Src) (k : Small) (dl : Delay) (s : State) : Out :=
  s.regionCheck a b fun key fg pos =>
    if !s.landingRoom then s.illop
    else .next ((s.addLanding (delayCycles dl) 0 (.vldv d k) true).modPort fun p => { p with
      region := p.region ++ [.vldv s.core.unf s.core.flow.slot key fg pos] })

/-- The hidden tag of a part: a part without a listed tag has position 0xFFFF_FFFF (R330). -/
def noTag : BitVec 32 × BitVec 32 := (0xFFFFFFFF#32, 0#32)
def State.tagAt (s : State) (key : Nat) : BitVec 32 × BitVec 32 := cget noTag s.tags (key / 128)

/-- Validity of a part of a position (R330). -/
def State.partValid (s : State) (key fg : Nat) (pos : BitVec 32) : Bool :=
  let t := s.tagAt key
  t.1 == pos && (decide (pos.toNat < memNat s.mem fg 4) || t.2.toNat == memNat s.mem (fg + 4) 4)

/-- A part write at its place in the region order (R333): dropped when its tag is stale or the (F, G) word cannot be read (R334). -/
def State.writePart (s : State) (key fg : Nat) (pos gen : BitVec 32) (lanes : List (Nat × List Byte)) : State :=
  if lanes.isEmpty then s
  else if s.badBytes fg 8 then s.coreRecord 2 0xA (s.codeKey fg) 0#64
  else if gen.toNat ≠ memNat s.mem (fg + 4) 4 then s
  else
    let s := (lanes.foldl (fun s l => s.putBytes (key + 4 * l.1) l.2) (s.ownLine key)).refresh key
    { s with tags := cput noTag s.tags (key / 128) (pos, gen) }

/-- The address of an (F, G) word, from its key. -/
def State.fgAddr (s : State) (fg : Nat) : Nat :=
  let part := s.partOf s.core.id
  let b := bits (s.block part) 128 64
  b + (fg - s.partKey part b)

/-- DRAFT_PART_WRITE (R333, R334): the core's oldest operation of the region stands at its place: a write is performed or dropped, a read
takes its bytes and its validity. -/
def execDraftPartWrite (s : State) : Out :=
  match s.core.port.region with
  | [] => .next s
  | .vstv _ _ key fg pos gen lanes :: r =>
    (match gen with
     | none => .next s
     | some g => .next ((s.modPort fun p => { p with region := r }).writePart key fg pos g lanes))
  | .vldv issue slot key fg pos :: r =>
    if s.core.port.relBefore fun c => decide (c.issue < issue) || (c.issue == issue && decide (c.slot < slot)) then .next s
    else
    let s := s.modPort fun p => { p with region := r }
    let info := if s.badBytes fg 8 then some (s.codeAddr s.core 0 (s.fgAddr fg))
      else if s.badBytes key 128 then some (s.codeAddr s.core 0 (Win.chip.base + s.chipOffset (key - keyChip 0))) else none
    .next (s.fill issue slot (.ofNat 1024 (memNat s.mem key 128)) (s.partValid key fg pos) info true)

/-! ### SQCFG (R338) -/

/-- SQCFG (R338): the image goes to the Scruple, and the instruction issues once it has answered. -/
def execSqcfg (d : Dst) (a b : Src) (s : State) : Out :=
  let i := (s.gS a).toNat
  let addr := (s.gS b).toNat
  let part := s.partOf s.core.id
  if s.core.urg || !s.inSlice part i then s.illop
  else s.checked (s.checkWin addr 64 64) fun x =>
    if x.1 = .lane then s.illop
    else s.checked (s.checkKey x.1 x.2 false false) fun _ =>
      if s.core.prov then .next (s.wait .provisional)
      else match s.core.port.reply with
        | some (.value v) => (s.modPort fun p => { p with reply := none }).scalar 1 d v
        | some (.trap t) => .next ((s.modPort fun p => { p with reply := none }).takeTrap t)
        | none =>
          let queued := s.scrQ.any fun j => match j with | .config c .. => c == s.core.name | _ => false
          if queued || !s.core.earlierDone then .next (s.wait .reply)
          else
            let j := ScrJob.config s.core.name part i (.ofNat 64 addr) s.issuedNow s.bundleStores
            .next ({ s with scrQ := s.scrQ ++ [j] }.wait .reply)

/-- The core that an identifier in the layout of `CORE` names, if the package has it (R320). -/
def coreNamed (x : Nat) : Option Nat :=
  let i := bits x 0 10
  if x.testBit 10 then (if i < 192 then some (1024 + i) else none) else (if i < 768 then some i else none)

/-- Whether an address is 0 or the (F, G) word of a slot (R338). -/
def State.dspOk (s : State) (part x : Nat) : Bool :=
  let b := s.block part
  let fg := bits b 128 64
  x == 0 || (decide (fg ≤ x) && (x - fg) % 8 == 0 && decide (x - fg < 8 * bits b 192 11))

/-- The refusal of an image, if any (R338). -/
def State.sqcfgCode (s : State) (part i e : Nat) : Option Nat :=
  let serves := (s.seqs.filter fun x => x.1 != i && sqStatus x.2.toNat != 0 && sqDcore x.2.toNat == sqDcore e).length
  if bits e 149 11 != 0 || bits e 181 11 != 0 || bits e 250 6 != 0 || bits e 301 19 != 0 || bits e 420 92 != 0 ||
     decide (2 ≤ sqStatus e) || sqVsz e == 0 || decide (2 ^ 20 < sqVsz e) || decide (sqVsz e < sqVb e) ||
     sqDmax e == 0 || decide (16 < sqDmax e) || sqDepth e == 0 || decide (sqDmax e < sqDepth e) || (coreNamed (sqDcore e)).isNone ||
     !s.dspOk part (sqDsp e) then some 0x30
  else if sqStatus e = 1 ∧ 256 ≤ serves then some 0x31
  else none

/-- An accepted image (R338): the entry, its (F, G) word, and the old rollback record is withdrawn. -/
def State.applySeq (s : State) (part i e clock : Nat) : State :=
  let old := s.seqAt i
  let g := (sqGen old + 1) % 2 ^ 32
  let f := (sqPosc e + 1) % 2 ^ 32
  let e := putField (putField (putField e 256 32 g) 384 32 f) 416 4 0
  let s := s.modAt (sqDcore old) fun c => { c with port := { c.port with
    rollback := c.port.rollback.filter fun r => r.toNat % 4096 != i } }
  let s := s.putSeq i e
  if sqDsp e = 0 then s else (s.fgWrite (s.partKey part (sqDsp e)) clock f g).1

/-- An image that the Scruple reads as a copy engine would (R340): it is applied or refused, and the core is answered. -/
def State.answerSeq (s : State) (part i addr clock : Nat) (rs : List Run) (own : List StorePiece) : State :=
  if s.badRuns rs then
    let info := s.codeAddr s.core 6 addr
    (s.coreRecord 2 0xA info info).modPort fun p => { p with reply := some (.trap ⟨0xA#8, s.core.flow.slot, info, false, true⟩) }
  else
    let keys := (rs.map fun r => (List.range r.2).map fun x => r.1 + x).flatten
    let e := bytesNat ((keys.zip (s.readRuns rs)).map fun x => (bufByte own x.1).getD x.2)
    let (s, c) := s.readClock clock rs
    let (s, v) := match s.sqcfgCode part i e with
      | some code => (s, refusal code)
      | none => (s.applySeq part i e c, 0#64)
    s.modPort fun p => { p with reply := some (.value v) }

/-- SQCFG_APPLY (R338): the Scruple's next job is an image: it is applied or refused, and the core is answered. -/
def execSqcfgApply (s : State) : Out :=
  match s.scrQ with
  | .config n part i addr j own :: r =>
    .next (s.on n fun s =>
      match s.extentRuns addr.toNat 64 false with
      | .ok rs =>
        let (s, go) := s.engineGate 5 j rs
        if !go then s
        else { s with scrQ := r }.answerSeq part i addr.toNat (j.clock.getD s.core.port.pts) rs own
      | _ => { s with scrQ := r })
  | _ => .next s

/-! ### SQRUN (R328) -/

/-- SQRUN (R328): a full queue of 64 rounds freezes the domain. -/
def execSqrun (a b : Src) (s : State) : Out :=
  let addr := (s.gS a).toNat
  if s.core.urg then s.illop
  else s.checked (s.checkObj (s.gS b).toNat) fun x =>
    s.checked (s.checkWin addr 64 64) fun y =>
      if y.1.scheduled then s.illop
      else s.checked (s.checkKey y.1 y.2 false false) fun _ =>
        if s.core.prov then .next (s.wait .provisional)
        else if 64 ≤ (s.scrQ.filter fun j => match j with | .round .. => true | _ => false).length then .next (s.wait .engineQueue)
        else
          let j := ScrJob.round s.core.name (s.partOf s.core.id) (.ofNat 64 addr) x.2 { s.issuedNow with clock := none } 0 none []
          .next (({ s with scrQ := s.scrQ ++ [j] }.modPort fun p => { p with seq := p.seq + 1 }).fixClocks)

/-! ### The acceptance test (R196 to R201) -/

/-- A window entry (R322): token, position, used pairs. -/
def peTok (e : Nat) : Nat := bits e 0 32
def pePos (e : Nat) : Nat := bits e 32 32
def pePairs (e : Nat) : List (Nat × Nat) :=
  ((List.range 31).map fun k => (bits e (64 * k + 64) 32, bits e (64 * k + 96) 32)).filter fun p => p.1 != noId

/-- Outcome codes (R201). -/
def oRj : Nat := 1
def oRjPad : Nat := 2
def oRjRange : Nat := 3
def oQbad : Nat := 4
def oNanLogit : Nat := 5
def oNoCand : Nat := 6
def oRecBad : Nat := 7

/-- A probability in units of 2^-149; nothing for one that is negative, NaN or infinite. -/
def probUnits (q : Nat) : Option Nat :=
  match fF32.dec q with
  | .fin neg m e => if neg && m != 0 then none else some (m <<< (e + 149).toNat)
  | _ => none

/-- Whether a q list is bad (R196 step 2). -/
def badList (e r : Nat) : Bool :=
  let ps := pePairs e
  let ids := ps.map Prod.fst
  let us := ps.map fun p => probUnits p.2
  !decide ids.Nodup || !ids.all (fun i => (rcIds r).contains i) || !ids.contains (peTok e) || us.any Option.isNone ||
  decide (2 ^ 149 + 2 ^ 139 < (us.filterMap id).sum)

/-- The checks before any position is tested (R196): the code that ends the round. Records and entries are those of positions 1 on. -/
def roundAbort (t d : Nat) (es rs : List Nat) : Option Nat :=
  let c := sqPosc t
  let recBad := rs.zipIdx.any fun x =>
    let r := x.1
    !rcDone r || rcSeed r != sqSeed t || rcSeq r != sqSeqid t || rcTemp r != sqTemp t || rcPos r != (c + x.2 + 1) % 2 ^ 32 ||
    rcDraw r != (if x.2 < d then 1 else 2) || (x.2 == d && rcNcap r != 0)
  if es.zipIdx.any (fun x => pePos x.1 != (c + x.2 + 1) % 2 ^ 32) then some oRecBad
  else if recBad || (tempScale (sqTemp t)).isNone then some oRecBad
  else if ((es.take d).zip rs).any fun x => badList x.1 x.2 then some oQbad
  else if rs.any fun r => (keptOf r).nan != 0 then some oNanLogit
  else if rs.any fun r => bits r 512 32 == noId then some oNoCand
  else none

/-- The target probability of an id, and its status (R197). -/
def targetProb (scale : Option WithFl) (r i : Nat) : Nat × Nat :=
  if rcVsz r ≤ i then (0, oRjRange)
  else if rcVb r ≤ i then (0, oRjPad)
  else match scale with
    | none => (if i = bits r 512 32 then oneF else 0, 0)
    | some (c, _) =>
      let k := keptOf r
      let l := k.caps.getD ((rcIds r).findIdx (· == i)) 0
      if l = negInfF then (0, 0)
      else (((divF (exp2F (subF (f32Mul l c).1 k.mfin).1).1 k.zfin).1), 0)

/-- The replacement token of a rejection in sampling mode (R199), if there is a candidate. -/
def replacement (t : Nat) (scale : Option WithFl) (e r : Nat) : Option Nat :=
  let k := keptOf r
  let k0 := (f32Add k.mfin (lg2F k.zfin).1).1
  let start := if k.wid = noId then none else some (k.wkey, k.wid)
  let best := ((pePairs e).filter fun p => decide (p.1 < rcVb r)).foldl (fun (b : Option (Nat × Nat)) p =>
    let w := (subF (targetProb scale r p.1).1 p.2).1
    if !ltF 0 w then b
    else
      let key := (subF (f32Add (lg2F w).1 k0).1 (gumbelF (sqSeed t) p.1 1 (rcPos r) (sqSeqid t)).1).1
      match b with
      | none => some (key, p.1)
      | some (k', i') => if outranks key p.1 k' i' then some (key, p.1) else b) start
  best.map Prod.snd

/-- What a round decides: accepted positions, token, codes of the positions, and the code that ended it; `stop` is the rejected
position, `abort` whether the round ends with nothing. -/
structure Judged where
  acc   : Nat
  token : Nat
  outs  : List Nat
  code  : Nat
  stop  : Option Nat
  abort : Bool
  deriving DecidableEq, Repr

def abortedRound (d code : Nat) : Judged := ⟨0, noId, List.replicate d code, code, none, true⟩

/-- Test one position (R198): its status. -/
def testPosition (t : Nat) (scale : Option WithFl) (e r : Nat) : Nat :=
  let x := peTok e
  let (p, st) := targetProb scale r x
  if st ≠ 0 then st
  else match scale with
    | none => if x = bits r 512 32 then 0 else oRj
    | some _ =>
      let q := (((pePairs e).find? fun y => y.1 == x).map Prod.snd).getD 0
      let u := uniformF (sqSeed t) 0 0 (rcPos r) (sqSeqid t)
      if ltF (f32Mul u q).1 p then 0 else oRj

/-- A round of `d` positions (R196 to R200), tested in order. -/
def judge (t d : Nat) (es rs : List Nat) : Judged :=
  match roundAbort t d es rs with
  | some code => abortedRound d code
  | none =>
    let scale := (tempScale (sqTemp t)).getD none
    let sts := ((es.take d).zip rs).map fun x => testPosition t scale x.1 x.2
    match sts.findIdx? (· != 0) with
    | some j =>
      let r := rs.getD j 0
      (match (if scale.isNone then some (bits r 512 32) else replacement t scale (es.getD j 0) r) with
       | none => abortedRound d oNoCand
       | some tok => ⟨j, tok, sts.take (j + 1), sts.getD j 0, some (j + 1), false⟩)
    | none =>
      let r := rs.getD d 0
      ⟨d, if scale.isNone then bits r 512 32 else (keptOf r).wid, [], 0, none, false⟩

/-! ### Rounds (R327 to R329, R332) -/

/-- Depth control (R329): α and d after a round. -/
def State.depthControl (s : State) (t d a : Nat) : Nat × Nat :=
  let sample := 65536 * a / d
  let al := ((sqAlpha t : Int) + ((sample : Int) - sqAlpha t) / 8).toNat
  let td := bits s.depthtab.toNat (4 * (al / 4096)) 4 + 1
  let d0 := sqDepth t
  let d1 := if td < d0 then td else min td (d0 + 2)
  (al, min (max d1 1) (sqDmax t))

/-- The table entry after a round, with the frontier and the generation (R328). -/
def State.seqAfter (s : State) (t d : Nat) (ra : Bool) (es : List Nat) (j : Judged) : Nat :=
  let c := sqPosc t
  let g := sqGen t
  let put := fun (c' f g al dp st : Nat) =>
    let e := putField (putField (putField t 96 32 c') 384 32 f) 256 32 g
    putField (putField (putField (putField e 224 16 al) 240 5 dp) 288 2 st) 416 4 j.code
  if j.abort then put c (c + 1) (g + 1) (sqAlpha t) 1 2
  else
    let (al, dp) := s.depthControl t d j.acc
    match j.stop with
    | some k => put (c + k) (c + k) (g + 1) al dp 1
    | none =>
      let c' := c + d + 1
      if ra && peTok (es.getD d 0) == j.token then put c' (c + d + 2) g al dp 1
      else put c' (c + d + 1) (if ra then g + 1 else g) al dp 1

/-- The rollback record of a sequence (R332). -/
def rollbackWord (i t : Nat) : Word := .ofNat 64 (i + bits t 384 32 * 2 ^ 16 + sqGen t % 2 ^ 15 * 2 ^ 48 + 2 ^ 63)

/-- A rollback record is placed at DCORE, after the (F, G) write (R332). The event orders the operations of the region alone: a plain load
may still return the older word (R237, R343). -/
def State.placeRollback (s : State) (i t : Nat) : State :=
  let n := sqDcore t
  let s := if (s.coreAt n).isSome then s else s.putCore (s.recordOf n)
  let w := rollbackWord i t
  s.modAt n fun c =>
    let old := c.port.rollback
    let rb := if old.any fun r => r.toNat % 4096 == i then old.map fun r => if r.toNat % 4096 = i then w else r else old ++ [w]
    let c := c.latchEvent
    { c with port := { c.port with rollback := rb } }

/-- The result record of an entry (R327). -/
def resultRecord (i t : Nat) (j : Judged) : Nat :=
  i + j.code * 2 ^ 16 + j.acc * 2 ^ 20 + j.token * 2 ^ 32 + packW 4 j.outs * 2 ^ 64 + sqPosc t * 2 ^ 128 + bits t 384 32 * 2 ^ 160 +
  sqGen t * 2 ^ 192 + sqAlpha t * 2 ^ 224 + sqDepth t * 2 ^ 240

/-- The runs of the sampling records of an entry, if they are where R182 wants them. -/
def State.roundRecords (s : State) (recs d : Nat) : Option (List (List Run)) :=
  let l := (List.range (d + 1)).map fun j => s.recordRuns (recs + 1024 * j) false
  if l.all fun x => match x with | .ok _ => true | _ => false then
    some (l.filterMap fun x => match x with | .ok r => some r | _ => none)
  else none

/-- One entry of a round (R328): the state with table, (F, G) word and rollback record written, the result record, and the clock, which the
(F, G) write has moved: what is written after it stands after it in T. -/
def State.roundEntry (s : State) (part clock : Nat) (seen : List Nat) (w : Nat) : State × Nat × Nat :=
  let i := bits w 0 12
  let d := bits w 12 5
  let ra := w.testBit 17
  let t := s.seqAt i
  match (if !s.inSlice part i || sqStatus t != 1 || seen.contains i || bits w 18 46 != 0 || bits w 128 128 != 0 || d == 0 ||
            decide (sqDmax t < d) || (d == 16 && ra) then none
         else s.roundRecords (bits w 64 64) d) with
  | none => (s, i + oRecBad * 2 ^ 16, clock)
  | some recs =>
    let slots := (List.range (if ra then d + 1 else d)).map fun j => (s.windowKey part i (sqPosc t + j + 1), 256)
    let bad := s.badRuns slots || recs.any s.badRuns
    let es := slots.map fun r => bytesNat (s.readRuns [r])
    let j := if bad then abortedRound d oRecBad else judge t d es (recs.map fun r => bytesNat (s.readRuns r))
    let s := if bad then s.record (6 * 4096) 2 0xA (codedPart (s.codeAddr s.core 0 (bits w 64 64))) 0#64 else s
    let t' := s.seqAfter t d ra es j
    let s := s.putSeq i t'
    let (s, c) := if sqDsp t' = 0 then (s, clock) else s.fgWrite (s.partKey part (sqDsp t')) clock (bits t' 384 32) (sqGen t')
    (s.placeRollback i t', resultRecord i t' j, max clock c)

/-- A round's header: where the results go, and how many entries; nothing for one that is not processed (R328). -/
def State.roundHeader (s : State) (addr : Nat) : ERes (Nat × Nat) :=
  (s.extentRuns addr 64 false).bind fun rs =>
    if s.badRuns rs then .bad
    else
      let h := bytesNat (s.readRuns rs)
      let n := bits h 64 9
      if bits h 73 439 ≠ 0 ∨ n = 0 ∨ 256 < n ∨ bits h 0 64 % 64 ≠ 0 then .fault
      else (s.extentRuns (bits h 0 64) (64 * n) true).bind fun _ =>
        (s.extentRuns addr (64 + 32 * n) false).bind fun _ => .ok (bits h 0 64, n)

/-- The 32 bytes of an entry of a round. -/
def State.roundWord (s : State) (addr e : Nat) : ERes Nat :=
  (s.extentRuns (addr + 64 + 32 * e) 32 false).bind fun rs => if s.badRuns rs then .bad else .ok (bytesNat (s.readRuns rs))

/-- The runs of an extent that a round touches; none when it cannot be reached. -/
def State.runsIf (s : State) (a n : Nat) : List Run := match s.extentRuns a n false with | .ok rs => rs | _ => []

/-- The header of a round, as it was read before its first entry. -/
def State.headerOf (s : State) (addr : Nat) (h : Option (Nat × Nat)) : ERes (Nat × Nat) :=
  match h with | some x => .ok x | none => s.roundHeader addr

/-- What the next entry of a round reads, and where its result goes. -/
def State.roundRuns (s : State) (part addr e : Nat) (h : Option (Nat × Nat)) : List Run × List Run :=
  match s.headerOf addr h, s.roundWord addr e with
  | .ok (res, _), .ok w =>
    let i := bits w 0 12
    let d := bits w 12 5
    let slots := (List.range (d + 1)).map fun j => (s.windowKey part i (sqPosc (s.seqAt i) + j + 1), 256)
    ((if h.isSome then [] else s.runsIf addr 64) ++ s.runsIf (addr + 64 + 32 * e) 32 ++ slots ++ ((s.roundRecords (bits w 64 64) d).getD []).flatten, s.runsIf (res + 64 * e) 64)
  | _, _ => (s.runsIf addr 64, [])

/-- The next entry of the Scruple's round is processed, as a copy-engine operation of its issuing core would see memory (R328, R340). -/
def State.runRound (s : State) (part addr obj clock e : Nat) (h : Option (Nat × Nat)) (seen : List Nat) (r : List ScrJob)
    (next : Nat → Option (Nat × Nat) → List Nat → ScrJob) : State :=
  let stop := fun (s : State) (cause : Nat) (x : Option Word) => { s with scrQ := r }.engineFault obj cause x
  match s.headerOf addr h, s.roundWord addr e with
  | .ok (res, n), .ok w =>
    let (s, c) := s.readClock clock (s.roundRuns part addr e h).1
    let (s, rec, c) := s.roundEntry part c seen w
    let (s, ts) := match s.extentRuns (res + 64 * e) 64 true with
      | .ok rs => let (s, _, t) := s.writeRuns c rs (natBytes rec 64); (s, t)
      | _ => (s, 0)
    let s := { s with scrQ := if e + 1 < n then next (max c ts) (some (res, n)) (bits w 0 12 :: seen) :: r else r }
    s.engineDone obj 64 ts
  | .bad, _ | _, .bad => stop s 0xA none
  | x, y => stop s 9 (x.xlate.or y.xlate)

/-- ROUND_ENTRY_PROCESS (R328): the Scruple's next job is a round. -/
def execRoundEntryProcess (s : State) : Out :=
  match s.scrQ with
  | .round n part addr obj j e h seen :: r =>
    (match j.clock with
     | none => .next s
     | some clock =>
       .next (s.on n fun s =>
         if !s.core.engineFree j.seq j.issue || s.core.port.objBefore obj j then s
         else s.under j fun s =>
           let runs := s.roundRuns part addr.toNat e h
           let (s, go) := s.engineGate 5 (j.part (e + 1)) ((obj, 16) :: runs.1 ++ runs.2)
           if go then s.runRound part addr.toNat obj clock e h seen r fun c h z => .round n part addr obj { j with clock := some c } (e + 1) h z
           else s))
  | _ => .next s

end Sys2Proof.Machine
end

