-- ==== Sys2Proof/Machine/System.lean ====
section
/-! DEFINITION. System calls, translation invalidation, IDLE, LOCKW, traps and returns (22_privilege_translation.md R350, R364 to R367;
26_errors_traps.md R404 to R412, R431). -/

namespace Sys2Proof.Machine

/-- An operation with a least level (R350). -/
def State.needs (s : State) (level : Nat) (f : Out) : Out := if s.level < level then s.privTrap 0 else f

/-! ### SYSC, TRAP, BKPT (R364, R411) -/

def execSysc (a : Src) (s : State) : Out := if s.level = 2 then s.illop else s.trapNext 0xC (s.gS a)
def execTrap (code : BitVec 17) (s : State) : Out := s.trapNext 0xB (.ofNat 64 code.toNat)
def execBkpt (s : State) : Out := s.trapNext 0xD (.ofNat 64 s.core.flow.pc.toNat)

/-! ### TLBI (R365) -/

/-- The scope of a TLBI: the issuer's partition, or the package (R365). -/
def State.tlbiScope (s : State) (c : Core) : Bool := !s.split || s.partOf c.id == s.partOf s.core.id

/-- Clusters of the scope. -/
def State.tlbiCluster (s : State) (cl : Nat) : Bool := !s.split || cl == s.partOf s.core.id || cl == 4

/-- Coherent accesses of a core that may use a dropped entry are performed (R365); what stands behind a held ST.REL stays. -/
def flushCoh : Nat → State → State
  | 0, s => s
  | n + 1, s =>
    match execCoherentAccessPerform s with
    | .next t => (match execComAtomicApply t with | .next u => flushCoh n u | _ => t)
    | _ => s

/-- Drop entries in every TLB of the scope; walks under way start again (R365). The cluster TLB of the draft die is shared by the
partitions, whose entries carry their own tags. -/
def State.tlbDrop (s : State) (p : TlbEntry → Bool) (mine : BitVec 16 → Bool) : State :=
  let s := s.modAll fun c =>
    if s.tlbiScope c then
      { c with port := { c.port with tlb := c.port.tlb.filter fun e => !p e, walkFault := [], walkBad := [] } }
    else c
  { s with ctlb := s.ctlb.filter fun e => !(s.tlbiCluster e.1 && p e.2 && (mine e.2.asid || e.1 != 4)) }

/-- Operations of the scope that may have used a dropped entry and are not yet performed (R365): copies that have begun, accesses of other
cores, writes of provisional instances, which enter T only with their commit, and firings that have begun. -/
def State.tlbiBusy (s : State) (p : TlbEntry → Bool) : Bool :=
  let used := fun (asid : BitVec 16) (a n : Nat) => decide (a < 2 ^ 48) && p ⟨asid, false, a, n, 0, false, false, false⟩
  let cs := s.cores.filter s.tlbiScope
  cs.any (fun c => (c.port.cq0 ++ c.port.cq1).any (fun j => j.moved != 0) ||
    (c.name != s.core.name && !(c.port.cohQ.isEmpty && c.port.comQ.isEmpty))) ||
  (s.launches.any fun l => (!s.split || l.part == s.partOf s.core.id) && used l.asid 0 (2 ^ 48) &&
    l.insts.any fun i => i.buf.any fun x => decide (x.key < 2 ^ 57)) ||
  s.tileTab.any fun e =>
    let w := e.image.toNat
    cs.any (fun c => c.name == e.core) && (e.firing.any Firing.fired) &&
    (used e.job.asid (teSrc w) (teLen w) || (teTargets w).any fun t => used e.job.asid t.2 (teLen w))

/-- The common part of TLBI: the wait of FENCE.X at package scope, the drop, and the wait for what used a dropped entry. -/
def State.tlbi (s : State) (p : TlbEntry → Bool) : Out :=
  if s.fencePending .package true then .next (s.wait .fence)
  else
    let part := s.partOf s.core.id
    let mine := fun (a : BitVec 16) => !s.split || bits a.toNat 14 2 == part
    let names := (s.cores.filter s.tlbiScope).map Core.name
    let s := names.foldl (fun s n => s.on n fun s => flushCoh (s.core.port.cohQ.length + s.core.port.comQ.length) s) s
    let s := s.showRelaxed.tlbDrop p mine
    if s.tlbiBusy p then .next (s.wait .fence) else .next s

/-- The checks of an ASID operand (R365). -/
def State.tlbiAsidOk (s : State) (b : Nat) : Bool := decide (b < 2 ^ 16) && (!s.split || bits b 14 2 == s.partOf s.core.id)

def execTlbiVa (a b : Src) (s : State) : Out :=
  let va := (s.gS a).toNat
  let t := (s.gS b).toNat
  s.needs 1
    (if !s.tlbiAsidOk t then s.illop
     else if 2 ^ 48 ≤ va then s.trap 5 (.ofNat 64 va)
     else s.tlbi fun e => e.hits (.ofNat 16 t) va)

def execTlbiAsid (b : Src) (s : State) : Out :=
  let t := (s.gS b).toNat
  s.needs 1 (if !s.tlbiAsidOk t then s.illop else s.tlbi fun e => e.asid.toNat == t && !e.g)

def execTlbiAll (s : State) : Out := s.needs 1 (s.tlbi fun _ => true)

/-! ### IDLE and LOCKW (R366, R367) -/

/-- IDLE: waits as WFE does, and ends too when a pre-emption request reaches the core; waking takes 64 cycles. -/
def execIdle (s : State) : Out :=
  s.needs 1 (s.waiting
    (let wake := fun (s : State) =>
      if s.core.tasks.wait = .atIdle then s.modFlow fun f => { f with skip := max f.skip 64 } else s
     if s.core.ctl.latch then ((wake s).modCtl fun c => { c with latch := false }).goOn
     else if s.core.exc.pend then (wake s).goOn
     else s.idleAt .atIdle))

/-- Whether a staging slot at or above a number is reserved: slots are numbered from way 23 downward, 2,048 to a way. -/
def State.slotsFrom (s : State) (n : Nat) : Bool := s.tileTab.any fun e => e.slots.any fun i => decide (n ≤ i)

/-- LOCKW (R220, R367): the verify L2's lines in the ways that are locked are written to HBM and leave it. -/
def execLockw (d : Dst) (a : Src) (s : State) : Out :=
  let n := (s.gS a).toNat
  s.needs (if s.split then 2 else 1)
    (if 6 < n || s.core.prov then s.illop
     else if n < s.ways ∧ s.slotsFrom (2048 * n) then s.scalar 1 d (refusal 0x40)
     else { s with ways := n, l2v := s.l2v.filter fun x => decide (x.way < 24 - n) }.scalar 1 d 0#64)

/-! ### Trap entry, forwarding, return and resume (R406, R409, R410, R412) -/

/-- TRAP_ENTRY (R406): the drain is over, and the handler is entered. -/
def execTrapEntry (s : State) : Out :=
  match s.core.exc.entering with
  | none => .next s
  | some t =>
    if s.core.prov || s.core.forwards || !s.core.still || s.core.stopped then .next s else .next (s.modCore fun c => c.enter t)

/-- The core goes on at a word at its level (R409): in its handler, or with its gang as after ERET. -/
def Core.resumeWord (c : Core) (w : BitVec 12) : Core :=
  { c with
    exc := { c.exc with entering := none, drains := 0 }
    unf := c.unf - c.exc.drains
    flow := { c.flow with pc := w, nextPc := w, stall := none, prefetch := [] }
    trapFrozen := c.exc.shadow.isNone
    resumeAt := some (c.clock + 4) }

/-- The launch of the core in focus ends: its queue enters Error (R409). A core of no launch just ends. -/
def State.endForTrap (s : State) (code : Nat) : State :=
  let n := s.core.name
  match s.launchOf s.core with
  | none => s.endCore n false
  | some l =>
    match s.queueAt l.part l.qnum with
    | some _ => s.queueError l.part l.qnum code l.pkt
    | none => s.endLaunch l

/-- The address that the record of a trap gives (R401): the one that `TRAPINFO` holds, else the word of the bundle. -/
def State.trapAddr (s : State) (code : BitVec 8) (info : Word) (w : BitVec 12) : Word :=
  if code = 4#8 then .ofNat 64 (info.toNat % 2 ^ 48)
  else if code = 5#8 ∨ code = 6#8 then s.codeAddr s.core 0 info.toNat
  else if code = 9#8 ∨ code = 0xA#8 then codedPart info
  else noAddr w.toNat

def execEret (s : State) : Out :=
  s.needs 1
    (if s.core.exc.level.toNat < s.core.exc.plvl.toNat then s.illop
     else if !s.core.drained then .next (s.wait .drain)
     else .next (s.modCore Core.eret))

/-- TRAP_RESUME (R412): once no core of the gang is in a handler, all of them go on in one cycle. -/
def execTrapResume (s : State) : Out :=
  let cs := s.pick s.gang
  if !cs.any (fun c => c.trapFrozen) || cs.any (fun c => c.exc.shadow.isSome || c.exc.entering.isSome) then .next s
  else
    let r := cs.foldl (fun r c => max r (max c.clock (c.resumeAt.getD 0))) 0
    .next (s.gang.foldl (fun s n => s.modAt n fun c => { c with trapFrozen := false, resumeAt := none, clock := r }) s)

/-! ### Package reset (R368, R388, R431) -/

/-- What a package reset leaves: every register at its reset value, flash, fuses and kept records as they are, memory as it is (log
entry 15), and the boot still to come. -/
def State.rebooted (s : State) : State :=
  { State.reset with
    core := s.resetCore 0, others := [s.resetCore 1024], grade := s.grade
    mem := s.mem, flips := s.flips, repairs := s.repairs, portsUp := s.portsUp, inbox := s.inbox, fresh := s.fresh, srcSeq := s.srcSeq
    bad := s.bad.filter fun u => (match u with | .bytes _ _ => true | _ => false)
    boot := { Boot.reset with slotA := s.boot.slotA, slotB := s.boot.slotB, rec0 := s.boot.rec0, rec1 := s.boot.rec1, svn := s.boot.svn,
                              kept := s.boot.kept, power := s.boot.power, mgmtOut := s.boot.mgmtOut, hostOut := s.boot.hostOut } }

def execPackageReset (s : State) : Out := .next s.rebooted

/-- An error record that a reset keeps. -/
def State.keepRecord (s : State) (src cls cause : Nat) (addr detail : Word) : State :=
  let r : ErrRec := ⟨.ofNat 16 src, cget 0 s.srcSeq src, .ofNat 4 cls, .ofNat 8 cause, addr, s.core.clock, detail⟩
  { s.record src cls cause addr detail with boot := { s.boot with kept := s.boot.kept ++ [r] } }

end Sys2Proof.Machine
end

