-- ==== Sys2Proof/Machine/Preempt.lean ====
section
/-! DEFINITION. Pre-emption: PRMT, RSUM, the stop, the urgent run, full-state save (23_preemption.md R369 to R381). -/

namespace Sys2Proof.Machine

/-! ### Victims (R372, R379) -/

/-- The core that a victim core word names: an enabled program core of the issuer's partition. -/
def State.victimCore (s : State) (w : Nat) : Option Nat :=
  if w / 2 ^ 11 ≠ 0 then none
  else match coreNamed w with
    | none => none
    | some i => if i % 1024 = 0 ∨ s.gradeOf i = 0#8 ∨ s.partOf i ≠ s.partOf s.core.id then none else some i

/-- The gang that a core belongs to: the names of its cores, if it holds a released gang. -/
def State.victims (s : State) (i : Nat) : List Nat :=
  match s.coreAt i with
  | none => []
  | some c => if c.launch.isSome && ((s.instOf c).map Inst.loaded).getD false then s.gangOf c else []

/-- The pre-emption that a core is a victim of. -/
def State.preemptOf (s : State) (n : Nat) : Option Preempt := s.preempts.find? fun p => p.victims.contains n

/-- The image of an urgent launch: its context is the image's (DESIGN CHOICE, log entry 16). -/
def State.urgentImage (s : State) (part r : Nat) : Option Image := s.images.find? fun i => i.part == part && i.num == lrImage r

/-- The refusal of a PRMT, if any (R379), in the order of its table. -/
def State.prmtCode (s : State) (part r i : Nat) : Option Nat :=
  let vs := s.pick (s.victims i)
  let img := s.urgentImage part r
  let asid := (img.map Image.asid).getD s.core.exc.asid
  match s.lrCode part asid r with
  | some c => some c
  | none =>
    let gangs := (img.map Image.gangs).getD []
    if vs.any fun c => !c.exc.allow then some 0x50
    else if vs.any fun c => c.exc.pend then some 0x51
    else if gangs.length ≠ 1 ∨ gangs.any (fun g => !g.urgent) ∨ lrSrc r ≠ 0 ∨
        (vs.length ≠ 0 ∧ gangs.any fun g => decide (vs.length < g.cols * g.rows)) then some 0x52
    else if vs.any fun c => c.prov then some 0x53
    else if vs.isEmpty then some 0x55
    else none

/-- The queue number that stands for no queue: urgent launches belong to none. -/
def noQueue : Nat := 65536

def execPrmt (d : Dst) (a b : Src) (s : State) : Out :=
  let addr := (s.gS b).toNat
  s.needs 1
    (match s.victimCore (s.gS a).toNat with
     | none => s.illop
     | some i =>
       s.frontKey addr 64 false false fun key => s.readRecord addr key 64 fun r =>
         let part := s.partOf s.core.id
         match s.prmtCode part r i with
         | some code => s.scalar 1 d (refusal code)
         | none =>
           let vs := s.victims i
           let asid := ((s.urgentImage part r).map Image.asid).getD s.core.exc.asid
           let (t, l) := s.addLaunch part asid noQueue 0 none r 0 (some i)
           let t := vs.foldl (fun t n => t.modAt n fun c => { c with exc := { c.exc with pend := true } }) t
           ({ t with preempts := t.preempts ++ [(⟨vs, l.slot, false, false, 0, none, ((s.coreAt i).bind Core.launch).map Prod.fst⟩ : Preempt)] } : State).scalar 1 d 0#64)

/-! ### The stop (R372) -/

/-- PREEMPTION_STOP: the cores of the gang stop at a bundle boundary: no lock span is open, and the gang is not trap-frozen (R410). -/
def execPreemptionStop (s : State) : Out :=
  let cs := s.pick s.gang
  if !s.core.exc.pend || s.core.stopped || s.core.urg || cs.any (fun c =>
      c.flow.lock.isSome || c.trapFrozen || c.exc.shadow.isSome || c.exc.entering.isSome) then .next s
  else
    let s := s.gang.foldl (fun s n => s.modAt n fun c => { c with stopped := true }) s
    .next { s with preempts := s.preempts.map fun p => if p.victims.contains s.core.name then
      { p with since := s.core.clock, wall := some (s.wallOf s.core.clock) } else p }

/-! ### The urgent run (R377, R378) -/

/-- The urgent context of a victim core: the victim's identity, release cycle and slot map (R370), words 3,840 to 4,095 of its
instruction memory alone (R369). -/
def urgentCore (l : Launch) (img : Image) (g : GangImg) (old : Core) (inst vc r : Nat) : Core :=
  let c := loadedCore l img g old inst 0 vc r false
  { c with
    imem := c.imem.filter fun w => decide (3840 ≤ w.1)
    ctl := { c.ctl with releasedAt := old.ctl.releasedAt }, port := { c.port with rollback := [] } }

/-- The reserved 64 KiB of a core's scratchpad keep nothing from one urgent launch to the next (R371): they are as memory that nothing has
written. -/
def State.dropReserved (s : State) (id : Nat) : State :=
  let a := keySpad id (sliceSize (decide (1024 ≤ id)) - 65536)
  { s with mem := s.mem.filter fun p => !(decide (a ≤ p.1) && decide (p.1 < a + 65536)) }

/-- URGENT_RELEASE (R377): once every victim core has stopped, the urgent gang is loaded, one virtual core on each victim core, and
released on one common cycle. A launch without an instance is complete then. -/
def execUrgentRelease (s : State) : Out :=
  match s.preemptOf s.core.id with
  | none => .next s
  | some p =>
    let vs := s.pick p.victims
    match s.launchAt p.launch with
    | none => .next s
    | some l =>
      if p.released || p.done || !vs.all (fun c => c.stopped) then .next s
      else match l.insts.find? (fun i => i.st == .waitDef), (s.imageOf l.part l.asid l.image) with
      | none, _ => .next (s.completeLaunch l)
      | some i, some img =>
        (match img.gangs with
         | g :: _ =>
             let r := (vs.map Core.clock).foldl max s.core.clock
             let users := vs.filter fun c => decide (c.ctl.vcore.toNat < g.cols * g.rows)
             let cores := users.map fun c => (0, c.ctl.vcore.toNat, c.id + 65536)
             let s := users.foldl (fun s c => (s.dropReserved c.id).clearRegs (c.id + 65536)) s
             let s := s.presetPbo l cores
             let s := users.foldl (fun s c => s.putCore (urgentCore l img g c i.idx c.ctl.vcore.toNat r)) s
             let s := s.modInst l.slot i.idx fun i => { i with st := .runDef, loaded := true, cores := cores }
             let s := p.victims.foldl (fun s n => s.modAt n fun c => { c with exc := { c.exc with active := true } }) s
             .next { s with preempts := s.preempts.map fun x => if x == p then { x with released := true } else x }
         | [] => .next s)
      | _, _ => .next s

/-- URGENT_COMPLETE (R378): the urgent cores have completed; the completion word is written once every instance has run. -/
def execUrgentComplete (s : State) : Out :=
  match s.preemptOf s.core.id with
  | none => .next s
  | some p =>
    match s.launchAt p.launch with
    | none => .next s
    | some l =>
      match l.insts.find? (fun i => i.st == .runDef) with
      | none => .next s
      | some i =>
        let names := i.cores.map fun c => c.2.2
        let cs := s.pick names
        if !cs.all Core.finished then .next s
        else
          let s := names.foldl (fun s n => s.on n State.showRelaxed) s
          let s := if names.contains s.core.name then s.focus s.core.id else s
          let s := { s with others := s.others.filter fun c => !names.contains c.name }
          let s := s.modInst l.slot i.idx fun i => { i with st := .complete, cores := [] }
          let s := s.modLaunch l.slot fun l => { l with top := (cs.map Core.released).foldl max l.top }
          match s.launchAt l.slot with
          | none => .next s
          | some l =>
            if s.launchDone l then .next (s.completeLaunch l)
            else .next { s with preempts := s.preempts.map fun x => if x == p then { x with released := false } else x }

/-! ### RSUM (R380) -/

/-- A pre-emption of a launch ends at a wall-clock time: the time for which the timeouts of its queue were paused, and by the pre-emptions that
are left no longer are, does not count (R376). -/
def State.addPause (s : State) (p : Preempt) (now : Nat) : State :=
  let after := { s with preempts := s.preempts.filter fun x => x != p }
  match p.slot.bind s.launchAt with
  | none => after
  | some l =>
    let a := (s.pausedSince l.part l.qnum).getD now
    let z := (after.pausedSince l.part l.qnum).getD now
    { after with
      launches := after.launches.map fun (x : Launch) =>
        if x.part == l.part && x.qnum == l.qnum then { x with paused := x.paused + (z - max a x.since) } else x
      queues := after.queues.map fun (q : Queue) =>
        if q.part == l.part && q.num == l.qnum then { q with paused := q.paused + (z - max a q.since) } else q }

/-- The victims of a pre-emption go on in one common cycle with the bundles that were due. -/
def State.resumeVictims (s : State) (p : Preempt) : State :=
  let vs := s.pick p.victims
  let r := (vs.map Core.clock).foldl max s.core.clock
  let s := s.addPause p (s.wallOf r)
  -- of an EBAR's cycles to its release, those up to here that were frozen count again
  let ebar := fun (c : Core) (a : Nat) => a + (r - max p.since (a - 2 - spread ((s.members c).map fun m => m.2.2 % 65536)))
  p.victims.foldl (fun s n => s.modAt n fun c =>
    { c with
      exc := { c.exc with pend := false }
      tasks := { c.tasks with releaseAt := if c.tasks.wait = .atEbar then c.tasks.releaseAt.map (ebar c) else c.tasks.releaseAt }
      stopped := false, clock := r }) s

def execRsum (d : Dst) (a : Src) (s : State) : Out :=
  s.needs 1
    (match s.victimCore (s.gS a).toNat with
     | none => s.illop
     | some i =>
       match s.preemptOf i with
       | none => s.scalar 1 d (refusal 0x55)
       | some p =>
         if (s.pick p.victims).any fun c => c.exc.active then s.scalar 1 d (refusal 0x54)
         else if !p.done then .next (s.wait .transition)
         else (s.resumeVictims p).scalar 1 d 0#64)

/-! ### Full-state save (R381) -/

/-- A key of a scheduled memory of one of some cores. -/
def ownKey (ids : List Nat) (k : Nat) : Bool :=
  ids.any fun i =>
    (decide (keySpad i 0 ≤ k) && decide (k < keySpad (i + 1) 0)) || (decide (keySlice i 0 ≤ k) && decide (k < keySlice (i + 1) 0)) ||
    (decide (keyLane i 0 ≤ k) && decide (k < keyLane (i + 1) 0))

def BadUnit.owned (ids : List Nat) : BadUnit → Bool
  | .bytes k _ => ownKey ids k
  | .imem c _ | .reg c _ | .tile c _ | .soft c _ => ids.contains c

/-- Nothing of R375 is left on a stopped core, nor an epilogue that has begun (R374). -/
def Core.settled (c : Core) : Bool :=
  c.stopped && !c.exc.active && c.port.cq0.isEmpty && c.port.cq1.isEmpty &&
  (c.port.nq.all fun j => match j.op with | .recvadd .. => false | _ => true) &&
  c.mtx.arrQ.all fun j => match j with | .mepi e => e.left.isNone | .mgo _ => true

/-- A save of an instance can begin (R381): with R375 done, and no round of its cores before the Scruple (DEDUCED, log entry 153). -/
def State.canSave (s : State) (i : Inst) : Bool :=
  let ns := i.cores.map fun c => c.2.2
  (s.pick ns).all Core.settled && !s.firingSet ns && !s.scrQ.any fun j => ns.any fun n => j.ofCore n

/-- Within 1 ms of an instance's last restore it is neither saved nor restored (R381). -/
def State.tooSoon (s : State) (restored : Option Nat) : Bool :=
  match restored with
  | none => false
  | some t => decide (s.wallNow < t + msec 1)

/-- The cores whose tiles some cores use: in solo mode those of the other core of the pair too (R141). -/
def tileIds (cs : List Core) : List Nat := (cs.map fun c => if c.ctl.solo then [c.id, c.id ^^^ 1] else [c.id]).flatten

/-- An instance's state goes to monitor memory, and its cores are free. What a core held modified is written to its home. -/
def State.saveInst (s : State) (slot idx : Nat) (i : Inst) : State :=
  let ns := i.cores.map fun c => c.2.2
  let ts := tileIds (s.pick ns)
  let mine := fun (u : BadUnit) => (match u with | .tile c _ => ts.contains c | _ => u.owned ns)
  let s := s.owned.foldl (fun s x => if ns.any (fun n => n + 1 == x.2) then s.atHome x.1 true else s) s
  let v : Saved := {
    cores := s.pick ns
    tiles := s.tiles.filter fun p => ts.contains (p.1 / 16384)
    fmts := s.tileFmts.filter fun p => ts.contains (p.1 / 4)
    mem := s.mem.filter fun p => ownKey ns p.1
    bad := s.bad.filter mine
    notices := s.notices.filter fun n => ns.contains n.core
    stops := s.preempts.filter fun p => p.victims.any ns.contains
    wanted := false }
  let s := ns.foldl (fun s n => (s.dropWaiter n).modAt n fun c =>
    { s.resetCore c.id with
      fw := false, clock := c.clock, imem := c.imem, tasks := { Tasks.reset with wait := .exited }
      port := { Port.reset with rollback := c.port.rollback } }) s
  ({ s with
      saved := s.saved ++ [v], bad := s.bad.filter fun u => !mine u
      notices := s.notices.filter fun n => !ns.contains n.core
      preempts := s.preempts.filter fun p => !p.victims.any ns.contains }).modInst slot idx fun i => { i with cores := [], save := false }

/-- FULL_STATE_SAVE (R381): the monitor saves the frozen instance of the core in focus and frees its cores. A request that comes too soon, or
while something of R374 or R375 is left, is held. -/
def execFullStateSave (s : State) : Out :=
  match s.core.launch, s.instOf s.core with
  | some (slot, idx), some i =>
    let frozen := (s.pick (i.cores.map fun c => c.2.2)).all fun c => c.stopped && !c.exc.active
    if i.cores.isEmpty || s.core.urg || !(frozen || i.save) then .next s
    else if s.tooSoon i.restored || !s.canSave i then .next (s.modInst slot idx fun i => { i with save := true })
    else .next (s.saveInst slot idx i)
  | _, _ => .next s

/-! ### Full-state restore (R381) -/

/-- A physical key of a scheduled memory, on the core to which its core has moved. -/
def movedKey (mv : Nat → Nat) (k : Nat) : Nat :=
  if 2 ^ 60 ≤ k then keyLane (mv ((k - 2 ^ 60) / 2 ^ 15)) ((k - 2 ^ 60) % 2 ^ 15)
  else if 2 ^ 59 ≤ k then keySlice (mv ((k - 2 ^ 59) / 2 ^ 22)) ((k - 2 ^ 59) % 2 ^ 22)
  else if 2 ^ 58 ≤ k then keySpad (mv ((k - 2 ^ 58) / 2 ^ 22)) ((k - 2 ^ 58) % 2 ^ 22)
  else k

def SchedKind.moved (mv : Nat → Nat) : SchedKind → SchedKind
  | .load b ps a => .load b (ps.map fun p => { p with key := movedKey mv p.key }) a
  | .store ps => .store (ps.map fun p => { p with key := movedKey mv p.key })
  | .send k l (.here c d) ctr q => .send (movedKey mv k) l (.here (mv c) (movedKey mv d)) ctr q
  | .send k l d ctr q => .send (movedKey mv k) l d ctr q
  | .bo k e a => .bo (movedKey mv k) e a

def Chunk.moved (mv : Nat → Nat) (c : Chunk) : Chunk :=
  { c with dest := mv c.dest, key := movedKey mv c.key, sender := c.sender.map fun s => (mv s.1, s.2) }

def StreamReg.moved (mv : Nat → Nat) (r : StreamReg) : StreamReg := { r with bind := r.bind.map fun b => (movedKey mv b.1, b.2) }

def ArrJob.moved (mv : Nat → Nat) : ArrJob → ArrJob
  | .mgo n => .mgo { n with sa := n.sa.moved mv, sb := n.sb.moved mv }
  | .mepi e => .mepi e

/-- A saved core on the core to which it is restored: every result is unchanged (R18, R381). -/
def Core.moved (mv : Nat → Nat) (c : Core) : Core :=
  { c with
    id := mv c.id
    port := { c.port with
      grants := []
      sched := c.port.sched.map fun a => { a with kind := a.kind.moved mv }
      chunks := c.port.chunks.map (Chunk.moved mv)
      events := c.port.events.map fun e => (e.1, mv e.2)
      nq := c.port.nq.map fun j => { j with obj := movedKey mv j.obj } }
    mtx := { c.mtx with streams := c.mtx.streams.map (StreamReg.moved mv), arrQ := c.mtx.arrQ.map (ArrJob.moved mv) }
    tasks := { c.tasks with
      deque := c.tasks.deque.map fun e => { e with owner := mv e.owner }
      frames := c.tasks.frames.map fun f => { f with owner := mv f.owner }
      taken := c.tasks.taken.map fun e => { e with owner := mv e.owner } } }

def BadUnit.moved (mv : Nat → Nat) : BadUnit → BadUnit
  | .bytes k n => .bytes (movedKey mv k) n
  | .imem c w => .imem (mv c) w
  | .reg c r => .reg (mv c) r
  | .tile c t => .tile (mv c) t
  | .soft c r => .soft (mv c) r

/-- Where each core of a saved instance goes: its own core, if every one of them is free, else cores that R68 gives its gangs (R381). -/
def State.restorePlace (s : State) (v : Saved) : Option (List (Nat × Nat)) :=
  let held := s.heldIds fun _ _ => true
  let ids := v.cores.map fun c => c.id
  let free := fun (is : List Nat) => is.all fun i => !held.contains i && s.loadable i
  let old := ids.map fun i => (i, i)
  if free (tileIds v.cores) then some old
  else
    match v.cores.head?.bind fun c => c.launch.bind fun l => s.launchAt l.1 with
    | none => none
    | some l =>
      match s.imageOf l.part l.asid l.image with
      | none => none
      | some img =>
        let t := s.placeGangs l.part (s.definiteOrder l) (img.gangs.zipIdx.map fun x => (x.2, x.1)) held
        let new := v.cores.map fun c => (c.id, ((t.1.find? fun p => p.1 == c.ctl.gang.toNat && p.2.1 == c.ctl.vcore.toNat).map fun p => p.2.2).getD c.id)
        if t.2.isEmpty && free (new.map Prod.snd) then some new else none

/-- The saved instance comes back, pre-empted as it was. A rollback record that came in the meantime has set the latch (R287, R373). -/
def State.restoreInst (s : State) (v : Saved) (rest : List Saved) (place : List (Nat × Nat)) : State :=
  let mv := fun (n : Nat) => match place.find? fun p => p.1 == n with
    | some p => p.2
    | none => ((place.find? fun p => p.1 == n ^^^ 1).map fun p => p.2 ^^^ 1).getD n
  let now := ((s.pick (place.map Prod.snd)).map Core.clock).foldl max s.now
  let ids := v.cores.map fun c => mv c.id
  let ts := (tileIds v.cores).map mv
  let s := v.cores.foldl (fun s x =>
    let roll := ((s.coreAt x.id).map fun o => o.port.rollback).getD []
    let x' := x.moved mv
    (s.putCore { x' with
      clock := now
      ctl := { x'.ctl with slotmap := s.gradeOf x'.id, latch := x'.ctl.latch || decide (x.port.rollback.length < roll.length) }
      port := { x'.port with rollback := roll } }).pairMode x'.id x'.ctl.solo) s
  let s := { s with
    saved := rest
    tiles := v.tiles.foldl (fun m p => cput 0#32 m (mv (p.1 / 16384) * 16384 + p.1 % 16384) p.2) (s.tiles.filter fun p => !ts.contains (p.1 / 16384))
    tileFmts := v.fmts.foldl (fun m p => cput .fp32 m (mv (p.1 / 4) * 4 + p.1 % 4) p.2) (s.tileFmts.filter fun p => !ts.contains (p.1 / 4))
    mem := v.mem.foldl (fun m p => memPut m (movedKey mv p.1) p.2) (s.mem.filter fun p => !ownKey ids p.1)
    bad := (s.bad.filter fun u => !u.owned ids) ++ v.bad.map (BadUnit.moved mv)
    notices := s.notices ++ v.notices.map fun n => { n with core := mv n.core }
    preempts := s.preempts ++ v.stops.map fun p => { p with victims := p.victims.map mv } }
  match v.cores.head?.bind Core.launch with
  | none => s
  | some (slot, idx) => s.modInst slot idx fun i => { i with
      cores := v.cores.map fun x => (x.ctl.gang.toNat, x.ctl.vcore.toNat, mv x.id), restored := some (s.wallOf now) }

/-- FULL_STATE_RESTORE (R381): the oldest saved instance comes back; a request that comes too soon, or before its cores are free, is held. -/
def execFullStateRestore (s : State) : Out :=
  match s.saved with
  | [] => .next s
  | v :: rest =>
    let last := match v.cores.head?.bind Core.launch with
      | some (slot, idx) => ((s.launchAt slot).bind fun l => l.insts.find? fun i => i.idx == idx).bind Inst.restored
      | none => none
    match (if s.tooSoon last then none else s.restorePlace v) with
    | none => .next { s with saved := { v with wanted := true } :: rest }
    | some place => .next (s.restoreInst v rest place)

end Sys2Proof.Machine
end

