-- ==== Sys2Proof/Machine/Recovery.lean ====
section
/-! DEFINITION. Bank repair and scrubbing (26_errors_traps.md R395, R397, R398, R399). -/

namespace Sys2Proof.Machine

/-- The repair state of a store, whether it is listed or not. -/
def State.repairFor (s : State) (st : RowStore) : RowRepair := (s.repairOf st).getD ⟨st, [], [], none, 0⟩

/-- Keep the repair state of a store. -/
def State.putRepair (s : State) (r : RowRepair) : State := { s with repairs := r :: s.repairs.filter fun x => x.store != r.store }

/-- Whether a store has check banks and a spare bank (R395, R397). -/
def hasSpare : RowStore → Bool
  | .spad _ | .slice _ => true
  | .lanes _ | .chip _ _ => false

/-- BANK_FAIL_MARK (R397): the bank is failed from now on, and the first failed bank of a store gets the spare; a record of class 1. -/
def execBankFailMark (store : RowStore) (bank : Nat) (s : State) : Out :=
  let r := s.repairFor store
  if !hasSpare store || 18 ≤ bank || r.failed.contains bank then .next s
  else
    let r := { r with failed := r.failed ++ [bank], spare := if r.spare.isNone then some bank else r.spare }
    .next ((s.putRepair r).record store.src 1 0 (s.codeKey store.base) (.ofNat 64 bank))

/-- The wrong symbols of a row's bank. -/
def State.clearBank (s : State) (rowKey bank : Nat) : State :=
  { s with flips := s.flips.filter fun p => !(decide (symKey rowKey bank 0 ≤ p.1) && decide (p.1 < symKey rowKey bank 0 + 64)) }

/-- The 18 banks of a store are free of every other access in this cycle, and no lock hold keeps one (R397). -/
def State.banksFree (s : State) (store : RowStore) : Bool :=
  (List.range 16).all fun b =>
    let k := bankKey (store.base / 2 ^ 22, b)
    decide (cget 0 s.busy k ≤ s.core.clock) && !s.bankKeyLocked k

/-- REBUILD_ROW (R397): in a cycle in which its banks are free the row at the pointer is reconstructed into the spare; a row that cannot be
stays uncorrectable. A record of class 1 marks the last row. -/
def execRebuildRow (store : RowStore) (s : State) : Out :=
  let r := s.repairFor store
  match r.spare with
  | none => .next s
  | some bank =>
    if store.rows ≤ r.pointer || !s.banksFree store then .next s
    else
      let key := store.base + 1024 * r.pointer
      let bad := s.decodeRow key == .bad
      let s := if bad then { s with bad := .bytes key 1024 :: s.bad.filter fun u => !u.within key 1024 } else s.clearBank key bank
      let s := s.putRepair { r with pointer := r.pointer + 1 }
      .next (if r.pointer + 1 = store.rows then s.record store.src 1 0 (s.codeKey key) (.ofNat 64 (bank + 256 * r.pointer)) else s)

/-- Units of a row of a store without check banks: bank, key and bytes (R213, R218, R395). -/
def rowUnits (store : RowStore) (row : Nat) : List (Nat × Nat × Nat) :=
  match store with
  | .lanes _ => (List.range 32).map fun l => (l, store.base + 1024 * l + 4 * row, 4)
  | .chip die bank =>
    (List.range 8).map fun j => (bank, store.base + chipBanks die * 64 * row + 8 * j, 8)
  | _ => []

/-- A wrong bit of a unit is corrected where it stands, and counted. -/
def State.scrubUnit (store : RowStore) (row : Nat) (s : State) (u : Nat × Nat × Nat) : State :=
  if s.wrongBits u.2.1 u.2.2 ≠ 1 then s
  else State.countFix { s with flips := s.flips.filter fun p => !(decide (u.2.1 ≤ p.1) && decide (p.1 < u.2.1 + u.2.2)) } store u.1 row u.2.1

/-- SCRUB_ROW (R398): a row is read and corrected: each correction counts on its bank and keeps a record of class 0; an uncorrectable row
keeps a record of class 2 and is left as it is (R399). -/
def execScrubRow (store : RowStore) (row : Nat) (s : State) : Out :=
  if store.rows ≤ row then .next s
  else if hasSpare store then
    let key := store.base + 1024 * row
    match s.decodeRow key with
    | .fixed b => .next ((s.clearBank key b).countFix store b row (if b < 16 then key + 64 * b else key))
    | .bad => .next (s.record store.src 2 0 (s.codeKey key) (.ofNat 64 (256 * row)))
    | .clean =>
      .next (if s.bad.any (BadUnit.overlaps key 1024) then s.record store.src 2 0 (s.codeKey key) (.ofNat 64 (256 * row)) else s)
  else
    let us := rowUnits store row
    let bad := us.any fun u => s.bad.any (BadUnit.overlaps u.2.1 u.2.2) || decide (2 ≤ s.wrongBits u.2.1 u.2.2)
    let s := us.foldl (State.scrubUnit store row) s
    .next (if bad then s.record store.src 2 0 (s.codeKey ((us.head?.map fun u => u.2.1).getD 0)) (.ofNat 64 (256 * row)) else s)

/-- SCRUB_PASS_END (R398): every bank counter returns to 0. -/
def execScrubPassEnd (s : State) : Out :=
  .next { s with repairs := s.repairs.map fun r => { r with counts := [] } }

end Sys2Proof.Machine
end

