-- ==== Sys2Proof/Machine/Boot.lean ====
section
/-! DEFINITION. Boot, firmware images and keys (24_firmware_boot.md R384 to R391), clock and thermal events (01_device.md R23, R24), host
accesses (14_consistency.md R238), network ports (R276). -/

namespace Sys2Proof.Machine

/-! ### Images and the marker journal (R384, R386) -/

/-- The bits of a number as bytes, lowest first. -/
def bitsBytes {n : Nat} (x : BitVec n) (bytes : Nat) : List Byte := natBytes x.toNat bytes

/-- Whether an image verifies under a minimum security version (R384). -/
def fwVerified (svn : BitVec 32) (i : FwImage) : Bool :=
  let h := i.hdr.toNat
  let len := bits h 64 32
  bits h 0 32 == 0x4647314B && len % 256 == 0 && decide (256 ≤ len) && decide (len ≤ 2 ^ 23) && decide (len ≤ i.body.length) &&
  bits h 1696 2400 == 0 && bits h 1161 7 == 0 && bits h 1689 7 == 0 &&
  bits h 128 512 == (Config.sha512 (i.body.take len)).toNat &&
  Config.verifies (Config.sha512 (natBytes (bits h 0 640) 80)) i.hdr && decide (svn.toNat ≤ bits h 96 32)

/-- Whether a marker record is valid (R386). -/
def markerOk (r : BitVec 576) : Bool :=
  bits r.toNat 33 31 == 0 && bits r.toNat 64 512 == (Config.sha512 (natBytes (bits r.toNat 0 64) 8)).toNat

def markerSeq (r : BitVec 576) : Nat := bits r.toNat 0 32
def markerSlot (r : BitVec 576) : Bool := r.toNat.testBit 32

/-- The record that the monitor writes (R386). -/
def markerFor (seq : Nat) (slot : Bool) : BitVec 576 :=
  let w := seq % 2 ^ 32 + flag slot 32
  .ofNat 576 (w + (Config.sha512 (natBytes w 8)).toNat * 2 ^ 64)

/-- The valid records of the journal. -/
def Boot.markers (b : Boot) : List (BitVec 576) := [b.rec0, b.rec1].filter markerOk

/-- The highest valid SEQ, plus 1; 1 when no record is valid (R386, R388). -/
def Boot.nextSeq (b : Boot) : Nat := (b.markers.map markerSeq).foldl (fun m x => max m (x + 1)) 1

/-- Overwrite the older record: an invalid one, or the one with the lower SEQ (R386). -/
def Boot.putMarker (b : Boot) (r : BitVec 576) : Boot :=
  if !markerOk b.rec0 then { b with rec0 := r }
  else if !markerOk b.rec1 then { b with rec1 := r }
  else if markerSeq b.rec1 < markerSeq b.rec0 then { b with rec1 := r }
  else { b with rec0 := r }

def Boot.slotImg (b : Boot) (slot : Bool) : Option FwImage := if slot then b.slotB else b.slotA
def Boot.putSlot (b : Boot) (slot : Bool) (i : FwImage) : Boot :=
  if slot then { b with slotB := some i } else { b with slotA := some i }

/-- Whether a slot holds an image that verifies. -/
def Boot.slotOk (b : Boot) (slot : Bool) : Bool := ((b.slotImg slot).map (fwVerified b.svn)).getD false

/-- The slot that is tried first (R387). -/
def Boot.firstSlot (b : Boot) : Bool :=
  match markerOk b.rec0, markerOk b.rec1 with
  | true, true =>
    if markerSeq b.rec0 = markerSeq b.rec1 then false
    else if markerSeq b.rec0 < markerSeq b.rec1 then markerSlot b.rec1 else markerSlot b.rec0
  | true, false => markerSlot b.rec0
  | false, true => markerSlot b.rec1
  | false, false => false

/-- The slot that boots, if one verifies. -/
def Boot.chosen (b : Boot) : Option Bool :=
  let f := b.firstSlot
  if b.slotOk f then some f else if b.slotOk (!f) then some (!f) else none

/-- SEQ of the record that names the booted slot: the higher of two, or 0 for none (R387). -/
def Boot.bootSeq (b : Boot) (slot : Bool) : Nat :=
  ((b.markers.filter fun r => markerSlot r == slot).map markerSeq).foldl max 0

/-- The slot that was booted (R368 FWSLOT.RUN). -/
def State.bootedSlot (s : State) : Bool := s.fwslot.getLsbD 0

/-! ### Boot and reset (R24, R387, R388) -/

/-- An error record as 32 bytes (R401). -/
def ErrRec.bytes (r : ErrRec) : List Byte :=
  natBytes (r.src.toNat + r.seq % 2 ^ 32 * 2 ^ 16 + r.cls.toNat * 2 ^ 48 + r.cause.toNat * 2 ^ 52 + r.addr.toNat * 2 ^ 64 +
    r.time % 2 ^ 64 * 2 ^ 128 + r.detail.toNat * 2 ^ 192) 32

/-- A message that leaves over the management interfaces. -/
def State.tell (s : State) (what : String) (m : List Byte) : State :=
  { s with boot := { s.boot with mgmtOut := s.boot.mgmtOut ++ [(what, m)] } }

/-- Instruction memory of a die's firmware core after a boot (R382). -/
def bootImem (die : Bool) (body : List Byte) : Cells BWord :=
  (List.range 4096).foldl (fun m w => cput 0 m w (Config.bodyWord die body w)) []

/-- A firmware core starts with the LEN bytes of an image's body (R384), or waits in recovery (R388). -/
def Core.booted (c : Core) (img : Option FwImage) : Core :=
  match img with
  | some i => { c with imem := bootImem c.die (i.body.take (bits i.hdr.toNat 64 32)), stopped := false }
  | none => { c with stopped := true }

/-- The records that the reset kept are reported and join the logs (R24, R431). -/
def State.reportKept (s : State) : State :=
  let s := s.boot.kept.foldl (fun s r => s.tell (if r.cls = 4#4 then "THERMAL_TRIP" else "RESET_RECORD") r.bytes) s
  { s with
    logV := s.logV ++ s.boot.kept.filter fun r => !srcDraft r.src.toNat
    logD := s.logD ++ s.boot.kept.filter fun r => srcDraft r.src.toNat
    boot := { s.boot with kept := [] } }

/-- Memory and every volatile field as power-on leaves them (DESIGN CHOICE, log entry 15). -/
def State.powerOn (s : State) : State := { s.rebooted with mem := [], flips := [], repairs := [], bad := [] }

/-- BOOT (R387): the boot ROM starts the slot that it chooses, and the monitor creates the control queue (R415), or it enters recovery. -/
def execBoot (s : State) : Out :=
  let s := if !s.boot.power || s.boot.thermal then { s.powerOn with boot := { s.powerOn.boot with power := true } } else s
  if !s.boot.pending then .next s
  else
    let s := s.reportKept
    -- the monitor derives the device identity key (R389)
    let s := { s with boot := { s.boot with idKey := some (Config.deriveIdentity Config.fusedSecret) } }
    let slot := s.boot.chosen
    let img := slot.bind s.boot.slotImg
    let s := s.modAll fun c => if c.fw then c.booted img else c
    match slot with
    | some b =>
      .next (State.createControls
        { s with fwslot := .ofNat 64 (flag b 0 + s.boot.bootSeq b * 2 ^ 32), boot := { s.boot with pending := false, recovery := false } })
    | none => .next { s with fwslot := 0#64, boot := { s.boot with pending := false, recovery := true } }

/-- What a loss of power leaves of an update's write (R387): a part of the image in its slot, or a record that fails RDIG. -/
def Boot.cutAt (b : Boot) (cut : FlashCut) : Boot :=
  match b.update with
  | none => b
  | some u =>
    match cut, u.stage with
    | .image left, .write => b.putSlot u.slot left
    | .marker left, .mark => if markerOk left then b else b.putMarker left
    | _, _ => b

/-- POWER_LOSS (R387): what was being written to the flash is left in part, everything volatile is lost. -/
def execPowerLoss (cut : FlashCut) (s : State) : Out :=
  let s := { s with boot := s.boot.cutAt cut }
  .next { s.powerOn with boot := { s.powerOn.boot with power := false } }

/-- THERMAL_TRIP (R24): a record is kept, both clocks stop, the cores lose their power. The record has no address, which R408 codes as W = 15;
the manual gives no DETAIL for its source, so that is a free value (DESIGN CHOICE, log entry 141). -/
def execThermalTrip (s : State) : Out :=
  let s := (s.tick.keepRecord (10 * 4096) 4 0 (.ofNat 64 (15 * 2 ^ 56)) (Config.freeWord s.fresh)).powerOn
  .next { s with boot := { s.boot with thermal := true } }

/-- Every lockstep domain that goes on is between bundles, at one cycle (R23). -/
def State.betweenBundles (s : State) : Bool :=
  (s.cores.filter s.runnable).all fun c => c.clock == s.now && c.owed == 0 && c.lost == 0 && c.resumeAt.isNone

/-- The clock of both dies changes; the time that has passed stays as it was (R5, R23). -/
def State.setClock (s : State) (g : Nat) : State :=
  { s with boot := { s.boot with wall := s.wallNow, wallAt := s.now, clockMHz := g, wants := none } }

/-- CLOCK_CHANGE (R23): one step of 125 MHz, between 1.5 GHz and 2.5 GHz, once every domain is between bundles. -/
def execClockChange (up : Bool) (s : State) : Out :=
  let f := s.boot.wants.getD s.boot.clockMHz
  let g := if up then min 2500 (f + 125) else max 1500 (f - 125)
  .next (if s.betweenBundles then s.setClock g else { s with boot := { s.boot with wants := some g } })

/-! ### Updates (R385, R386, R388, R391) -/

/-- An update begins, unless one is in progress (R386). -/
def State.beginUpdate (s : State) (img : FwImage) (slot : Bool) : State :=
  if s.boot.update.isSome then s else { s with boot := { s.boot with update := some ⟨img, slot, .write⟩ } }

/-- An update of R386 goes to the slot that was not booted. -/
def State.updateFlash (s : State) (img : FwImage) : State := s.beginUpdate img (!s.bootedSlot)

/-- An update in recovery (R388): an image that verifies goes to slot A, and another is discarded. -/
def State.recoverFlash (s : State) (img : FwImage) : State := if fwVerified s.boot.svn img then s.beginUpdate img false else s

/-- The next step of the update in progress (R386): the slot is written, then verified, then marked; in recovery the package is reset at the
end (R388). -/
def State.flashStep (s : State) (u : FlashUpdate) : State :=
  match u.stage with
  | .write => { s with boot := { s.boot.putSlot u.slot u.img with update := some { u with stage := .verify } } }
  | .verify => { s with boot := { s.boot with update := if s.boot.slotOk u.slot then some { u with stage := .mark } else none } }
  | .mark =>
    let s := { s with boot := { s.boot.putMarker (markerFor s.boot.nextSeq u.slot) with update := none } }
    if s.boot.recovery then s.rebooted else s

/-- Whether firmware was booted. -/
def State.booted (s : State) : Bool := !s.boot.pending && !s.boot.recovery && s.boot.power && !s.boot.thermal

def execFirmwareUpdate (img : FwImage) (s : State) : Out := .next (if s.booted then s.updateFlash img else s)

def execRecoveryUpdate (img : FwImage) (s : State) : Out := .next (if s.boot.recovery then s.recoverFlash img else s)

/-- A PLDM Type 5 update: in recovery it follows R388, otherwise R386. -/
def execPldmFirmwareUpdate (img : FwImage) (s : State) : Out :=
  .next (if s.boot.recovery then s.recoverFlash img else if s.booted then s.updateFlash img else s)

/-- Whether the minimum security version may be raised: never above the SVN of the booted image, and never down (R385). -/
def State.mayRaise (s : State) (svn : BitVec 32) : Bool :=
  let top := ((s.boot.slotImg s.bootedSlot).map fun i => bits i.hdr.toNat 96 32).getD 0
  s.booted && decide (s.boot.svn.toNat < svn.toNat) && decide (svn.toNat ≤ top)

/-- The monitor raises the minimum security version. -/
def State.raiseSvn (s : State) (svn : BitVec 32) : State := if s.mayRaise svn then { s with boot := { s.boot with svn := svn } } else s

/-- The monitor of the core in focus serves a trap of its supervisor firmware (R404, R431). -/
def Core.inMonitor (c : Core) : Bool := c.fw && c.exc.level == 2#2 && c.exc.plvl == 1#2 && c.exc.shadow.isSome

/-- SVN_RAISE (R385): at a supervisor's SYSC request, which the monitor of the core in focus serves. -/
def execSvnRaise (svn : BitVec 32) (s : State) : Out :=
  .next (if s.core.inMonitor ∧ s.core.exc.cause = 0xC#8 then s.raiseSvn svn else s)

/-! ### Keys, SPDM and PLDM (R389 to R391) -/

/-- A key load fills the slot that KSEL names, unless LOCK is set (R368, R389). -/
def State.loadKey (s : State) (key : List Byte) : State :=
  if s.keyctl.getLsbD 0 then s
  else
    let k := bits s.keyctl.toNat 8 8
    { s with boot := { s.boot with keys := (k, key) :: s.boot.keys.filter fun p => p.1 != k } }

def execKeyLoad (key : List Byte) (s : State) : Out := .next (s.loadKey key)

/-- The answer to a message, whose content the manual leaves open (DESIGN CHOICE, log entry 9). -/
def State.answerTo (s : State) (what : String) (kind : Nat) (msg : List Byte) : State :=
  State.tell { s with fresh := s.fresh + 1 } what (Config.answer kind s.fresh msg)

def execGetVersion (msg : List Byte) (s : State) : Out := .next (s.answerTo "GET_VERSION" 0 msg)
def execGetCapabilities (msg : List Byte) (s : State) : Out := .next (s.answerTo "GET_CAPABILITIES" 1 msg)

/-- NEGOTIATE_ALGORITHMS (R390): of what is offered only ECDSA P-521 and SHA-512 are negotiated. -/
def execNegotiateAlgorithms (msg : List Byte) (s : State) : Out :=
  let algs := [Config.Algorithm.ecdsaP521, .sha512].filter (Config.offers msg)
  .next (State.tell { s with boot := { s.boot with algs := algs } } "NEGOTIATE_ALGORITHMS" (Config.algorithms msg algs))

/-- A signature of the monitor under the device identity key, which it alone has (R389). -/
def State.signed (s : State) (m : List Byte) : List Byte := match s.boot.idKey with | some k => Config.sign k m | none => []

def execGetDigests (msg : List Byte) (s : State) : Out := .next (s.answerTo "GET_DIGESTS" 3 msg)

/-- GET_CERTIFICATE: the certificate of the device identity key (R389). -/
def execGetCertificate (msg : List Byte) (s : State) : Out :=
  .next (s.answerTo "GET_CERTIFICATE" 4 (msg ++ ((s.boot.idKey.map Config.certificate).getD [])))

def execChallenge (msg : List Byte) (s : State) : Out := .next (s.answerTo "CHALLENGE" 5 (s.signed msg))

/-- The device identity record (R2, R21): what it says of the device is open, and it lists every core that is not whole, with its number and
its engines as `SLOTMAP` gives them, 0 for a disabled core (the layout is a DESIGN CHOICE, log entry 9). -/
def State.identity (s : State) : List Byte :=
  Config.identity ++ (((if gradeOk s.grade then s.grade else []).map fun x => natBytes x.1 2 ++ [x.2]).flatten)

/-- The measurement blocks 1 to 6 (R390). -/
def State.measurements (s : State) : List (List Byte) :=
  let hdr := ((s.boot.slotImg s.bootedSlot).map fun i => bitsBytes i.hdr 512).getD []
  [Config.romVersion, if s.booted then bitsBytes (Config.sha512 hdr) 64 else [], bitsBytes s.fwslot 8, bitsBytes s.boot.svn 4,
   bitsBytes s.partmap 8, s.identity]

/-- GET_MEASUREMENTS: the blocks, and the signature over them. -/
def execGetMeasurements (msg : List Byte) (s : State) : Out :=
  let s := s.measurements.foldl (fun s b => s.tell "MEASUREMENT" b) s
  .next (s.tell "MEASUREMENT_SIGNATURE" (s.signed (msg ++ s.measurements.flatten)))

/-- KEY_EXCHANGE opens a session, which FINISH completes: 0 no session, 1 opened, 2 secured. -/
def execKeyExchange (msg : List Byte) (s : State) : Out :=
  .next (State.answerTo { s with boot := { s.boot with session := 1 } } "KEY_EXCHANGE" 7 msg)

/-- FINISH: the secured session programs the PCIe IDE keys. -/
def execFinish (msg : List Byte) (s : State) : Out :=
  let t := s.answerTo "FINISH" 8 msg
  .next (if s.boot.session ≠ 1 then t
    else State.loadKey { t with boot := { t.boot with session := 2 } } (Config.answer 9 s.fresh msg))

def execKeyUpdate (msg : List Byte) (s : State) : Out := .next (s.answerTo "KEY_UPDATE" 10 msg)

def execEndSession (msg : List Byte) (s : State) : Out :=
  .next (State.answerTo { s with boot := { s.boot with session := 0 } } "END_SESSION" 11 msg)

def execPldmBase (msg : List Byte) (s : State) : Out := .next (s.answerTo "PLDM_BASE" 12 msg)

/-- Platform monitoring (R391): temperatures and power, whose values are open, and the error records. -/
def execPldmPlatformMonitoring (msg : List Byte) (s : State) : Out :=
  .next ((s.answerTo "PLDM_SENSORS" 13 msg).tell "PLDM_RECORDS" ((s.boot.kept ++ s.logV ++ s.logD).map ErrRec.bytes).flatten)

/-- FRU data: the device identity record (R391). -/
def execPldmFru (_msg : List Byte) (s : State) : Out := .next (s.tell "PLDM_FRU" s.identity)

/-! ### Host and network (R238, R276) -/

/-- The device memory that a host address names: HBM by its physical address, and the chip scratchpad of both dies, which the host
reaches through the verify die (R25), at its window's addresses (DESIGN CHOICE, log entry 129). -/
def hostTarget (addr n : Nat) : Option Nat :=
  if addr + n ≤ hbmSize then some addr
  else if Win.chip.base ≤ addr ∧ addr + n ≤ Win.chip.base + 2 ^ 28 then some (keyChip (addr - Win.chip.base))
  else none

/-- HOST_WRITE (R238): a posted write to device memory is performed in its order of arrival. -/
def execHostWrite (addr : Nat) (data : List Byte) (s : State) : Out :=
  match hostTarget addr data.length with
  | none => .next s
  | some k =>
    let lines := runLines (k, data.length)
    let (s, c) := lines.foldl (fun (a : State × Nat) l => a.1.engineLine a.2 (l * 256)) (s, s.boot.hostPts)
    let s := s.putBytes k data
    .next (State.poke { s with boot := { s.boot with hostPts := c } } k data.length)

/-- HOST_READ (R238): the blocks of a read that verify go out; one that does not is not sent, and a record of class 3 is kept (R221,
R399, R402 kind 5). -/
def execHostRead (addr n : Nat) (s : State) : Out :=
  match hostTarget addr n with
  | none => .next s
  | some k =>
    let (s, c) := s.readClock s.boot.hostPts [(k, n)]
    let s := (cutAt 256 (n / 256 + 2) k n).foldl (fun s p =>
      if s.badBytes p.1 p.2 then s.record (5 * 4096) 3 0 (s.codeKey p.1) 0#64
      else { s with boot := { s.boot with hostOut := s.boot.hostOut ++ [memBytes s.mem p.1 p.2] } }) s
    .next { s with boot := { s.boot with hostPts := c } }

/-- PORT_DOWN (R276): a network port goes down or comes up. -/
def execPortDown (port : Fin 8) (up : Bool) (s : State) : Out :=
  let bit := 1#8 <<< port.val
  .next { s with portsUp := if up then s.portsUp ||| bit else s.portsUp &&& ~~~bit }

end Sys2Proof.Machine
end

