-- ==== Sys2Proof/Machine/Matrix.lean ====
section
/-! DEFINITION. The matrix array (08_matrix.md R141 to R167). -/

namespace Sys2Proof.Machine

/-! ### One output element of a step (R153 to R155) -/

/-- Units of a stream as values; only FP32 and FP64 NaNs signal (R155; DEDUCED, log entry 150). -/
def unitVals (code : Nat) (mixed : Bool) (ptag u : Nat) : List Fp :=
  (List.range 32).map fun j => match unitElem code mixed ptag u j with
    | .nan sig => .nan (sig && decide (code ≤ 1))
    | v => v

/-- A product truncated to the window, and whether that dropped a nonzero bit. -/
def truncAt (q : Int) (m : Nat) (e : Int) : Nat × Int × Bool :=
  if q ≤ e then (m, e, false) else let k := (q - e).toNat; (m >>> k, q, decide (m % 2 ^ k ≠ 0))

/-- The largest ⌊log2⌋ of some nonzero magnitudes. -/
def topOf (ps : List (Bool × Nat × Int)) : Int :=
  ((ps.filter fun p => p.2.1 != 0).map fun p => log2At p.2.1 p.2.2).foldl max (-100000)

/-- The sum of finite products under a window (R153): value and flags. -/
def finiteSum (win : Option Nat) (ps : List (Bool × Nat × Int)) : Fp × Fl :=
  if ps.all fun p => p.2.1 == 0 then (.fin (ps.all fun p => p.1) 0 0, flNone)
  else
    let ts : List (Bool × Nat × Int × Bool) := match win with
      | none => ps.map fun p => (p.1, p.2.1, p.2.2, false)
      | some f => let q := topOf ps - f; ps.map fun p => (p.1, truncAt q p.2.1 p.2.2)
    let nz := ts.filter fun t => t.2.1 != 0
    let q := (nz.map fun t => t.2.2.1).foldl min 100000
    let sum := (nz.map fun t => signedAt t.1 t.2.1 t.2.2.1 q).foldl (· + ·) 0
    (ofSigned sum q, flIf (ts.any fun t => t.2.2.2) flInx)

/-- The block sum of one output element: value before rounding, and flags (R153, R154). -/
def blockSum (win : Option Nat) (as bs : List Fp) : Fp × Fl :=
  let ps := List.zipWith Fp.mul as bs
  if ps.all fun p => p.1.isFin then
    finiteSum win (ps.map fun p => match p.1 with | .fin n m e => (n, m, e) | _ => (false, 0, 0))
  else
    let fl := ps.foldl (fun a p => a ||| p.2) flNone
    let pos := ps.any fun p => p.1 == .inf false
    let neg := ps.any fun p => p.1 == .inf true
    if ps.any (fun p => p.1.isNan) || (pos && neg) then (.nan false, fl ||| flIf (pos && neg) flInv) else (.inf neg, fl)

/-- Add a block sum into an accumulator element (R153). -/
def accumulate (f : TileFmt) (old : Nat) (s : Fp × Fl) : Nat × Fl :=
  let fp := fun (fm : Fmt) =>
    let (x, g) := fm.enc .rne s.1 s.2
    let (y, h) := (fm.dec old).add (fm.dec x)
    let (z, k) := fm.enc .rne y h
    (z, g ||| k)
  match f with
  | .fp32 => fp fF32
  | .fp64 => fp fF64
  | .int32 =>
    match s.1 with
    | .fin n m e => let (x, g) := clampTo .i32 (Ty.i32.toInt old + signedAt n m e 0); (x, s.2 ||| g)
    | _ => (old, s.2)

/-- One step on the 4,096 elements of a tile: rows of A, columns of B. -/
def stepTile (f : TileFmt) (win : Option Nat) (rows cols : List (List Fp)) (old : List Nat) : List Nat × Fl :=
  let rs := (rows.zipIdx.map fun r => cols.zipIdx.map fun c =>
    accumulate f (old.getD (64 * r.2 + c.2) 0) (blockSum win r.1 c.1)).flatten
  (rs.map Prod.fst, rs.foldl (fun a r => a ||| r.2) flNone)

/-! ### Configuration (R144, R147, R158) -/

def execMstrm (n : RegNo) (a : Src) (s : State) : Out :=
  s.ownArray (s.descRead (s.gS a).toNat 32 (.stream n) fun s => .next s)
def execMnest (a : Src) (s : State) : Out := s.ownArray (s.descRead (s.gS a).toNat 32 .nest fun s => .next s)

/-! ### MGO (R148 to R152, R157, R159) -/

/-- The lowest byte a stream can reach, and the bytes from it to the end of its highest unit (R159). -/
def streamSpan (w nest : Nat) : Int × Nat :=
  let d := fun (l : Nat) => ((nestCnt nest l : Int) - 1) * stStr w l
  let lo := (List.range 6).foldl (fun a l => a + min 0 (d l)) (stBase w : Int)
  let hi := (List.range 6).foldl (fun a l => a + max 0 (d l)) (stBase w : Int) + 63 * stUstr w + stSize w
  (lo, (hi - lo).toNat)

/-- A base, unit stride or level stride of a stream that is no multiple of 4. -/
def misaligned (w : Nat) : Bool := stBase w % 4 != 0 || stUstr w % 4 != 0 || (List.range 6).any fun l => stStr w l % 4 != 0

/-- Check 5 of R159. -/
def State.checkStreams (s : State) (nest : Nat) (ws : List Nat) : Chk Unit :=
  match ws.find? misaligned with
  | some w => .bad 6 (.ofNat 64 (stBase w)) false
  | none =>
    (Chk.all (fun (w : Nat) =>
      let (lo, n) := streamSpan w nest
      if lo < 0 then .bad 5 (wordOfInt lo) false
      else match s.window s.core lo.toNat n with
        | none => .bad 5 (.ofNat 64 (s.spanFault lo.toNat)) false
        | some x => .ok x.1) ws).bind fun wins =>
      if wins.all fun x => x == .spad || x == .shared then .ok () else .bad 1 (.ofNat 64 s.where) false

/-- Set every tile a nest names to zero, with its format state (R157). -/
def State.zeroTiles (s : State) (n : Nest) : State :=
  (s.core.nestTiles n).foldl (fun s t => (s.setTile t []).setTileFmt t n.fmt) s

/-- MGO (R151, R157, R159). One that completes at once (R157) takes no place of the array queue and does not wait for one (DEDUCED, log entry
140). -/
def execMgo (sa sb : RegNo) (acc : Small) (accum ser : Bool) (s : State) : Out :=
  let a := s.core.mtx.streams.get sa
  let b := s.core.mtx.streams.get sb
  let w := s.core.mtx.nest.toNat
  let p := s.core.port
  let n : Nest := ⟨s.issuedNow, a, b, s.core.mtx.nest, acc.val, accum, ser, 0, none, []⟩
  let empty := nestDim w 1 == 0 || nestDim w 2 == 0
  -- a nest without a step is checked by its own name (R157)
  let xs := if empty then [acc.val] else reach w acc.val
  s.ownArray
    (if badStream a.bits.toNat || badStream b.bits.toNat || badNest w || n.pair.isNone then s.illop
     else if xs.any fun x => decide (s.accLimit ≤ x) || (n.fmt == .fp64 && (x % 2 == 1 || decide (s.accLimit ≤ x + 1))) then s.illop
     else if accum && ((accNames n.fmt xs).map s.core.tileOf).any fun t => s.nextFmt t != n.fmt then s.illop
     else
       let k0 := nestDim w 0 == 0
       s.checked (if empty || k0 then .ok () else s.checkStreams w [a.bits.toNat, b.bits.toNat]) fun _ =>
         if empty || (k0 && accum) then .next s
         else if k0 && s.core.mtx.arrQ.isEmpty && !s.cpysReads p.seq (s.core.nestTiles n) then .next (s.zeroTiles n)
         else if 4 ≤ s.core.mtx.arrQ.length then .next (s.wait .arrayQueue)
         else .next ((s.modMtx fun m => { m with arrQ := m.arrQ ++ [.mgo n] }).modPort fun p => { p with seq := p.seq + 1 }))

/-- Addresses of the 64 units of a stream at some counters (R146). -/
def unitAddrs (w : Nat) (cs : List Nat) : List (Nat × Nat) :=
  let base := (List.range 6).foldl (fun a l => a + cs.getD l 0 * stStr w l) (stBase w : Int)
  (List.range 64).map fun (u : Nat) => ((base + (u * stUstr w : Nat)).toNat, stSize w)

/-- What a bound stream shows for a k-block (R258): go on, wait, or a fault. -/
def State.bound (s : State) (b : Option (Nat × Nat)) (k : Nat) : Option (ERes Unit) :=
  match b with
  | none => some (.ok ())
  | some (obj, g) =>
    if s.badBytes obj 16 then some .bad
    else
      let o := s.boRead obj
      if o.testBit 57 then some .fault
      else if !o.testBit 58 || decide ((k + 1) * g ≤ bits o 28 28) then some (.ok ()) else none

/-- The head of the array queue changes, and an operation leaves it. -/
def State.setHead (s : State) (n : Nest) : State := s.modMtx fun m => { m with arrQ := .mgo n :: m.arrQ.tail }
def State.popArray (s : State) : State := s.modMtx fun m => { m with arrQ := m.arrQ.tail }

/-- Record a fault of the array: the oldest stays (R167). -/
def State.arrayFault (s : State) (cause : Nat) (info : Word) : State :=
  let s := if cause = 0xA then s.coreRecord 2 0xA info info else s
  s.modMtx fun m => { m with fault := m.fault.or (some (.ofNat 8 cause, info)) }

/-- A step stops the nest: the MGO counts as complete (R167). A nonzero [31:20] of a side container stops it like a reserved tag, with ENGFAULT
on the array for MSYNC (DEDUCED, log entry 136: R80 makes the operation fault, and an MGO has no barrier object). -/
def State.stopNest (s : State) (n : Nest) (cause : Nat) : State :=
  (s.arrayFault cause (.ofNat 64 (2 * 2 ^ 60 + 15 * 2 ^ 56 + min n.done (2 ^ 56 - 1)))).setHead { n with done := nestSteps n.nest.toNat }

/-- The elements of an accumulator of a format: 32-bit elements, or the two halves of FP64 elements. -/
def State.accVals (s : State) (f : TileFmt) (acc : Nat) : List Nat :=
  if f = .fp64 then
    let (lo, hi) := s.core.halves acc
    List.zipWith (fun x y => x + y * 2 ^ 32) (s.tileVals lo) (s.tileVals hi)
  else s.tileVals (s.core.tileOf acc)

def State.setAcc (s : State) (f : TileFmt) (acc : Nat) (xs : List Nat) : State :=
  if f = .fp64 then
    let (lo, hi) := s.core.halves acc
    (((s.setTile lo (xs.map (· % 2 ^ 32))).setTile hi (xs.map (· / 2 ^ 32))).setTileFmt lo f).setTileFmt hi f
  else (s.setTile (s.core.tileOf acc) xs).setTileFmt (s.core.tileOf acc) f

/-- The sums of one step enter their accumulator together (R153, R159). -/
def State.addStep (s : State) (n : Nest) (clock : Nat) (ra rb : List (List Run)) (acc : Nat) : State :=
  let read := fun (w : Nat) (rs : List (List Run)) => rs.map fun r => unitVals (stFmt w) (stMixed w) (stPtag w) (bytesNat (s.readRuns r))
  let fresh := !n.accum && !n.touched.contains acc
  let old := if fresh then [] else s.accVals n.fmt acc
  let (xs, fl) := stepTile n.fmt ((n.pair.map Prod.snd).getD none) (read n.sa.bits.toNat ra) (read n.sb.bits.toNat rb) old
  let s := (s.setAcc n.fmt acc xs).setHead
    { n with done := n.done + 1, clock := some clock, due := some (s.now + n.cost s.core.ctl.solo)
             touched := if n.touched.contains acc then n.touched else acc :: n.touched }
  s.modMtx fun m => { m with flags := m.flags ||| fl }

/-- The step of a nest that has all it reads. -/
def State.stepNow (s : State) (n : Nest) (clock acc : Nat) (ra rb : List (List Run)) : State :=
  let w := fun (b : StreamReg) => b.bits.toNat
  let bad := fun (w : Nat) (r : List Run) => badUnit (stFmt w) (stMixed w) (stPtag w) (bytesNat (s.readRuns r))
  if s.badRuns (ra ++ rb).flatten || (n.accum || n.touched.contains acc) && (accNames n.fmt [acc]).any (fun x => s.badTile (s.core.tileOf x)) then
    s.stopNest n 0xA
  else if ra.any (bad (w n.sa)) || rb.any (bad (w n.sb)) then s.stopNest n 9
  else s.addStep n clock ra rb acc

/-- ARRAY_STEP: the next step of the running nest, once its stream is bound far enough and its banks are free (R148, R153, R216, R258). -/
def State.arrayStep (s : State) (n : Nest) (clock : Nat) : State :=
  let w := n.nest.toNat
  let cs := counters w n.done
  let k := kBlock w cs
  let acc := stepAcc w n.acc cs
  match s.bound n.sa.bind k, s.bound n.sb.bind k with
  | some .fault, _ | _, some .fault => s.stopNest n 9
  | some .bad, _ | _, some .bad => s.stopNest n 0xA
  | some (.ok _), some (.ok _) =>
    (match s.extentsRuns (unitAddrs n.sa.bits.toNat cs) false, s.extentsRuns (unitAddrs n.sb.bits.toNat cs) false with
     | .ok ra, .ok rb =>
       let (s, go) := s.engineGate 0 n.toIssued (ra ++ rb).flatten
       if go then s.stepNow n clock acc ra rb else s
     | _, _ => s.stopNest n 9)
  | _, _ => s

/-- What the next step of a nest reads, once its streams are bound far enough and translate. -/
def State.stepRuns (s : State) (n : Nest) : Option (List Run) :=
  let cs := counters n.nest.toNat n.done
  let k := kBlock n.nest.toNat cs
  match s.bound n.sa.bind k, s.bound n.sb.bind k with
  | some (.ok _), some (.ok _) =>
    (match s.extentsRuns (unitAddrs n.sa.bits.toNat cs) false, s.extentsRuns (unitAddrs n.sb.bits.toNat cs) false with
     | .ok ra, .ok rb => some (ra ++ rb).flatten
     | _, _ => none)
  | _, _ => none

/-- While a step is under way the array asks for the bank cycles of the next step's reads, so that steps follow one another at their cost
where nothing else takes those cycles (R151, R216; DEDUCED, log entry 122). -/
def State.askStep (s : State) (n : Nest) : State :=
  if s.core.port.grants.any fun g => g.1 == 0 && g.2.1 == n.seq then s
  else match s.stepRuns n with
  | some rs => if s.engineOpen n.toIssued rs then (s.engineTurn 0 n.seq rs).1 else s
  | none => s

/-- The step under way is over (R151). -/
def State.stepOver (s : State) (n : Nest) : Bool := match n.due with | some d => decide (d ≤ s.now) | none => true

/-- A step acts when it begins, ahead of a tile move of a later bundle that has yet to land (DESIGN CHOICE, log entry 124), and the array
is busy for its cost. -/
def execArrayStep (s : State) : Out :=
  match s.core.mtx.arrQ with
  | .mgo n :: _ =>
    (match n.clock with
     | none => .next s
     | some c =>
       if s.core.stopped || decide (nestSteps n.nest.toNat ≤ n.done) || !s.core.engineFree n.seq n.issue ||
           s.cpysReads n.seq (s.core.nestTiles n) then .next s
       else if !s.stepOver n then .next (s.under n.toIssued fun s => s.askStep n)
       else .next (s.under n.toIssued fun s => s.arrayStep n c))
  | _ => .next s

/-- MGO_COMPLETE: a nest with no step left leaves the queue; one with K_t = 0 zeroes its tiles (R151, R157). The queue of a stopped core is
held (R374). -/
def execMgoComplete (s : State) : Out :=
  match s.core.mtx.arrQ with
  | .mgo n :: _ =>
    if s.core.stopped || n.done < nestSteps n.nest.toNat || !s.stepOver n then .next s
    else if nestSteps n.nest.toNat = 0 then
      (if s.cpysReads n.seq (s.core.nestTiles n) then .next s else .next (s.zeroTiles n).popArray)
    else .next s.popArray
  | _ => .next s

/-- MSYNC (R155, R160): waits for the core's array work, merges the array's flags, and reports a recorded fault. -/
def execMsync (s : State) : Out :=
  s.ownArray
    (if !s.core.mtx.arrQ.isEmpty then .next (s.wait .arrayWork)
     else match s.core.mtx.fault with
       | some (code, info) => s.lateTrap code.toNat info
       | none =>
         if s.core.mtx.flags = flNone then .next s
         else .next ((s.post 1 (.flags s.core.mtx.flags)).modMtx fun m => { m with flags := flNone }))

/-! ### Tile moves (R161 to R163) -/

/-- What a tile move checks and waits for: the name, then `bad` under the tile's format state, which waits for an MGO that may still change
it (DEDUCED, log entry 113), then the array work that uses its tiles (R162, R163, R430). -/
def State.tileMove (s : State) (acc : Nat) (writes bad : Bool) (f : Out) : Out :=
  let ts := if s.tileFmt (s.core.tileOf acc) = .fp64 ∧ acc % 2 = 0 then [s.core.tileOf acc, s.core.tileOf (acc + 1)] else [s.core.tileOf acc]
  s.ownArray
    (if s.accLimit ≤ acc then s.illop
     else if bad && !s.mgoWrites (s.core.tileOf acc) then s.illop
     else if ts.any (fun t => s.mgoWrites t || (writes && s.mepiReads t)) then .next (s.wait .arrayWork)
     else f)

def execMza (acc : Small) (s : State) : Out :=
  s.tileMove acc.val true false
    (let t := s.core.tileOf acc.val
     let z := s.post 2 (.zeroTile t)
     .next (if s.tileFmt t = .fp64 ∧ acc.val % 2 = 0 then z.post 2 (.zeroTile (s.core.tileOf (acc.val + 1))) else z))

/-- A move of a part under the tile's format state (R162): an odd name of an FP64 tile, and a part that a tile of 32-bit elements does not
have, are ILLOP. `f` receives whether the tile is FP64. -/
def State.partMove (s : State) (acc : Nat) (part : BitVec 2) (writes : Bool) (f : Bool → Out) : Out :=
  let wide := s.tileFmt (s.core.tileOf acc) == .fp64
  s.tileMove acc writes ((wide && acc % 2 == 1) || (!wide && decide (2 ≤ part.toNat))) (f wide)

def execMtov (d : Dst) (acc : Small) (row : BitVec 6) (part : BitVec 2) (s : State) : Out :=
  s.partMove acc.val part false (fun wide =>
      let at' := fun (t n i : Nat) => s.tileAt t (64 * row.toNat + n * part.toNat + i)
      let t := s.core.tileOf acc.val
      if s.badTile t || (wide && s.badTile (s.core.tileOf (acc.val + 1))) then s.trap 0xA (regInfo (regCode 5 acc.val))
      else if wide then
        let (lo, hi) := s.core.halves acc.val
        s.vector 4 d (laneJoin 64 ((List.range 16).map fun i => at' lo 16 i + at' hi 16 i * 2 ^ 32))
      else s.vector 4 d (laneJoin 32 ((List.range 32).map fun i => at' t 32 i)))

def execMfromv (a : Src) (acc : Small) (row : BitVec 6) (part : BitVec 2) (s : State) : Out :=
  s.partMove acc.val part true (fun wide =>
      let v := s.gV a
      let key := fun (t n i : Nat) => tileKey t (64 * row.toNat + n * part.toNat + i)
      if wide then
        let (lo, hi) := s.core.halves acc.val
        .next (s.post 4 (.tile (((List.range 16).map fun i => (key lo 16 i, BitVec.ofNat 32 (laneGet 64 v i))) ++
          (List.range 16).map fun i => (key hi 16 i, BitVec.ofNat 32 (laneGet 64 v i / 2 ^ 32)))))
      else .next (s.post 4 (.tile ((List.range 32).map fun i => (key (s.core.tileOf acc.val) 32 i, .ofNat 32 (laneGet 32 v i))))))

/-! ### The epilogue (R158, R164 to R166) -/

/-- MEPI: the descriptor is read as a core-scratchpad load, and the epilogue takes a place in the array queue. -/
def execMepi (acc : Small) (a : Src) (s : State) : Out :=
  s.ownArray
    (if s.accLimit ≤ acc.val || (s.nextFmt (s.core.tileOf acc.val) == .fp64 && acc.val % 2 == 1) then s.illop
     else s.descRead (s.gS a).toNat 64 .mepi fun t =>
       if 4 ≤ s.core.mtx.arrQ.length then .next (s.wait .arrayQueue)
       else
         let e : Epi := ⟨s.issuedNow, acc.val, none, s.gS a, false, none, false, 0⟩
         .next ((t.modMtx fun m => { m with arrQ := m.arrQ ++ [.mepi e] }).modPort fun p => { p with seq := p.seq + 1 }))

def epDst (w : Nat) : Nat := bits w 0 64
def epRstr (w : Nat) : Int := signed 32 (bits w 64 32)
def epRows (w : Nat) : Nat := bits w 96 7
def epCols (w : Nat) : Nat := bits w 104 7
def epOfmt (w : Nat) : Nat := bits w 112 4
def epAct (w : Nat) : Nat := bits w 116 2
def epTidx (w : Nat) : Nat := bits w 192 12
def epBias (w : Nat) : Nat := bits w 256 64
def epBo (w : Nat) : Nat := bits w 320 64

/-- The output type of OFMT. -/
def epTy (w : Nat) : Ty :=
  match epOfmt w with
  | 0 => .f64 | 1 => .f32 | 2 => .bf16 | 3 => .f16 | 4 => .e4m3 | 5 => .e5m2 | 6 => .i8 | _ => .i32

def epSize (w : Nat) : Nat := (epTy w).bits / 8

/-- The descriptor checks of R166 that need no address translation. -/
def State.badEpi (s : State) (w : Nat) (wide : Bool) : Bool :=
  w.testBit 103 || w.testBit 111 || bits w 120 8 != 0 || bits w 204 52 != 0 || bits w 384 128 != 0 || decide (8 ≤ epOfmt w) ||
  decide (64 < epRows w) || decide (64 < epCols w) || epDst w % epSize w != 0 || epRstr w % (epSize w : Int) != 0 ||
  epBias w % (if wide then 8 else 4) != 0 ||
  (w.testBit 118 && (decide (epTidx w < s.core.exc.ttlo.toNat) || decide (s.core.exc.tthi.toNat < epTidx w)))

/-- The barrier object of an epilogue: none when it is unusable (R166). -/
def State.epiObj (s : State) (w : Nat) : Option Nat :=
  if epBo w % 16 ≠ 0 then none
  else match s.window s.core (epBo w) 16 with
    | some (.global, _) | some (.lane, _) | none => none
    | some (x, o) => some (s.keyOf s.core x o)

/-- The activations of R165 on an exact value that is not NaN. -/
def activate (act : Nat) (param y : Fp) : Fp × Fl :=
  let zero := Fp.fin false 0 0
  let below := y.cmp zero == .lt
  match act with
  | 1 => (if below || (y.isZero && y.neg?) then zero else y, flNone)
  | 2 => if below then y.mul param else (y, flNone)
  | 3 =>
    let p := match param with | .inf _ => Fp.inf false | .fin _ m e => .fin false m e | v => v
    (if y.cmp p == .gt then p else if y.cmp p.negate == .lt then p.negate else y, flNone)
  | _ => (y, flNone)

/-- Deliver an exact value in the output type: the only rounding (R165). -/
def epConvert (ty : Ty) (y : Fp) (fl : Fl) : Nat × Fl :=
  match ty.fmt? with
  | some f => f.enc .rne y fl
  | none => let (x, g) := fpToInt ty .rne true y; (x, fl ||| g)

/-- One element of an epilogue (R165). -/
def epElem (w : Nat) (x bias : Fp) : Nat × Fl :=
  let scale := fF32.dec (bits w 128 32)
  let param := fF32.dec (bits w 160 32)
  let (y, f) := x.fma scale bias
  if y.isNan || param.isNan then epConvert (epTy w) (.nan false) (f ||| param.sigFl)
  else let (z, g) := activate (epAct w) param y; epConvert (epTy w) z (f ||| g)

/-- The value of a tile element. -/
def tileFp (f : TileFmt) (x : Nat) : Fp :=
  match f with
  | .fp32 => fF32.dec x
  | .fp64 => fF64.dec x
  | .int32 => let i := Ty.i32.toInt x; .fin (decide (i < 0)) i.natAbs 0

/-- The rows that an epilogue writes: addresses and lengths. -/
def epRowsAt (w : Nat) : List (Nat × Nat) :=
  if epCols w = 0 then [] else (List.range (epRows w)).map fun (r : Nat) => (genAddr (epDst w) (r * epRstr w), epCols w * epSize w)

/-- The elements that an epilogue writes, row by row, with the flags (R165). Without BIASEN the zero that is added is +0 (DESIGN CHOICE, log
entry 148). -/
def epOut (w : Nat) (f : TileFmt) (xs bias : List Nat) : List (List Nat) × Fl :=
  let b := fun (c : Nat) => if w.testBit 119 then tileFp (if f = .fp64 then .fp64 else .fp32) (bias.getD c 0) else Fp.fin false 0 0
  let rs := (List.range (epRows w)).map fun r => (List.range (epCols w)).map fun c => epElem w (tileFp f (xs.getD (64 * r + c) 0)) (b c)
  (rs.map fun r => r.map Prod.fst, rs.flatten.foldl (fun a r => a ||| r.2) flNone)

/-- Set the ready flag after an epilogue; a provisional instance holds it until it commits (R165, R269). -/
def State.epiReady (s : State) (j : Issued) (w clock : Nat) : State :=
  if !w.testBit 118 then s
  else if s.core.prov then
    (match s.core.launch with
     | some (l, i) => s.modInst l i fun x => { x with flags := x.flags ++ [(s.core.die, epTidx w, s.firingOf clock j)] }
     | none => s)
  else s.setReady s.core.die (epTidx w) (s.firingOf clock j)

/-- The 64-byte writes that lay bytes over runs (R374). -/
def layRuns : List Run → List Byte → List StorePiece
  | [], _ => []
  | r :: rs, data =>
    ((cutAt 64 (r.2 / 64 + 2) r.1 r.2).map fun p => ⟨p.1, (data.drop (p.1 - r.1)).take p.2⟩) ++ layRuns rs (data.drop r.2)

/-- An epilogue begins: it reads its tile and its bias, and holds what it will write (R165, R374). Units that its writes cover become good;
a row that meets an uncorrectable unit which they do not is the last (R254, R399). -/
def State.epiBegin (s : State) (e : Epi) (w clock : Nat) (f : TileFmt) (rows : List (List Run)) (bias : List Run) : State :=
  let bytes := elems (if f = .fp64 then 8 else 4) (s.readRuns bias)
  let (out, fl) := epOut w f (s.accVals f e.acc) bytes
  let (s, c) := s.readClock clock bias
  let ps := (((rows.zip out).take (s.writesMade rows)).map fun r => layRuns r.1 (elemBytes (epSize w) r.2)).flatten
  let e := { e with left := some ps, stuck := (s.stuckAt rows).isSome, clock := some c }
  (s.coverUnits rows.flatten).modMtx fun m => { m with arrQ := .mepi e :: m.arrQ.tail, flags := m.flags ||| fl }

/-- An epilogue that has begun makes its next 64-byte write; after the last it counts, or records its fault, and then sets its ready flag
(R165, R254, R374). -/
def State.epiStep (s : State) (e : Epi) (w obj clock : Nat) : List StorePiece → State
  | [] => s.reports 1 e.toIssued obj fun s =>
    if e.stuck then s.popArray.engineFault obj 0xA
    else (s.popArray.engineDone obj (epRows w * epCols w * epSize w) e.stamp).epiReady e.toIssued w clock
  | p :: r =>
    let run := (p.key, p.data.length)
    if s.heldHost [run] then s.heldEngine
    else
      let (s, go) := s.engineGate 1 (e.toIssued.part (r.length + 1)) [run]
      if !go then s
      else
        let (s, c, t) := s.writeRun clock p.key p.data
        s.modMtx fun m => { m with arrQ := .mepi { e with left := some r, clock := some c, stamp := max e.stamp t } :: m.arrQ.tail }

/-- EPILOGUE_RUN: the MEPI at the head of the array queue (R165, R166, R374). The bias extent is checked only where it is read, with BIASEN
(DESIGN CHOICE, log entry 148). -/
def State.runEpi (s : State) (e : Epi) (d : BitVec 512) (clock : Nat) : State :=
  let w := d.toNat
  let t := s.core.tileOf e.acc
  let f := s.tileFmt t
  let info := s.codeAddr s.core 3 e.addr.toNat
  let fault := fun (s : State) (obj cause : Nat) (x : Option Word) => s.reports 1 e.toIssued obj fun s => s.popArray.engineFault obj cause x
  if e.bad then s.popArray.arrayFault 0xA info
  else match s.epiObj w with
    | none => s.popArray.arrayFault 9 info
    | some obj =>
      match e.left with
      | some ps => s.epiStep e w obj clock ps
      | none =>
      if s.badEpi w (f == .fp64) then fault s obj 9 none
      else match s.extentsRuns (epRowsAt w) true,
          (if w.testBit 119 then s.extentRuns (epBias w) (if f = .fp64 then 512 else 256) false else .ok []) with
        | .ok rows, .ok bias =>
          if s.heldHost ((obj, 16) :: rows.flatten) then s.heldEngine
          else
            let (s, go) := s.engineGate 1 e.toIssued bias
            if !go then s
            else if s.badRuns bias || s.badTile t || (f == .fp64 && s.badTile (s.core.tileOf (e.acc + 1))) then s.popArray.arrayFault 0xA info
            else s.epiBegin e w clock f rows bias
        | .bad, _ | _, .bad => s.popArray.arrayFault 0xA info
        | x, y => fault s obj 9 (x.xlate.or y.xlate)

def execEpilogueRun (s : State) : Out :=
  match s.core.mtx.arrQ with
  | .mepi e :: _ =>
    (match e.desc, e.clock with
     | some d, some c => if s.core.stopped || !s.core.engineFree e.seq e.issue then .next s
       else .next (s.under e.toIssued fun s => s.runEpi e d c)
     | _, _ => .next s)
  | _ => .next s

end Sys2Proof.Machine
end

