-- ==== Sys2Proof/Machine/Monitor.lean ====
section
/-! DEFINITION. What the monitor does for a supervisor, and with traps that it is given (24_firmware_boot.md R383, R385; 26_errors_traps.md
R403, R409, R431). -/

namespace Sys2Proof.Machine

/-! ### Requests (R381, R383, R385, R403, R416) -/

/-- Whether a context may be installed in a core: it is one of its partition, and no walk of it leaves the partition (R351 to R357). A
supervisor of a partition asks for its own. -/
def State.contextOk (s : State) (core : Nat) (asid : BitVec 16) (lo hi : BitVec 12) (root : BitVec 44) : Bool :=
  let p := s.partOf core
  let a := root.toNat * 4096
  (s.coreAt core).isSome && core % 1024 != 0 && s.gradeOf core != 0#8 && (s.core.fw || s.partOf s.core.id == p) && asid != 0#16 &&
  decide (lo.toNat ≤ hi.toNat) &&
  (if s.split then
    bits asid.toNat 14 2 == p && decide (1024 * p ≤ lo.toNat) && decide (hi.toNat ≤ 1024 * p + 1023) &&
    decide (96 * p * 2 ^ 30 ≤ a) && decide (a + 4096 ≤ 96 * (p + 1) * 2 ^ 30)
   else decide (a + 4096 ≤ hbmSize))

/-- The log of the monitor of the core in focus (R403). -/
def State.ownLog (s : State) : List ErrRec := if s.core.die then s.logD else s.logV

/-- Whether `PARTMAP` may be written (R354, R368). -/
def State.mayPartition (s : State) (v : Nat) : Bool :=
  !s.cores.any (fun c => c.launch.isSome) && !s.queues.any (fun q => q.res) && v &&& ctlRz 0x200 == 0 &&
  !(v.testBit 0 && (bits v 1 4 == 0 || decide (bits v 8 8 < 20) || decide (40 < bits v 8 8)))

/-- Whether the monitor carries a request out (R383: never one that would break R351 to R357). What the manual does not name is its own
choice. -/
def State.grantsRequest (s : State) : Config.SysReq → Bool
  | .context core asid lo hi root => s.contextOk core asid lo hi root
  | .save n => (s.coreAt n).any fun c => c.launch.isSome
  | .restore => !s.saved.isEmpty
  | .raiseSvn v => s.mayRaise v
  | .readLog i off => decide (i < s.ownLog.length) && decide ((if s.core.fw then 2 ^ 16 else 0) ≤ off) && decide (off + 32 ≤ sliceSize s.core.die)
  | .partmap v => s.core.fw && s.mayPartition v.toNat
  | .depthtab _ => s.core.fw
  | .keyctl v => s.core.fw && v.toNat &&& ctlRz 0x203 == 0
  | .repairControl part rd => (s.core.fw || s.partOf s.core.id == part) && (s.queueAt part controlQueue).any fun q =>
      q.st == .error && decide (rd ≤ memNat s.mem (q.recKey + 24) 8)
  | .other => Config.grants s.fresh

/-- A meaning's next state, or the state as it is. -/
def Out.stateOr (s : State) (o : Out) : State := match o with | .next t => t | _ => s

/-- The monitor carries a request out for the core in focus. -/
def State.carryOut (s : State) : Config.SysReq → State
  | .context core asid lo hi root => s.modAt core fun c => { c with exc := { c.exc with asid := asid, ttlo := lo, tthi := hi, ptroot := root } }
  | .save n => s.on n fun s => (execFullStateSave s).stateOr s
  | .restore => (execFullStateRestore s).stateOr s
  | .raiseSvn v => s.raiseSvn v
  | .readLog i off =>
    match s.ownLog[i]? with
    | some r => s.putBytes (keySpad s.core.id off) r.bytes
    | none => s
  | .partmap v => s.putCtl 0x200 v
  | .depthtab v => s.putCtl 0x201 v
  | .keyctl v => s.putCtl 0x203 v
  | .repairControl part rd => match s.queueAt part controlQueue with | some q => (s.resumeQueue q rd).1 | none => s
  | .other => s

/-- A request is carried out or refused (R383). -/
def State.serveRequest (s : State) (r : Config.SysReq) : State := if s.grantsRequest r then s.carryOut r else s

/-! ### Traps (R409, R431) -/

/-- Whether the monitor grants the SYSC of a trap that a core forwards. -/
def State.willGrant (s : State) (c : Core) : Bool :=
  match c.exc.entering with
  | some t => t.code == 0xC#8 && (s.focus c.name).grantsRequest (Config.request t.info)
  | none => false

/-- TRAP_FORWARD (R409): the monitor carries out a SYSC's request that it grants and resumes the core at the next word, and ends the launch for
anything else. -/
def execTrapForward (grant : Bool) (s : State) : Out :=
  match s.core.exc.entering with
  | none => .next s
  | some t =>
    if s.core.prov || !s.core.forwards || !s.core.still then .next s
    else
      let s := s.record (11 * 4096 + (if s.core.die then 1 else 0)) 2 t.code.toNat (s.trapAddr t.code t.info s.core.flow.pc) t.info
      if grant ∧ t.code = 0xC#8 then .next ((s.carryOut (Config.request t.info)).modCore fun c => c.resumeWord (c.flow.pc + .ofNat 12 c.flow.len))
      else .next ((s.modCore fun c => { c with exc := { c.exc with entering := none, drains := 0 } }).endForTrap t.code.toNat)

/-- MONITOR_TRAP_HANDLE (R431): the monitor on a firmware core serves a trap of its supervisor firmware: SYSC, whose request it carries out or
refuses, TRAPI and BKPT resume it at TRAPPC; any other cause resets the package with its record kept. -/
def execMonitorTrapHandle (s : State) : Out :=
  let c := s.core
  if !c.inMonitor then .next s
  else
    let src := 11 * 4096 + (if c.die then 1 else 0)
    let cause := c.exc.cause.toNat
    let back := fun (s : State) =>
      s.modCore fun c => let c := c.eret; { c with flow := { c.flow with pc := c.exc.trappc, stall := none } }
    if cause = 0xC then .next (back (s.serveRequest (Config.request c.exc.info)))
    else if cause = 0xB ∨ cause = 0xD then .next (back (s.record src 0 cause (noAddr 0) c.exc.info))
    else .next (s.keepRecord src 2 cause (s.trapAddr c.exc.cause c.exc.info c.exc.trappc) c.exc.info).rebooted

end Sys2Proof.Machine
end

