-- ==== Sys2Proof/Machine/Quant.lean ====
section
/-! DEFINITION. Block quantisation and the deferral queue (07_vector.md R128 to R135). -/

namespace Sys2Proof.Machine

/-! ### Block quantisation (R128 to R132) -/

/-- The FP32 values of a vector. -/
def vecF32 (v : Vec) : List Fp := (List.range 32).map fun i => fF32.dec (laneGet 32 v i)

/-- VMAXB writes its side vector to D at issue + 3 and to the scale latch at issue + 4; a second one in a bundle is ILLOP, which
counts at the second (DESIGN CHOICE, log entry 144). -/
def execVmaxb (d : Dst) (a : Src) (bf : Bf) (s : State) : Out :=
  if s.core.port.pend.any fun p => p.issue == s.core.unf && (match p.act with | .latch _ _ => true | _ => false) then s.illop
  else
    let side := laneJoin 32 (sideOf bf (vecF32 (s.gV a)))
    .next ((s.post 3 (.vector d side)).post 4 (.latch side bf))

/-- VQNT under the latched side data; a latch of another format, or never written, is ILLOP. -/
def execVqnt (d : Dst) (a : Src) (bf : Bf) (s : State) : Out :=
  match s.core.mtx.latch with
  | none => s.illop
  | some (side, f) =>
    if f ≠ bf then s.illop
    else
      let rs := quantise bf (laneGet 32 side 0) (laneGet 32 side 1) (vecF32 (s.gV a))
      let v := rs.zipIdx.foldl (fun n r => n + r.1.1 * 2 ^ codePos bf r.2) 0
      let fl := rs.foldl (fun g r => g ||| r.2) flNone
      let s := s.post 3 (.vector d (.ofNat 1024 v))
      .next (if fl = flNone then s else s.post 3 (.flags fl))

/-- Side data that VDQNT refuses (R132). -/
def badSide (bf : Bf) (side : Vec) : Bool :=
  let bad := fun (x : Nat) =>
    match bf.px? with
    | some _ => decide (x / 2 ^ 20 ≠ 0) || (x / 2 ^ 10 % 4 != bf.tag && x / 2 ^ 10 % 4 != 3)
    | none => decide (x / 2 ^ 8 ≠ 0)
  decide (3 ≤ laneGet 32 side 2) || bad (laneGet 32 side 0) || (bf.px?.isSome && bad (laneGet 32 side 1))

/-- VDQNT: 32 elements as FP32, or 16 of them as FP64 (R89, R132). -/
def execVdqnt (d : Dst) (a b : Src) (bf : Bf) (s : State) : Out :=
  let side := s.gV b
  if badSide bf side then s.illop
  else
    let sel := laneGet 32 side 2
    let f := if sel = 0 then fF32 else fF64
    let at? := fun i =>
      let v := elemValue bf (laneGet 32 side 0) (laneGet 32 side 1) i ((s.gV a).toNat / 2 ^ codePos bf i % 2 ^ bf.width)
      f.enc .rne v v.sigFl
    let rs := if sel = 0 then (List.range 32).map at? else (List.range 16).map fun i => at? (16 * (sel - 1) + i)
    let fl := rs.foldl (fun g r => g ||| r.2) flNone
    let s := s.post 3 (.vector d (laneJoin f.width (rs.map Prod.fst)))
    .next (if fl = flNone then s else s.post 3 (.flags fl))

/-! ### The deferral queue (R133 to R135) -/

/-- Entries that VDEFERs have in flight; `now` counts those of this bundle only, or the earlier ones. -/
def State.deferring (s : State) (earlier : Bool) : Nat :=
  (s.core.port.pend.map fun p => match p.act with
    | .defer es => if earlier && p.issue == s.core.unf then 0 else es.length
    | _ => 0).sum

/-- VDEFER appends one entry for each active lane at issue + 2, or overflows (R134). Of several in a bundle the one whose lanes pass 256
raises DQOVF (DESIGN CHOICE, log entry 144). -/
def execVdefer (v : RegNo) (n : BitVec 2) (b : Src) (k : Small) (s : State) : Out :=
  if v.val + n.toNat > 15 then s.illop
  else
    let lane := fun (r i : Nat) => if r ≤ n.toNat then laneGet 32 (s.core.regs.v.get (Fin.ofNat 16 (v.val + r))) i else 0
    let es : List DqEntry := ((List.range 32).filter fun i => (s.gK k).getLsbD i).map fun i =>
      { lane := .ofNat 5 i, tag := .ofNat 27 (s.gS b).toNat, w0 := .ofNat 32 (lane 0 i), w1 := .ofNat 32 (lane 1 i),
        w2 := .ofNat 32 (lane 2 i), w3 := .ofNat 32 (lane 3 i) }
    if s.core.dq.length + s.deferring false + es.length > 256 then
      s.trap 8 (.ofNat 64 ((s.core.dq.length + s.deferring true) * 2))
    else .next (s.post 2 (.defer es))

/-- Bits [31:0] of an entry: the origin word of a filled lane (R135). -/
def DqEntry.origin (e : DqEntry) : Nat := e.lane.toNat + 32 * e.tag.toNat

/-- Field Wr of an entry. -/
def DqEntry.field (e : DqEntry) (r : Nat) : Nat :=
  match r with
  | 0 => e.w0.toNat
  | 1 => e.w1.toNat
  | 2 => e.w2.toNat
  | _ => e.w3.toNat

/-- Take the first `n` entries of a tag, keeping the order of the rest. -/
def takeTag (tag : BitVec 27) : Nat → List DqEntry → List DqEntry × List DqEntry
  | _, [] => ([], [])
  | 0, l => ([], l)
  | n + 1, e :: r =>
    if e.tag = tag then let (a, b) := takeTag tag n r; (e :: a, b) else let (a, b) := takeTag tag (n + 1) r; (a, e :: b)

/-- VDRAIN takes its entries at the read step and writes V to V + N and the origin vector at issue + 4 (R135). -/
def execVdrain (v : RegNo) (n : BitVec 2) (b : Src) (s : State) : Out :=
  if v.val + n.toNat > 15 then s.illop
  else
    let (es, rest) := takeTag (.ofNat 27 (s.gS b).toNat) 32 s.core.dq
    let s := s.modCore fun c => { c with dq := rest }
    let s := (List.range (n.toNat + 1)).foldl (fun s r =>
      s.post 4 (.vector (.reg (Fin.ofNat 16 (v.val + r))) (laneJoin 32 (es.map fun e => e.field r)))) s
    let origin := es.map DqEntry.origin ++ List.replicate (32 - es.length) 0xFFFFFFFF
    .next (s.post 4 (.vector .queue (laneJoin 32 origin)))

end Sys2Proof.Machine
end

