-- ==== Sys2Proof/Machine/Scalar.lean ====
section
/-! DEFINITION. Scalar integer, compare, predicate and constant instructions (06_scalar_control.md R90 to R97, R108). -/

namespace Sys2Proof.Machine

/-- NOP changes nothing; the bundle advances the program counter (R108). -/
def execNop (s : State) : Out := .next s

/-! ### Register forms, latency 1 (R91) -/

def execAdd (d : Dst) (a b : Src) (s : State) : Out := s.scalar 1 d (s.gS a + s.gS b)
def execSub (d : Dst) (a b : Src) (s : State) : Out := s.scalar 1 d (s.gS a - s.gS b)
def execAnd (d : Dst) (a b : Src) (s : State) : Out := s.scalar 1 d (s.gS a &&& s.gS b)
def execOr (d : Dst) (a b : Src) (s : State) : Out := s.scalar 1 d (s.gS a ||| s.gS b)
def execXor (d : Dst) (a b : Src) (s : State) : Out := s.scalar 1 d (s.gS a ^^^ s.gS b)
def execAndn (d : Dst) (a b : Src) (s : State) : Out := s.scalar 1 d (s.gS a &&& ~~~(s.gS b))

/-- A shift count is B[5:0]; B[63:6] is ignored (R91). -/
def shiftCount (b : Word) : Nat := b.toNat % 64

def execShl (d : Dst) (a b : Src) (s : State) : Out := s.scalar 1 d (s.gS a <<< shiftCount (s.gS b))
def execShr (d : Dst) (a b : Src) (s : State) : Out := s.scalar 1 d (s.gS a >>> shiftCount (s.gS b))
def execSra (d : Dst) (a b : Src) (s : State) : Out := s.scalar 1 d ((s.gS a).sshiftRight (shiftCount (s.gS b)))
def execRol (d : Dst) (a b : Src) (s : State) : Out := s.scalar 1 d ((s.gS a).rotateLeft (shiftCount (s.gS b)))
def execMinI64 (d : Dst) (a b : Src) (s : State) : Out :=
  s.scalar 1 d (if (s.gS b).slt (s.gS a) then s.gS b else s.gS a)
def execMinN64 (d : Dst) (a b : Src) (s : State) : Out :=
  s.scalar 1 d (if (s.gS b).ult (s.gS a) then s.gS b else s.gS a)
def execMaxI64 (d : Dst) (a b : Src) (s : State) : Out :=
  s.scalar 1 d (if (s.gS a).slt (s.gS b) then s.gS b else s.gS a)
def execMaxN64 (d : Dst) (a b : Src) (s : State) : Out :=
  s.scalar 1 d (if (s.gS a).ult (s.gS b) then s.gS b else s.gS a)

/-- Number of leading zero bits; 64 for 0 (R91). -/
def clzWord (x : Word) : Nat := if x = 0#64 then 64 else 63 - x.toNat.log2

/-- Number of trailing zero bits; 64 for 0 (R91): the lowest one bit is x AND −x. -/
def ctzWord (x : Word) : Nat := if x = 0#64 then 64 else (x &&& (0#64 - x)).toNat.log2

/-- Number of one bits (R91, R124). -/
def ones : Nat → Nat → Nat
  | 0, _ => 0
  | n + 1, x => x % 2 + ones n (x / 2)

def execClz (d : Dst) (a : Src) (s : State) : Out := s.scalar 1 d (.ofNat 64 (clzWord (s.gS a)))
def execCtz (d : Dst) (a : Src) (s : State) : Out := s.scalar 1 d (.ofNat 64 (ctzWord (s.gS a)))
def execPopc (d : Dst) (a : Src) (s : State) : Out := s.scalar 1 d (.ofNat 64 (ones 64 (s.gS a).toNat))
def execMov (d : Dst) (a : Src) (s : State) : Out := s.scalar 1 d (s.gS a)
def execSel (d : Dst) (a b : Src) (p : Small) (s : State) : Out := s.scalar 1 d (if s.gP p then s.gS a else s.gS b)

/-- Position and mask of a field word: a length above 64 acts as 64 (R92). -/
def fieldPos (b : Word) : Nat := b.toNat % 64
def fieldMask (b : Word) : Nat := 2 ^ min (bits b.toNat 6 7) 64 - 1

def execBext (d : Dst) (a b : Src) (s : State) : Out :=
  s.scalar 1 d (.ofNat 64 (((s.gS a).toNat >>> fieldPos (s.gS b)) &&& fieldMask (s.gS b)))

/-- Bits of the field above bit 63 do not exist (R92). -/
def execBins (d : Dst) (a b c : Src) (s : State) : Out :=
  let m : Word := .ofNat 64 (fieldMask (s.gS b) <<< fieldPos (s.gS b))
  s.scalar 1 d ((s.gS a &&& ~~~m) ||| ((s.gS c <<< fieldPos (s.gS b)) &&& m))

def execSextI8 (d : Dst) (a : Src) (s : State) : Out := s.scalar 1 d (((s.gS a).setWidth 8).signExtend 64)
def execSextI16 (d : Dst) (a : Src) (s : State) : Out := s.scalar 1 d (((s.gS a).setWidth 16).signExtend 64)
def execSextI32 (d : Dst) (a : Src) (s : State) : Out := s.scalar 1 d (((s.gS a).setWidth 32).signExtend 64)
def execLea (d : Dst) (a b : Src) (n : BitVec 2) (s : State) : Out := s.scalar 1 d (s.gS a + (s.gS b <<< n.toNat))

/-- WRAP subtracts once (R91). -/
def execWrap (d : Dst) (a b : Src) (s : State) : Out :=
  s.scalar 1 d (if s.gS b ≠ 0#64 ∧ (s.gS b).ule (s.gS a) then s.gS a - s.gS b else s.gS a)

/-! ### Multiply and divide (R94) -/

def execMul (d : Dst) (a b : Src) (s : State) : Out := s.scalar 3 d (s.gS a * s.gS b)
def execMulhI64 (d : Dst) (a b : Src) (s : State) : Out :=
  s.scalar 3 d (.ofInt 64 ((s.gS a).toInt * (s.gS b).toInt / (2 ^ 64 : Nat)))
def execMulhN64 (d : Dst) (a b : Src) (s : State) : Out :=
  s.scalar 3 d (.ofNat 64 ((s.gS a).toNat * (s.gS b).toNat / 2 ^ 64))

/-- A divide posts its result at issue + 20; a zero divisor gives all ones and sets `FLAGS.DIVZ` then, without a trap (R94). -/
def State.divide (s : State) (d : Dst) (b : Word) (v : Word) : Out :=
  if b = 0#64 then .next ((s.post 20 (.scalar d (BitVec.allOnes 64))).post 20 (.flags flDivz)) else s.scalar 20 d v

def execDivI64 (d : Dst) (a b : Src) (s : State) : Out :=
  s.divide d (s.gS b) (.ofInt 64 ((s.gS a).toInt.tdiv (s.gS b).toInt))
def execDivN64 (d : Dst) (a b : Src) (s : State) : Out := s.divide d (s.gS b) (s.gS a / s.gS b)
def execRemI64 (d : Dst) (a b : Src) (s : State) : Out :=
  s.divide d (s.gS b) (.ofInt 64 ((s.gS a).toInt.tmod (s.gS b).toInt))
def execRemN64 (d : Dst) (a b : Src) (s : State) : Out := s.divide d (s.gS b) (s.gS a % s.gS b)

/-! ### Compares and predicates (R95, R96) -/

/-- The ten conditions (R53, R95). -/
def Cond.holds (c : Cond) (a b : Word) : Bool :=
  match c with
  | .eq => a == b
  | .ne => a != b
  | .ltI => a.slt b
  | .leI => a.sle b
  | .gtI => b.slt a
  | .geI => b.sle a
  | .ltN => a.ult b
  | .leN => a.ule b
  | .gtN => b.ult a
  | .geN => b.ule a

def execCmp (p : Small) (cc : Cond) (a b : Src) (s : State) : Out :=
  .next (s.post 1 (.pred p (Cond.holds cc (s.gS a) (s.gS b))))
def execCmpImm (p : Small) (cc : Cond) (a : Src) (imm : BitVec 15) (s : State) : Out :=
  .next (s.post 1 (.pred p (Cond.holds cc (s.gS a) (imm.signExtend 64))))
def execPand (pd pa pb : Small) (s : State) : Out := .next (s.post 1 (.pred pd (s.gP pa && s.gP pb)))
def execPor (pd pa pb : Small) (s : State) : Out := .next (s.post 1 (.pred pd (s.gP pa || s.gP pb)))
def execPnot (pd pa : Small) (s : State) : Out := .next (s.post 1 (.pred pd (!s.gP pa)))

/-! ### Immediate forms (R93) -/

def execAddImm (d : Dst) (a : Src) (imm : BitVec 17) (s : State) : Out := s.scalar 1 d (s.gS a + imm.signExtend 64)
def execAndImm (d : Dst) (a : Src) (imm : BitVec 17) (s : State) : Out := s.scalar 1 d (s.gS a &&& imm.signExtend 64)
def execOrImm (d : Dst) (a : Src) (imm : BitVec 17) (s : State) : Out := s.scalar 1 d (s.gS a ||| imm.signExtend 64)
def execXorImm (d : Dst) (a : Src) (imm : BitVec 17) (s : State) : Out := s.scalar 1 d (s.gS a ^^^ imm.signExtend 64)
def execShlImm (d : Dst) (a : Src) (n : BitVec 6) (s : State) : Out := s.scalar 1 d (s.gS a <<< n.toNat)
def execShrImm (d : Dst) (a : Src) (n : BitVec 6) (s : State) : Out := s.scalar 1 d (s.gS a >>> n.toNat)
def execSraImm (d : Dst) (a : Src) (n : BitVec 6) (s : State) : Out := s.scalar 1 d ((s.gS a).sshiftRight n.toNat)
def execRolImm (d : Dst) (a : Src) (n : BitVec 6) (s : State) : Out := s.scalar 1 d ((s.gS a).rotateLeft n.toNat)
def execMulImm (d : Dst) (a : Src) (imm : BitVec 17) (s : State) : Out := s.scalar 3 d (s.gS a * imm.signExtend 64)

/-! ### Constants (R97) -/

def execLi (d : Dst) (imm : BitVec 22) (s : State) : Out := s.scalar 1 d (imm.signExtend 64)

/-- LIH reads and writes its named register (R97). -/
def execLih (d : RegNo) (imm : BitVec 22) (s : State) : Out :=
  s.scalar 1 (.reg d) ((s.gS (.reg d) <<< 22) ||| imm.setWidth 64)

end Sys2Proof.Machine
end

