-- ==== Sys2Proof/Machine/SumProduct.lean ====
section
/-! DEFINITION. The sum-product engine (09_sum_product.md R168 to R180). -/

namespace Sys2Proof.Machine

/-! ### Shapes (R170, R171) -/

/-- Fields of a shape-table entry. -/
def shapeNode (sh n : Nat) : Nat := bits sh (2 * n - 2) 2
def shapeMasked (sh l : Nat) : Bool := sh.testBit (32 + l)
def shapeRoot (sh : Nat) : Nat := bits sh 48 7
def shapeLeaf (sh l : Nat) : Nat := bits sh (64 + 7 * l) 7

/-- The identity of a node code, which a masked leaf takes. -/
def nodeIdent (sp : Bool) (code : Nat) : Nat :=
  match code with
  | 0 => if sp then 0 else 0x80000000
  | 1 => if sp then 0x7FF00000 else 0x3F800000
  | 2 => if sp then 0 else 0xFF800000
  | _ => 0

/-- Addition and multiplication of a mode. -/
def modeAdd (sp : Bool) (a b : Nat) : Nat × Fl := if sp then spAdd a b else f32Add a b
def modeMul (sp : Bool) (a b : Nat) : Nat × Fl := if sp then spMul a b else f32Mul a b

/-- What a node computes of its children (R171). SP32 MAX delivers the larger pattern as it stands, a zero with a fraction among them
(DESIGN CHOICE, log entry 147). -/
def nodeValue (sp : Bool) (code a b : Nat) : Nat × Fl :=
  match code with
  | 0 => modeAdd sp a b
  | 1 => modeMul sp a b
  | 2 =>
    if sp then (if (spDec a).isNone || (spDec b).isNone then (spInvalid, flInv) else (max a b, flNone))
    else laneMax .f32 a b
  | _ => (a, flNone)

/-- The values of nodes 1 to 31 of a tree, at their numbers, with the flags (R172). -/
def treeValues (sp : Bool) (sh : Nat) (leaf : Nat → Nat) : List Nat × Fl :=
  let leaves := (List.range 16).map fun l => if shapeMasked sh l then nodeIdent sp (shapeNode sh (8 + l / 2)) else leaf l
  (List.range 15).foldl (fun (a : List Nat × Fl) i =>
    let n := 15 - i
    let (x, f) := nodeValue sp (shapeNode sh n) (a.1.getD (2 * n) 0) (a.1.getD (2 * n + 1) 0)
    (a.1.set n x, a.2 ||| f)) (List.replicate 16 0 ++ leaves, flNone)

/-- Whether the right child of a MAX node is the larger (R173). -/
def rightLarger (sp : Bool) (a b : Nat) : Bool :=
  if sp then (spDec a).isSome && (spDec b).isSome && decide (a < b)
  else
    let x := fF32.dec a
    let y := fF32.dec b
    !x.isNan && !y.isNan && y.cmp x == .gt

/-- The adjoints of nodes 1 to 31 from a root adjoint (R173). -/
def treeAdjoints (sp : Bool) (sh : Nat) (v : List Nat) (root : Nat) : List Nat × Fl :=
  (List.range 15).foldl (fun (a : List Nat × Fl) i =>
    let n := i + 1
    let g := a.1.getD n 0
    let v0 := v.getD (2 * n) 0
    let v1 := v.getD (2 * n + 1) 0
    let put := fun (x y : Nat) (f : Fl) => ((a.1.set (2 * n) x).set (2 * n + 1) y, a.2 ||| f)
    match shapeNode sh n with
    | 0 => put g g flNone
    | 1 => let (x, f) := modeMul sp g v1; let (y, h) := modeMul sp g v0; put x y (f ||| h)
    | 2 => if rightLarger sp v0 v1 then put 0 g flNone else put g 0 flNone
    | _ => put g 0 flNone) ((List.replicate 32 0).set 1 root, flNone)

/-! ### The passes (R172 to R177) -/

/-- The trees of an instruction: number and base. -/
def State.trees (s : State) (tm : BitVec 4) (z : BitVec 12) : List Nat :=
  ((List.range 4).filter fun t => tm.getLsbD t).map fun t => z.toNat + t * s.core.ctl.speqs.toNat

/-- Scratch indexes of the unmasked leaves of a tree. -/
def leafRegs (sh base : Nat) : List Nat :=
  ((List.range 16).filter fun l => !shapeMasked sh l).map fun l => base + shapeLeaf sh l

/-- A shape-table entry, and a scratch register. -/
def State.shapeAt (s : State) (sh : BitVec 6) : Nat := (cget 0#256 s.core.spe.shapes sh.toNat).toNat
def State.zAt (s : State) (i : Nat) : Nat := (cget 0#32 s.core.spe.z i).toNat

/-- The bank with the most of some indexes, the lowest among equals, and its count (R168). -/
def busiestBank (l : List Nat) : Nat × Nat :=
  (List.range 32).foldl (fun (a : Nat × Nat) b =>
    let n := (l.filter fun z => z % 32 == b).length
    if a.2 < n then (b, n) else a) (0, 0)

/-- SPEBANK (R175, R407): bank, and the phase that exceeds. -/
def State.bankTrap (s : State) (bank phase : Nat) : Out := s.trap 0xE (.ofNat 64 (s.where + bank * 2 ^ 15 + phase * 2 ^ 20))

/-- MCHECK for the first of some registers that holds an uncorrectable error (R177, R399); which of several bad ones is named is the
model's choice (DESIGN CHOICE, log entry 149). -/
def State.goodRegs (s : State) (codes : List Nat) (f : Out) : Out :=
  match codes.find? s.badReg with
  | some c => s.trap 0xA (regInfo c)
  | none => f

/-- What SPEUP and SPEDN share: the index check, the read-step check and its excess, and the excess of the later phase
(R174, R175, R177). A bad register comes after the index check and before SPEBANK (DESIGN CHOICE, log entry 149). -/
def State.spePass (s : State) (sh : BitVec 6) (idx reads late : List Nat) (allow phase lat : Nat) (f : State → Out) : Out :=
  s.ownArray
    (if idx.any fun i => decide (4095 < i) then s.illop
     else s.goodRegs (regCode 7 sh.toNat :: reads.map (regCode 4))
      (let (br, r) := busiestBank (distinct reads)
       let (bw, w) := busiestBank late
       let xr := (r + 1) / 2 - 1
       let xw := w - allow
       if s.core.ctl.chk && decide (0 < xr) then s.bankTrap br 0
       else if s.core.ctl.chk && decide (0 < xw) then s.bankTrap bw phase
       else
         let s := s.modCore fun c => { c with lost := max c.lost xr }
         f (if 0 < xw then s.post lat (.freeze xw) else s)))

/-- SPEUP (R172): the roots are written at issue + 12. -/
def execSpeup (sh : BitVec 6) (tm : BitVec 4) (z : BitVec 12) (s : State) : Out :=
  let shp := s.shapeAt sh
  let sp := s.core.ctl.spemode
  let bs := s.trees tm z
  let roots := bs.map fun b => b + shapeRoot shp
  let reads := (bs.map (leafRegs shp)).flatten
  s.spePass sh (reads ++ roots) reads roots 1 1 12 fun s =>
    let rs := bs.map fun b =>
      let (v, f) := treeValues sp shp fun l => s.zAt (b + shapeLeaf shp l)
      (b + shapeRoot shp, v.getD 1 0, f)
    let fl := rs.foldl (fun a r => a ||| r.2.2) flNone
    let s := s.post 12 (.scratch (rs.map fun r => (r.1, .ofNat 32 r.2.1)))
    .next (if fl = flNone then s else s.post 12 (.flags fl))

/-- SPEDN (R173): the leaf adjoints accumulate at issue + 16. -/
def execSpedn (sh : BitVec 6) (tm : BitVec 4) (z : BitVec 12) (s : State) : Out :=
  let shp := s.shapeAt sh
  let sp := s.core.ctl.spemode
  let off := s.core.ctl.adjoff.toNat
  let bs := s.trees tm z
  let leaves := (bs.map (leafRegs shp)).flatten
  let roots := bs.map fun b => b + shapeRoot shp
  let reads := leaves ++ roots.map (· + off)
  s.spePass sh (leaves ++ roots ++ (leaves ++ roots).map (· + off)) reads (leaves.map (· + off)) 2 2 16 fun s =>
    let gs := bs.map fun b =>
      let (v, _) := treeValues sp shp fun l => s.zAt (b + shapeLeaf shp l)
      let (g, f) := treeAdjoints sp shp v (s.zAt (b + shapeRoot shp + off))
      (((List.range 16).filter fun l => !shapeMasked shp l).map fun l =>
        (b + shapeLeaf shp l + off, BitVec.ofNat 32 (g.getD (16 + l) 0)), f)
    .next (s.post 16 (.adjoints sp (gs.map Prod.fst).flatten (gs.foldl (fun a r => a ||| r.2) flNone)))

/-! ### Moves (R178 to R180) -/

/-- SPESHP: the entry is read as a core-scratchpad load and written at issue + 6 (R179). -/
def execSpeshp (sh : BitVec 6) (a : Src) (s : State) : Out :=
  s.ownArray (s.descRead (s.gS a).toNat 32 (.shape sh.toNat) fun s => .next s)

/-- The 32 registers from zN (R180). -/
def State.zBlock (s : State) (z : BitVec 12) (f : Out) : Out := s.ownArray (if 4064 < z.toNat then s.illop else f)
def zRegs (z : BitVec 12) : List Nat := (List.range 32).map fun i => z.toNat + i
def State.zReadBlock (s : State) (z : BitVec 12) (f : Out) : Out := s.zBlock z (s.goodRegs ((zRegs z).map (regCode 4)) f)

def execSpeld (a : Src) (z : BitVec 12) (s : State) : Out :=
  s.zBlock z (.next (s.post 3 (.scratch ((List.range 32).map fun i => (z.toNat + i, .ofNat 32 (laneGet 32 (s.gV a) i))))))

def execSpest (d : Dst) (z : BitVec 12) (s : State) : Out :=
  s.zReadBlock z (s.vector 3 d (laneJoin 32 ((zRegs z).map s.zAt)))

/-- FP32 to SP32, and back (R89). -/
def toSp (x : Nat) : Nat × Fl :=
  match fF32.dec x with
  | .fin neg m e => if m = 0 then (0, flNone) else if neg then (spInvalid, flInv) else spr m e
  | _ => (spInvalid, flInv)
def fromSp (x : Nat) : Nat × Fl :=
  match spDec x with
  | none => (fF32.nanCode, flInv)
  | some (m, e) => fF32.enc .rne (.fin false m e) flNone

/-- A conversion of the 32 registers in place. -/
def State.specvt (s : State) (z : BitVec 12) (f : Nat → Nat × Fl) : Out :=
  s.zReadBlock z
    (let rs := (zRegs z).map fun i => (i, f (s.zAt i))
     let fl := rs.foldl (fun a r => a ||| r.2.2) flNone
     let s := s.post 3 (.scratch (rs.map fun r => (r.1, .ofNat 32 r.2.1)))
     .next (if fl = flNone then s else s.post 3 (.flags fl)))

def execSpecvtF32Sp32 (z : BitVec 12) (s : State) : Out := s.specvt z toSp
def execSpecvtSp32F32 (z : BitVec 12) (s : State) : Out := s.specvt z fromSp

def execSpeza (z : BitVec 12) (s : State) : Out := s.zBlock z (.next (s.post 2 (.scratch ((zRegs z).map fun i => (i, 0#32)))))

end Sys2Proof.Machine
end

