-- ==== Sys2Proof/Machine/VectorMem.lean ====
section
/-! DEFINITION. Vector loads and stores (07_vector.md R136 to R140). -/

namespace Sys2Proof.Machine

/-- The active lanes of a mask among the first `n`. -/
def State.activeLanes (s : State) (k : Small) (n : Nat) : List Nat := (List.range n).filter fun i => (s.gK k).getLsbD i

/-- Generic addresses wrap at 2^64. -/
def wrap64 (i : Int) : Nat := (i % ((2 ^ 64 : Nat) : Int)).toNat

/-- The lanes of an access: lane number and address. -/
abbrev LaneAddrs := List (Nat × Nat)

/-- The bytes of the active lanes lie in one window (R136 check 2): the window, and the offset of each lane. -/
def State.laneWindow (s : State) (n : Nat) (ls : LaneAddrs) : Chk (Option Win × List (Nat × Nat)) :=
  match ls with
  | [] => .ok (none, [])
  | (_, a0) :: _ =>
    match s.window s.core a0 n with
    | none => .bad 5 (.ofNat 64 a0) false
    | some (w, _) =>
      (Chk.all (fun (x : Nat × Nat) =>
        match s.window s.core x.2 n with
        | some (v, o) => if v = w then .ok (x.1, o) else .bad 5 (.ofNat 64 x.2) false
        | none => .bad 5 (.ofNat 64 x.2) false) ls).bind fun os => .ok (some w, os)

/-- The keys of lanes that lie in a window (R136 check 4). -/
def State.laneKeys (s : State) (w : Win) (os : List (Nat × Nat)) (write : Bool) : Chk (List (Nat × Nat)) :=
  Chk.all (fun (x : Nat × Nat) => (s.checkKey w x.2 write false).bind fun k => .ok (x.1, k)) os

/-- Alignment of an access (R136 check 1): every address of a list is a multiple of `al`. -/
def checkAlign (al : Nat) (as : List Nat) : Chk Unit :=
  match as.find? fun a => a % al != 0 with
  | some a => .bad 6 (.ofNat 64 a) false
  | none => .ok ()

/-- The value of the inactive lanes of a load (R110). -/
def State.inactiveBase (s : State) (d : Dst) (w n : Nat) (active : List Nat) : Vec :=
  laneJoin w ((List.range n).map fun i => if active.contains i then 0 else s.oldLane d w i)

/-- A vector load of `n` lanes of `w` bits (R136). `aligned` are the addresses that check 1 judges, when a lane is active. -/
def State.vload (s : State) (d : Dst) (k : Small) (dl : Delay) (w n al : Nat) (aligned : LaneAddrs → List Nat) (addr : Nat → Nat) : Out :=
  let act := s.activeLanes k n
  let ls : LaneAddrs := act.map fun i => (i, addr i)
  let base := s.inactiveBase d w n act
  s.checked (checkAlign al (aligned ls)) fun _ =>
    s.checked (s.laneWindow (w / 8) ls) fun x =>
      if !s.landingRoom then s.illop
      else match x.1 with
        | none => .next ((s.addLanding (delayCycles dl) 0 (.vector d) true).fill s.core.unf s.core.flow.slot base true none true)
        | some win =>
          s.checked (s.laneKeys win x.2 false) fun ks =>
            s.load win (delayCycles dl) (.vector d) base (ks.map fun p => ⟨w * p.1, p.2, w / 8⟩)
              (.ofNat 64 ((ls.head?.map Prod.snd).getD 0)) false

/-- A vector store of `n` lanes of `w` bits, in ascending lane order, so that the highest lane remains (R136, R139, R140). -/
def State.vstore (s : State) (b : Src) (k : Small) (w n al : Nat) (aligned : LaneAddrs → List Nat) (addr : Nat → Nat) : Out :=
  let act := s.activeLanes k n
  let ls : LaneAddrs := act.map fun i => (i, addr i)
  s.checked (checkAlign al (aligned ls)) fun _ =>
    s.checked (s.laneWindow (w / 8) ls) fun x =>
      match x.1 with
      | none => .next s
      | some win =>
        s.checked (s.laneKeys win x.2 true) fun ks =>
          if s.heldHost (ks.map fun p => (p.2, w / 8)) then .next (s.wait .provisional)
          else s.store win (ks.map fun p => ⟨p.2, natBytes (laneGet w (s.gV b) p.1) (w / 8)⟩) false

/-- Check 1 judges one base address, or every lane's address. -/
def alignBase (a : Nat) (ls : LaneAddrs) : List Nat := if ls.isEmpty then [] else [a]
def alignLanes (ls : LaneAddrs) : List Nat := ls.map Prod.snd

/-! ### Contiguous and strided forms (R137) -/

/-- Base address of VLD and VST: offsets count 128 bytes. -/
def State.vecBase (s : State) (a : Src) (off : Int) : Nat := wrap64 ((s.gS a).toNat + off * 128)

def execVld (d : Dst) (a : Src) (off : BitVec 6) (k : Small) (dl : Delay) (s : State) : Out :=
  let base := s.vecBase a off.toInt
  s.vload d k dl 32 32 64 (alignBase base) fun i => wrap64 (base + 4 * i)
def execVst (b a : Src) (off : BitVec 14) (k : Small) (s : State) : Out :=
  let base := s.vecBase a off.toInt
  s.vstore b k 32 32 64 (alignBase base) fun i => wrap64 (base + 4 * i)

/-- Address of a strided lane: A + i × B, B signed. -/
def State.strideAddr (s : State) (a b : Src) (i : Nat) : Nat := wrap64 ((s.gS a).toNat + i * (s.gS b).toInt)

def execVlds (d : Dst) (a b : Src) (k : Small) (dl : Delay) (s : State) : Out :=
  s.vload d k dl 32 32 4 alignLanes (s.strideAddr a b)
def execVsts (b a sb : Src) (k : Small) (s : State) : Out := s.vstore b k 32 32 4 alignLanes (s.strideAddr a sb)

/-! ### Gathers and scatters (R137, R139) -/

/-- Address of an indexed lane: A + index × w / 8, the index a natural number of the lane's width. -/
def State.indexAddr (s : State) (a vi : Src) (w i : Nat) : Nat := wrap64 ((s.gS a).toNat + laneGet w (s.gV vi) i * (w / 8))

def execVgath (d : Dst) (a vi : Src) (w64 : Bool) (k : Small) (dl : Delay) (s : State) : Out :=
  let w := if w64 then 64 else 32
  s.vload d k dl w (if w64 then 16 else 32) (w / 8) (alignBase (s.gS a).toNat) (s.indexAddr a vi w)
def execVscat (b a vi : Src) (w64 : Bool) (k : Small) (s : State) : Out :=
  let w := if w64 then 64 else 32
  s.vstore b k w (if w64 then 16 else 32) (w / 8) (alignBase (s.gS a).toNat) (s.indexAddr a vi w)

/-! ### Lane slices (R138) -/

/-- The slice offset of a lane-slice access, with the checks of R136 and R138 in their order. -/
def State.sliceOffset (s : State) (a : Src) (off : Int) : Chk Nat :=
  let addr := wrap64 ((s.gS a).toNat + off * 4)
  if addr % 4 ≠ 0 then .bad 6 (.ofNat 64 addr) false
  else match s.window s.core addr 4 with
    | none => .bad 5 (.ofNat 64 addr) false
    | some (.lane, o) => if o < 1024 then .ok o else .bad 5 (.ofNat 64 addr) false
    | some _ => .bad 1 (.ofNat 64 s.where) false

/-- Key of a slice offset in the slice of a lane. -/
def State.sliceKey (s : State) (i o : Nat) : Nat := keyLane s.core.id (i * 1024 + o)

def execVldl (d : Dst) (a : Src) (off : BitVec 6) (k : Small) (dl : Delay) (s : State) : Out :=
  let act := s.activeLanes k 32
  let base := s.inactiveBase d 32 32 act
  if act.isEmpty then
    (if !s.landingRoom then s.illop
     else .next ((s.addLanding (delayCycles dl) 0 (.vector d) true).fill s.core.unf s.core.flow.slot base true none true))
  else s.checked (s.sliceOffset a off.toInt) fun o =>
    if !s.landingRoom then s.illop
    else s.load .lane (delayCycles dl) (.vector d) base (act.map fun i => ⟨32 * i, s.sliceKey i o, 4⟩)
      (.ofNat 64 (Win.lane.base + o)) false

def execVstl (b a : Src) (off : BitVec 14) (k : Small) (s : State) : Out :=
  let act := s.activeLanes k 32
  if act.isEmpty then .next s
  else s.checked (s.sliceOffset a off.toInt) fun o =>
    s.store .lane (act.map fun i => ⟨s.sliceKey i o, natBytes (laneGet 32 (s.gV b) i) 4⟩) false

end Sys2Proof.Machine
end

