-- ==== Sys2Proof/Machine/Dispatch.lean ====
section
/-! DEFINITION. The one match from an instruction to its meaning. -/

namespace Sys2Proof.Machine

def exec (i : Instr) (s : State) : Host.Outcome State Fault Refusal :=
  match i with
  | .headerTransfer l stall xc tb ext => Sys2Proof.Machine.execHeaderTransfer l stall xc tb ext s
  | .lockHeader l stall cnt banks => Sys2Proof.Machine.execLockHeader l stall cnt banks s
  | .add d a b => Sys2Proof.Machine.execAdd d a b s
  | .sub d a b => Sys2Proof.Machine.execSub d a b s
  | .and d a b => Sys2Proof.Machine.execAnd d a b s
  | .or d a b => Sys2Proof.Machine.execOr d a b s
  | .xor d a b => Sys2Proof.Machine.execXor d a b s
  | .andn d a b => Sys2Proof.Machine.execAndn d a b s
  | .shl d a b => Sys2Proof.Machine.execShl d a b s
  | .shr d a b => Sys2Proof.Machine.execShr d a b s
  | .sra d a b => Sys2Proof.Machine.execSra d a b s
  | .rol d a b => Sys2Proof.Machine.execRol d a b s
  | .minI64 d a b => Sys2Proof.Machine.execMinI64 d a b s
  | .minN64 d a b => Sys2Proof.Machine.execMinN64 d a b s
  | .maxI64 d a b => Sys2Proof.Machine.execMaxI64 d a b s
  | .maxN64 d a b => Sys2Proof.Machine.execMaxN64 d a b s
  | .clz d a => Sys2Proof.Machine.execClz d a s
  | .ctz d a => Sys2Proof.Machine.execCtz d a s
  | .popc d a => Sys2Proof.Machine.execPopc d a s
  | .mov d a => Sys2Proof.Machine.execMov d a s
  | .sel d a b p => Sys2Proof.Machine.execSel d a b p s
  | .bext d a b => Sys2Proof.Machine.execBext d a b s
  | .bins d a b c => Sys2Proof.Machine.execBins d a b c s
  | .sextI8 d a => Sys2Proof.Machine.execSextI8 d a s
  | .sextI16 d a => Sys2Proof.Machine.execSextI16 d a s
  | .sextI32 d a => Sys2Proof.Machine.execSextI32 d a s
  | .lea d a b n => Sys2Proof.Machine.execLea d a b n s
  | .wrap d a b => Sys2Proof.Machine.execWrap d a b s
  | .mul d a b => Sys2Proof.Machine.execMul d a b s
  | .mulhI64 d a b => Sys2Proof.Machine.execMulhI64 d a b s
  | .mulhN64 d a b => Sys2Proof.Machine.execMulhN64 d a b s
  | .divI64 d a b => Sys2Proof.Machine.execDivI64 d a b s
  | .divN64 d a b => Sys2Proof.Machine.execDivN64 d a b s
  | .remI64 d a b => Sys2Proof.Machine.execRemI64 d a b s
  | .remN64 d a b => Sys2Proof.Machine.execRemN64 d a b s
  | .cmp p cc a b => Sys2Proof.Machine.execCmp p cc a b s
  | .cmpImm p cc a imm => Sys2Proof.Machine.execCmpImm p cc a imm s
  | .pand pd pa pb => Sys2Proof.Machine.execPand pd pa pb s
  | .por pd pa pb => Sys2Proof.Machine.execPor pd pa pb s
  | .pnot pd pa => Sys2Proof.Machine.execPnot pd pa s
  | .addImm d a imm => Sys2Proof.Machine.execAddImm d a imm s
  | .andImm d a imm => Sys2Proof.Machine.execAndImm d a imm s
  | .orImm d a imm => Sys2Proof.Machine.execOrImm d a imm s
  | .xorImm d a imm => Sys2Proof.Machine.execXorImm d a imm s
  | .shlImm d a n => Sys2Proof.Machine.execShlImm d a n s
  | .shrImm d a n => Sys2Proof.Machine.execShrImm d a n s
  | .sraImm d a n => Sys2Proof.Machine.execSraImm d a n s
  | .rolImm d a n => Sys2Proof.Machine.execRolImm d a n s
  | .mulImm d a imm => Sys2Proof.Machine.execMulImm d a imm s
  | .li d imm => Sys2Proof.Machine.execLi d imm s
  | .lih d imm => Sys2Proof.Machine.execLih d imm s
  | .ptb tb lk off => Sys2Proof.Machine.execPtb tb lk off s
  | .ptbReg tb lk a => Sys2Proof.Machine.execPtbReg tb lk a s
  | .tbReady tb => Sys2Proof.Machine.execTbReady tb s
  | .ctlr d idx => Sys2Proof.Machine.execCtlr d idx s
  | .ctlw idx a => Sys2Proof.Machine.execCtlw idx a s
  | .ctlwArrmode a => Sys2Proof.Machine.execCtlwArrmode a s
  | .ctlwCvcur a => Sys2Proof.Machine.execCtlwCvcur a s
  | .ctlwEvt a => Sys2Proof.Machine.execCtlwEvt a s
  | .ctlwAsid a => Sys2Proof.Machine.execCtlwAsid a s
  | .ctlwPtroot a => Sys2Proof.Machine.execCtlwPtroot a s
  | .ctlwPartmap a => Sys2Proof.Machine.execCtlwPartmap a s
  | .ctlwKeyctl a => Sys2Proof.Machine.execCtlwKeyctl a s
  | .ld d a sz sx off dl => Sys2Proof.Machine.execLd d a sz sx off dl s
  | .ldAcq d a sz sx off dl => Sys2Proof.Machine.execLdAcq d a sz sx off dl s
  | .st b a sz off => Sys2Proof.Machine.execSt b a sz off s
  | .stRel b a sz off => Sys2Proof.Machine.execStRel b a sz off s
  | .amoAdd a b ty use dl => Sys2Proof.Machine.execAmoAdd a b ty use dl s
  | .amoAnd a b ty use dl => Sys2Proof.Machine.execAmoAnd a b ty use dl s
  | .amoOr a b ty use dl => Sys2Proof.Machine.execAmoOr a b ty use dl s
  | .amoXor a b ty use dl => Sys2Proof.Machine.execAmoXor a b ty use dl s
  | .amoSwap a b ty use dl => Sys2Proof.Machine.execAmoSwap a b ty use dl s
  | .amoMin a b ty use dl => Sys2Proof.Machine.execAmoMin a b ty use dl s
  | .amoMax a b ty use dl => Sys2Proof.Machine.execAmoMax a b ty use dl s
  | .cas a b c w use dl => Sys2Proof.Machine.execCas a b c w use dl s
  | .fence sc => Sys2Proof.Machine.execFence sc s
  | .fenceX sc => Sys2Proof.Machine.execFenceX sc s
  | .boinit a b => Sys2Proof.Machine.execBoinit a b s
  | .boarm a b => Sys2Proof.Machine.execBoarm a b s
  | .bowait a => Sys2Proof.Machine.execBowait a s
  | .cwb a b => Sys2Proof.Machine.execCwb a b s
  | .cinv a b => Sys2Proof.Machine.execCinv a b s
  | .sev a => Sys2Proof.Machine.execSev a s
  | .fork task a b => Sys2Proof.Machine.execFork task a b s
  | .launch d a => Sys2Proof.Machine.execLaunch d a s
  | .shape a b => Sys2Proof.Machine.execShape a b s
  | .qsigSet a b => Sys2Proof.Machine.execQsigSet a b s
  | .qsigAdd a b => Sys2Proof.Machine.execQsigAdd a b s
  | .qsigOr a b => Sys2Proof.Machine.execQsigOr a b s
  | .pqpush a b => Sys2Proof.Machine.execPqpush a b s
  | .sqrun a b => Sys2Proof.Machine.execSqrun a b s
  | .sqcfg d a b => Sys2Proof.Machine.execSqcfg d a b s
  | .pqtake d dl => Sys2Proof.Machine.execPqtake d dl s
  | .depth d a dl => Sys2Proof.Machine.execDepth d a dl s
  | .rbread d dl => Sys2Proof.Machine.execRbread d dl s
  | .sysc a => Sys2Proof.Machine.execSysc a s
  | .tlbiVa a b => Sys2Proof.Machine.execTlbiVa a b s
  | .tlbiAsid b => Sys2Proof.Machine.execTlbiAsid b s
  | .lockw d a => Sys2Proof.Machine.execLockw d a s
  | .prmt d a b => Sys2Proof.Machine.execPrmt d a b s
  | .rsum d a => Sys2Proof.Machine.execRsum d a s
  | .trap code => Sys2Proof.Machine.execTrap code s
  | .vadd d a b k ty => Sys2Proof.Machine.execVadd d a b k ty s
  | .vsub d a b k ty => Sys2Proof.Machine.execVsub d a b k ty s
  | .vmul d a b k ty => Sys2Proof.Machine.execVmul d a b k ty s
  | .vmin d a b k ty => Sys2Proof.Machine.execVmin d a b k ty s
  | .vmax d a b k ty => Sys2Proof.Machine.execVmax d a b k ty s
  | .vdiv d a b k ty => Sys2Proof.Machine.execVdiv d a b k ty s
  | .vabs d a k ty => Sys2Proof.Machine.execVabs d a k ty s
  | .vneg d a k ty => Sys2Proof.Machine.execVneg d a k ty s
  | .vand d a b k ty => Sys2Proof.Machine.execVand d a b k ty s
  | .vor d a b k ty => Sys2Proof.Machine.execVor d a b k ty s
  | .vxor d a b k ty => Sys2Proof.Machine.execVxor d a b k ty s
  | .vshl d a b k ty => Sys2Proof.Machine.execVshl d a b k ty s
  | .vshr d a b k ty => Sys2Proof.Machine.execVshr d a b k ty s
  | .vsra d a b k ty => Sys2Proof.Machine.execVsra d a b k ty s
  | .vsel d a b k ty => Sys2Proof.Machine.execVsel d a b k ty s
  | .vsqrt d a k ty => Sys2Proof.Machine.execVsqrt d a k ty s
  | .vrcp d a k ty => Sys2Proof.Machine.execVrcp d a k ty s
  | .vrsq d a k ty => Sys2Proof.Machine.execVrsq d a k ty s
  | .vfex2 d a k ty => Sys2Proof.Machine.execVfex2 d a k ty s
  | .vlg2 d a k ty => Sys2Proof.Machine.execVlg2 d a k ty s
  | .vgetx d a k ty => Sys2Proof.Machine.execVgetx d a k ty s
  | .vinsx d a b k ty => Sys2Proof.Machine.execVinsx d a b k ty s
  | .vrndi d a rm k ty => Sys2Proof.Machine.execVrndi d a rm k ty s
  | .vfma d a b c tf k => Sys2Proof.Machine.execVfma d a b c tf k s
  | .vfms d a b c tf k => Sys2Proof.Machine.execVfms d a b c tf k s
  | .vfnma d a b c tf k => Sys2Proof.Machine.execVfnma d a b c tf k s
  | .vcvt d a tyd tys rm k sat => Sys2Proof.Machine.execVcvt d a tyd tys rm k sat s
  | .vcmp kd cc a b k ty => Sys2Proof.Machine.execVcmp kd cc a b k ty s
  | .kand kd ka kb => Sys2Proof.Machine.execKand kd ka kb s
  | .kor kd ka kb => Sys2Proof.Machine.execKor kd ka kb s
  | .knot kd ka => Sys2Proof.Machine.execKnot kd ka s
  | .kpopc d ka => Sys2Proof.Machine.execKpopc d ka s
  | .vctw ka => Sys2Proof.Machine.execVctw ka s
  | .vbcast d a k ty => Sys2Proof.Machine.execVbcast d a k ty s
  | .vext d a b ty => Sys2Proof.Machine.execVext d a b ty s
  | .vins d a b k ty => Sys2Proof.Machine.execVins d a b k ty s
  | .viota d k ty => Sys2Proof.Machine.execViota d k ty s
  | .vperm d a b k ty => Sys2Proof.Machine.execVperm d a b k ty s
  | .vredadd d a k ty => Sys2Proof.Machine.execVredadd d a k ty s
  | .vredmax d a k ty => Sys2Proof.Machine.execVredmax d a k ty s
  | .vredmin d a k ty => Sys2Proof.Machine.execVredmin d a k ty s
  | .vmaxb d a bf => Sys2Proof.Machine.execVmaxb d a bf s
  | .vqnt d a bf => Sys2Proof.Machine.execVqnt d a bf s
  | .vdqnt d a b bf => Sys2Proof.Machine.execVdqnt d a b bf s
  | .vdefer v n b k => Sys2Proof.Machine.execVdefer v n b k s
  | .vdrain v n b => Sys2Proof.Machine.execVdrain v n b s
  | .vld d a off k dl => Sys2Proof.Machine.execVld d a off k dl s
  | .vlds d a b k dl => Sys2Proof.Machine.execVlds d a b k dl s
  | .vgath d a vi w64 k dl => Sys2Proof.Machine.execVgath d a vi w64 k dl s
  | .vldl d a off k dl => Sys2Proof.Machine.execVldl d a off k dl s
  | .vldv d a b k dl => Sys2Proof.Machine.execVldv d a b k dl s
  | .vst b a off k => Sys2Proof.Machine.execVst b a off k s
  | .vsts b a sb k => Sys2Proof.Machine.execVsts b a sb k s
  | .vscat b a vi w64 k => Sys2Proof.Machine.execVscat b a vi w64 k s
  | .vstl b a off k => Sys2Proof.Machine.execVstl b a off k s
  | .vstv b a sb k => Sys2Proof.Machine.execVstv b a sb k s
  | .mstrm n a => Sys2Proof.Machine.execMstrm n a s
  | .mnest a => Sys2Proof.Machine.execMnest a s
  | .mgo sa sb acc accum ser => Sys2Proof.Machine.execMgo sa sb acc accum ser s
  | .mza acc => Sys2Proof.Machine.execMza acc s
  | .mepi acc a => Sys2Proof.Machine.execMepi acc a s
  | .mtov d acc row part => Sys2Proof.Machine.execMtov d acc row part s
  | .mfromv a acc row part => Sys2Proof.Machine.execMfromv a acc row part s
  | .speshp sh a => Sys2Proof.Machine.execSpeshp sh a s
  | .speld a z => Sys2Proof.Machine.execSpeld a z s
  | .spest d z => Sys2Proof.Machine.execSpest d z s
  | .speup sh tm z => Sys2Proof.Machine.execSpeup sh tm z s
  | .spedn sh tm z => Sys2Proof.Machine.execSpedn sh tm z s
  | .specvtF32Sp32 z => Sys2Proof.Machine.execSpecvtF32Sp32 z s
  | .specvtSp32F32 z => Sys2Proof.Machine.execSpecvtSp32F32 z s
  | .speza z => Sys2Proof.Machine.execSpeza z s
  | .cpy o a b c => Sys2Proof.Machine.execCpy o a b c s
  | .cpyp o a b c => Sys2Proof.Machine.execCpyp o a b c s
  | .cpyg o a b c => Sys2Proof.Machine.execCpyg o a b c s
  | .stbind o n c => Sys2Proof.Machine.execStbind o n c s
  | .cpys o a b c => Sys2Proof.Machine.execCpys o a b c s
  | .smrg o a b => Sys2Proof.Machine.execSmrg o a b s
  | .copyEngineRun eng => Sys2Proof.Machine.execCopyEngineRun eng s
  | .cpysRecordUpdate eng => Sys2Proof.Machine.execCpysRecordUpdate eng s
  | .smrgRecordUpdate eng => Sys2Proof.Machine.execSmrgRecordUpdate eng s
  | .boAddition obj n stamp => Sys2Proof.Machine.execBoAddition obj n stamp s
  | .send o a b c => Sys2Proof.Machine.execSend o a b c s
  | .remoteChunkArrival win off ctr data => Sys2Proof.Machine.execRemoteChunkArrival win off ctr data s
  | .recv a b => Sys2Proof.Machine.execRecv a b s
  | .recvadd o a b c => Sys2Proof.Machine.execRecvadd o a b c s
  | .ttset o a b => Sys2Proof.Machine.execTtset o a b s
  | .tready a => Sys2Proof.Machine.execTready a s
  | .twait a => Sys2Proof.Machine.execTwait a s
  | .tileFiringStart die idx => Sys2Proof.Machine.execTileFiringStart die idx s
  | .tileChunkStage die idx chunk => Sys2Proof.Machine.execTileChunkStage die idx chunk s
  | .tileFiringComplete die idx => Sys2Proof.Machine.execTileFiringComplete die idx s
  | .sendPhaseEnd die answer => Sys2Proof.Machine.execSendPhaseEnd die answer s
  | .transportTimeout what => Sys2Proof.Machine.execTransportTimeout what s
  | .landingDataArrival issue slot => Sys2Proof.Machine.execLandingDataArrival issue slot s
  | .engineBankAccess eng => Sys2Proof.Machine.execEngineBankAccess eng s
  | .instanceLoad launch inst => Sys2Proof.Machine.execInstanceLoad launch inst s
  | .instanceComplete launch inst => Sys2Proof.Machine.execInstanceComplete launch inst s
  | .launchPacket part q => Sys2Proof.Machine.execLaunchPacket part q s
  | .waitPacket part q => Sys2Proof.Machine.execWaitPacket part q s
  | .signalPacket part q => Sys2Proof.Machine.execSignalPacket part q s
  | .signalReread part q => Sys2Proof.Machine.execSignalReread part q s
  | .queuePark part q => Sys2Proof.Machine.execQueuePark part q s
  | .priorityRaise part q => Sys2Proof.Machine.execPriorityRaise part q s
  | .queueTimeout part q => Sys2Proof.Machine.execQueueTimeout part q s
  | .instancePlace launch inst => Sys2Proof.Machine.execInstancePlace launch inst s
  | .provisionalEvict launch inst => Sys2Proof.Machine.execProvisionalEvict launch inst s
  | .shapeSignalRead launch => Sys2Proof.Machine.execShapeSignalRead launch s
  | .launchComplete launch => Sys2Proof.Machine.execLaunchComplete launch s
  | .trapForward grant => Sys2Proof.Machine.execTrapForward grant s
  | .bankFailMark store bank => Sys2Proof.Machine.execBankFailMark store bank s
  | .rebuildRow store => Sys2Proof.Machine.execRebuildRow store s
  | .scrubRow store row => Sys2Proof.Machine.execScrubRow store row s
  | .clockChange up => Sys2Proof.Machine.execClockChange up s
  | .hostWrite addr data => Sys2Proof.Machine.execHostWrite addr data s
  | .hostRead addr n => Sys2Proof.Machine.execHostRead addr n s
  | .repairPacket part => Sys2Proof.Machine.execRepairPacket part s
  | .qcreate part => Sys2Proof.Machine.execQcreate part s
  | .scrblk part => Sys2Proof.Machine.execScrblk part s
  | .rllimit part => Sys2Proof.Machine.execRllimit part s
  | .peerset part => Sys2Proof.Machine.execPeerset part s
  | .firmwareUpdate img => Sys2Proof.Machine.execFirmwareUpdate img s
  | .recoveryUpdate img => Sys2Proof.Machine.execRecoveryUpdate img s
  | .svnRaise svn => Sys2Proof.Machine.execSvnRaise svn s
  | .keyLoad key => Sys2Proof.Machine.execKeyLoad key s
  | .getVersion msg => Sys2Proof.Machine.execGetVersion msg s
  | .getCapabilities msg => Sys2Proof.Machine.execGetCapabilities msg s
  | .negotiateAlgorithms msg => Sys2Proof.Machine.execNegotiateAlgorithms msg s
  | .getDigests msg => Sys2Proof.Machine.execGetDigests msg s
  | .getCertificate msg => Sys2Proof.Machine.execGetCertificate msg s
  | .challenge msg => Sys2Proof.Machine.execChallenge msg s
  | .getMeasurements msg => Sys2Proof.Machine.execGetMeasurements msg s
  | .keyExchange msg => Sys2Proof.Machine.execKeyExchange msg s
  | .finish msg => Sys2Proof.Machine.execFinish msg s
  | .keyUpdate msg => Sys2Proof.Machine.execKeyUpdate msg s
  | .endSession msg => Sys2Proof.Machine.execEndSession msg s
  | .pldmBase msg => Sys2Proof.Machine.execPldmBase msg s
  | .pldmPlatformMonitoring msg => Sys2Proof.Machine.execPldmPlatformMonitoring msg s
  | .pldmFru msg => Sys2Proof.Machine.execPldmFru msg s
  | .pldmFirmwareUpdate img => Sys2Proof.Machine.execPldmFirmwareUpdate img s
  | .powerLoss cut => Sys2Proof.Machine.execPowerLoss cut s
  | .portDown port up => Sys2Proof.Machine.execPortDown port up s
  | .nop => Sys2Proof.Machine.execNop s
  | .lockHoldEnd => Sys2Proof.Machine.execLockHoldEnd s
  | .splitCycle => Sys2Proof.Machine.execSplitCycle s
  | .cvadv => Sys2Proof.Machine.execCvadv s
  | .isync => Sys2Proof.Machine.execIsync s
  | .stRelPerform => Sys2Proof.Machine.execStRelPerform s
  | .comAtomicApply => Sys2Proof.Machine.execComAtomicApply s
  | .cacheOpComplete => Sys2Proof.Machine.execCacheOpComplete s
  | .bar => Sys2Proof.Machine.execBar s
  | .ebar => Sys2Proof.Machine.execEbar s
  | .barRelease => Sys2Proof.Machine.execBarRelease s
  | .ebarRelease => Sys2Proof.Machine.execEbarRelease s
  | .wfe => Sys2Proof.Machine.execWfe s
  | .eventLanding => Sys2Proof.Machine.execEventLanding s
  | .join => Sys2Proof.Machine.execJoin s
  | .taskend => Sys2Proof.Machine.execTaskend s
  | .exit => Sys2Proof.Machine.execExit s
  | .stealProbe => Sys2Proof.Machine.execStealProbe s
  | .taskDispatch => Sys2Proof.Machine.execTaskDispatch s
  | .completionNotice => Sys2Proof.Machine.execCompletionNotice s
  | .noticePost => Sys2Proof.Machine.execNoticePost s
  | .sqcfgApply => Sys2Proof.Machine.execSqcfgApply s
  | .tlbiAll => Sys2Proof.Machine.execTlbiAll s
  | .idle => Sys2Proof.Machine.execIdle s
  | .bkpt => Sys2Proof.Machine.execBkpt s
  | .eret => Sys2Proof.Machine.execEret s
  | .scaleLatchWrite => Sys2Proof.Machine.execScaleLatchWrite s
  | .draftPartWrite => Sys2Proof.Machine.execDraftPartWrite s
  | .arrayStep => Sys2Proof.Machine.execArrayStep s
  | .mgoComplete => Sys2Proof.Machine.execMgoComplete s
  | .msync => Sys2Proof.Machine.execMsync s
  | .epilogueRun => Sys2Proof.Machine.execEpilogueRun s
  | .sendChunkLanding => Sys2Proof.Machine.execSendChunkLanding s
  | .recvaddCombine => Sys2Proof.Machine.execRecvaddCombine s
  | .ttsetApply => Sys2Proof.Machine.execTtsetApply s
  | .resultWrite => Sys2Proof.Machine.execResultWrite s
  | .landing => Sys2Proof.Machine.execLanding s
  | .scheduledAccessPerform => Sys2Proof.Machine.execScheduledAccessPerform s
  | .coherentAccessPerform => Sys2Proof.Machine.execCoherentAccessPerform s
  | .ptsDrift => Sys2Proof.Machine.execPtsDrift s
  | .pageWalkComplete => Sys2Proof.Machine.execPageWalkComplete s
  | .roundEntryProcess => Sys2Proof.Machine.execRoundEntryProcess s
  | .preemptionStop => Sys2Proof.Machine.execPreemptionStop s
  | .urgentRelease => Sys2Proof.Machine.execUrgentRelease s
  | .urgentComplete => Sys2Proof.Machine.execUrgentComplete s
  | .fullStateSave => Sys2Proof.Machine.execFullStateSave s
  | .trapEntry => Sys2Proof.Machine.execTrapEntry s
  | .monitorTrapHandle => Sys2Proof.Machine.execMonitorTrapHandle s
  | .trapResume => Sys2Proof.Machine.execTrapResume s
  | .scrubPassEnd => Sys2Proof.Machine.execScrubPassEnd s
  | .thermalTrip => Sys2Proof.Machine.execThermalTrip s
  | .boot => Sys2Proof.Machine.execBoot s
  | .packageReset => Sys2Proof.Machine.execPackageReset s
  | .fullStateRestore => Sys2Proof.Machine.execFullStateRestore s

end Sys2Proof.Machine
end

