-- ==== Sys2Proof/Decode.lean ====
section
/-! DEFINITION. Decoding of 32-bit slots, headers and bundles (03_encoding.md R43 to R59), total on any bits and rejecting by
name, and the encoder of every operation. -/

namespace Sys2Proof

/-- Why a slot is not an instruction (R59); every one of them is answered by ILLOP. -/
inductive Reject where
  /-- An unassigned major, minor, condition, OP, USE, scope, type, rounding or block-format code. -/
  | unassigned
  /-- A nonzero RZ field. -/
  | reserved
  /-- A destination field of 0b1_0000 to 0b1_1110, or of LIH queue only. -/
  | destination
  /-- Extension bits on an operation without an extensible field, or EXT bits of no operation. -/
  | extension
  /-- A header outside slot 0, a reserved header type, a reserved XC, a lock header without banks, L at word 4,095. -/
  | header
  /-- More operations of a class than R27 allows. -/
  | classLimit
  deriving DecidableEq, Repr

/-- What decoding answers. -/
abbrev Dec := Except Reject Instr

/-- Field of `n` bits at `lo`. -/
def fd (w lo n : Nat) : Nat := w / 2 ^ lo % 2 ^ n

/-! ### Fields -/

/-- A source operand field (R31). -/
def srcOf (x : Nat) : Src := if x < 16 then .reg (Fin.ofNat 16 x) else .age (Fin.ofNat 16 x)

/-- A destination field (R31). -/
def dstOf (x : Nat) : Option Dst :=
  if x < 16 then some (.reg (Fin.ofNat 16 x)) else if x = 31 then some .queue else none

def withDst (x : Nat) (k : Dst → Dec) : Dec :=
  match dstOf x with
  | some d => k d
  | none => .error .destination

/-- A predicate, mask or target-buffer field: bits [4:3] are RZ (R49). -/
def withSmall (x : Nat) (k : Small → Dec) : Dec := if x < 8 then k (Fin.ofNat 8 x) else .error .reserved

/-- A field that must be zero (R59). -/
def rz (x : Nat) (k : Dec) : Dec := if x = 0 then k else .error .reserved

/-- No extension bits (R46). -/
def plain (e : Nat) (k : Dec) : Dec := if e = 0 then k else .error .extension

/-- One of a list of codes; an unlisted code is unassigned. -/
def oneOf {α : Type} (l : List α) (x : Nat) (k : α → Dec) : Dec :=
  match l[x]? with
  | some a => k a
  | none => .error .unassigned

/-- A signed n-bit field widened by its extension bits (R46), as n + 2 bits. -/
def widen (n e f : Nat) : Nat := (if f.testBit (n - 1) then 3 - e else e) * 2 ^ n + f

/-- A natural n-bit field widened by its extension bits (R46). -/
def concat (n e f : Nat) : Nat := e * 2 ^ n + f

def tyList : List Ty := [.i8, .i16, .i32, .i64, .n8, .n16, .n32, .n64, .f64, .f32, .bf16, .f16, .e4m3, .e5m2]
def ftyList : List FTy := [.f64, .f32, .bf16, .f16]
def rmList : List Rm := [.rne, .rtz, .rup, .rdn, .rna]
def condList : List Cond := [.eq, .ne, .ltI, .leI, .gtI, .geI, .ltN, .leN, .gtN, .geN]
def vcondList : List VCond := [.eq, .ne, .lt, .le, .gt, .ge, .un, .ord]
def bfList : List Bf := [.px2, .px4, .px7, .mx8e4, .mx8e5, .mx6e2, .mx6e3, .mx4, .mxi8]
def atTyList : List AtTy := [.i64, .n64, .i32, .n32]
def atUseList : List AtUse := [.sc, .unp, .com, .nor, .qua, .spc]
def scopeList : List Scope := [.core, .gang, .ensemble, .package, .system]

/-! ### Slot class S (R53, R54) -/

def aluRRR : List (Dst → Src → Src → Instr) :=
  [.add, .sub, .and, .or, .xor, .andn, .shl, .shr, .sra, .rol, .minI64, .minN64, .maxI64, .maxN64]
def aluRR : List (Dst → Src → Instr) := [.clz, .ctz, .popc, .mov]
def sextRR : List (Dst → Src → Instr) := [.sextI8, .sextI16, .sextI32]
def mulRRR : List (Dst → Src → Src → Instr) := [.mul, .mulhI64, .mulhN64, .divI64, .divN64, .remI64, .remN64]
def immI : List (Dst → Src → BitVec 17 → Instr) := [.addImm, .andImm, .orImm, .xorImm]
def shiftI : List (Dst → Src → BitVec 6 → Instr) := [.shlImm, .shrImm, .sraImm, .rolImm]

/-- Major 0x01 (R53). -/
def decAlu (w : Nat) : Dec :=
  let d := fd w 20 5; let a := srcOf (fd w 15 5); let b := fd w 10 5; let c := fd w 5 5; let f := fd w 0 5
  if f < 14 then rz c (oneOf aluRRR f fun i => withDst d fun d => .ok (i d a (srcOf b)))
  else if f < 18 then rz b (rz c (oneOf aluRR (f - 14) fun i => withDst d fun d => .ok (i d a)))
  else if f = 18 then withSmall c fun p => withDst d fun d => .ok (.sel d a (srcOf b) p)
  else if f = 19 then rz c (withDst d fun d => .ok (.bext d a (srcOf b)))
  else if f = 20 then withDst d fun d => .ok (.bins d a (srcOf b) (srcOf c))
  else if f < 24 then rz b (rz c (oneOf sextRR (f - 21) fun i => withDst d fun d => .ok (i d a)))
  else if f = 24 then (if c < 4 then withDst d fun d => .ok (.lea d a (srcOf b) (.ofNat 2 c)) else .error .reserved)
  else if f = 25 then rz c (withDst d fun d => .ok (.wrap d a (srcOf b)))
  else .error .unassigned

/-- Majors 0x02 to 0x05 (R53). -/
def decMulDiv (w : Nat) : Dec :=
  rz (fd w 5 5) (oneOf mulRRR (fd w 0 5) fun i => withDst (fd w 20 5) fun d => .ok (i d (srcOf (fd w 15 5)) (srcOf (fd w 10 5))))
def decCmp (w : Nat) : Dec :=
  rz (fd w 5 5) (rz (fd w 4 1) (oneOf condList (fd w 0 4) fun cc => withSmall (fd w 20 5) fun p =>
    .ok (.cmp p cc (srcOf (fd w 15 5)) (srcOf (fd w 10 5)))))
def decCmpImm (e w : Nat) : Dec :=
  oneOf condList (fd w 13 4) fun cc =>
    .ok (.cmpImm (Fin.ofNat 8 (fd w 22 3)) cc (srcOf (fd w 17 5)) (.ofNat 15 (widen 13 e (fd w 0 13))))
def decPred (w : Nat) : Dec :=
  let f := fd w 0 5
  rz (fd w 5 5) (withSmall (fd w 20 5) fun d => withSmall (fd w 15 5) fun a =>
    if f = 0 then withSmall (fd w 10 5) fun b => .ok (.pand d a b)
    else if f = 1 then withSmall (fd w 10 5) fun b => .ok (.por d a b)
    else if f = 2 then rz (fd w 10 5) (.ok (.pnot d a))
    else .error .unassigned)

/-- Majors 0x08 to 0x16 (R53). -/
def decImm (e w m : Nat) : Dec :=
  oneOf immI m fun i => withDst (fd w 20 5) fun d => .ok (i d (srcOf (fd w 15 5)) (.ofNat 17 (widen 15 e (fd w 0 15))))
def decShift (w m : Nat) : Dec :=
  rz (fd w 6 9) (oneOf shiftI m fun i => withDst (fd w 20 5) fun d => .ok (i d (srcOf (fd w 15 5)) (.ofNat 6 (fd w 0 6))))
def decMulImm (e w : Nat) : Dec :=
  withDst (fd w 20 5) fun d => .ok (.mulImm d (srcOf (fd w 15 5)) (.ofNat 17 (widen 15 e (fd w 0 15))))
def decLi (e w : Nat) : Dec := withDst (fd w 20 5) fun d => .ok (.li d (.ofNat 22 (widen 20 e (fd w 0 20))))
def decLih (e w : Nat) : Dec :=
  if fd w 20 5 < 16 then .ok (.lih (Fin.ofNat 16 (fd w 20 5)) (.ofNat 22 (concat 20 e (fd w 0 20)))) else .error .destination
def decPtb (e w : Nat) : Dec :=
  rz (fd w 20 1) (.ok (.ptb (Fin.ofNat 8 (fd w 22 3)) (fd w 21 1 == 1) (.ofNat 22 (widen 20 e (fd w 0 20)))))
def decPtbReg (w : Nat) : Dec :=
  rz (fd w 10 5) (rz (fd w 5 5) (if fd w 0 5 < 2 then withSmall (fd w 20 5) fun t =>
    .ok (.ptbReg t (fd w 0 5 == 1) (srcOf (fd w 15 5))) else .error .unassigned))

/-- Control-register indices whose CTLW has a row of its own. -/
def ctlwOf (idx : Nat) (a : Src) : Instr :=
  if idx = 0x001 then .ctlwArrmode a
  else if idx = 0x00A then .ctlwCvcur a
  else if idx = 0x00F then .ctlwEvt a
  else if idx = 0x104 then .ctlwAsid a
  else if idx = 0x105 then .ctlwPtroot a
  else if idx = 0x200 then .ctlwPartmap a
  else if idx = 0x203 then .ctlwKeyctl a
  else .ctlw (.ofNat 12 idx) a

def decCtl (w : Nat) : Dec :=
  rz (fd w 1 7) (if fd w 0 1 = 0 then withDst (fd w 20 5) fun d => .ok (.ctlr d (.ofNat 12 (fd w 8 12)))
    else .ok (ctlwOf (fd w 8 12) (srcOf (fd w 20 5))))
def decSeq (w : Nat) : Dec :=
  rz (fd w 5 20) (if fd w 0 5 = 0 then .ok .cvadv else if fd w 0 5 = 1 then .ok .isync else .error .unassigned)

def delayOf (lat e : Nat) : Delay := ⟨.ofNat 6 lat, .ofNat 2 e⟩

/-- Majors 0x20 to 0x25 (R54). -/
def decLd (e w : Nat) (acq : Bool) : Dec :=
  let sx := fd w 6 1 == 1
  if sx && fd w 7 2 == 3 then .error .unassigned
  else withDst (fd w 20 5) fun d =>
    let i := if acq then Instr.ldAcq else Instr.ld
    .ok (i d (srcOf (fd w 15 5)) (.ofNat 2 (fd w 7 2)) sx (.ofNat 6 (fd w 0 6)) (delayOf (fd w 9 6) e))
def decSt (e w : Nat) (rel : Bool) : Dec :=
  let i := if rel then Instr.stRel else Instr.st
  .ok (i (srcOf (fd w 20 5)) (srcOf (fd w 15 5)) (.ofNat 2 (fd w 13 2)) (.ofNat 15 (widen 13 e (fd w 0 13))))
def amoList : List (Src → Src → AtTy → AtUse → Delay → Instr) :=
  [.amoAdd, .amoAnd, .amoOr, .amoXor, .amoSwap, .amoMin, .amoMax]
def decAmo (e w : Nat) : Dec :=
  rz (fd w 0 1) (oneOf amoList (fd w 6 3) fun i => oneOf atTyList (fd w 4 2) fun ty => oneOf atUseList (fd w 1 3) fun use =>
    if use = .com then
      (if fd w 6 3 = 4 then .error .unassigned
       else rz (fd w 9 6) (plain e (.ok (i (srcOf (fd w 20 5)) (srcOf (fd w 15 5)) ty use (delayOf 0 0)))))
    else .ok (i (srcOf (fd w 20 5)) (srcOf (fd w 15 5)) ty use (delayOf (fd w 9 6) e)))
def decCas (e w : Nat) : Dec :=
  oneOf atUseList (fd w 0 3) fun use =>
    if use = .com then .error .unassigned
    else .ok (.cas (srcOf (fd w 20 5)) (srcOf (fd w 15 5)) (srcOf (fd w 10 5)) (fd w 3 1 == 1) use (delayOf (fd w 4 6) e))
def decFence (w : Nat) : Dec :=
  rz (fd w 0 21) (oneOf scopeList (fd w 22 3) fun sc => .ok (if fd w 21 1 = 1 then .fenceX sc else .fence sc))

/-- Majors 0x27 to 0x2B (R54, R243, R283, R315 to R317, R324). -/
def decBo (w : Nat) : Dec :=
  let a := srcOf (fd w 15 5); let b := srcOf (fd w 10 5); let f := fd w 0 5
  rz (fd w 20 5) (rz (fd w 5 5) (
    if f = 0 then .ok (.boinit a b) else if f = 1 then .ok (.boarm a b)
    else if f = 2 then rz (fd w 10 5) (.ok (.bowait a))
    else if f = 3 then .ok (.cwb a b) else if f = 4 then .ok (.cinv a b) else .error .unassigned))
def decExec (w : Nat) : Dec :=
  let f := fd w 0 5
  rz (fd w 20 5) (rz (fd w 5 10) (
    if f = 3 then .ok (.sev (srcOf (fd w 15 5)))
    else rz (fd w 15 5) (
      if f = 0 then .ok .bar else if f = 1 then .ok .ebar else if f = 2 then .ok .wfe else if f = 4 then .ok .join
      else if f = 5 then .ok .taskend else if f = 6 then .ok .exit else .error .unassigned)))
def decFork (e w : Nat) : Dec := .ok (.fork (.ofNat 17 (concat 15 e (fd w 0 15))) (srcOf (fd w 20 5)) (srcOf (fd w 15 5)))
def decLnch (w : Nat) : Dec :=
  let a := srcOf (fd w 15 5); let b := srcOf (fd w 10 5); let c := fd w 5 5; let f := fd w 0 5
  if f = 0 then rz (fd w 10 5) (rz c (withDst (fd w 20 5) fun d => .ok (.launch d a)))
  else if f = 1 then rz (fd w 20 5) (rz c (.ok (.shape a b)))
  else if f = 2 then rz (fd w 20 5) (
    if c = 0 then .ok (.qsigSet a b) else if c = 1 then .ok (.qsigAdd a b) else if c = 2 then .ok (.qsigOr a b)
    else .error .unassigned)
  else .error .unassigned
def decSpec (w : Nat) : Dec :=
  let a := srcOf (fd w 15 5); let b := srcOf (fd w 10 5); let f := fd w 0 5
  rz (fd w 5 5) (
    if f = 0 then rz (fd w 20 5) (.ok (.pqpush a b)) else if f = 1 then rz (fd w 20 5) (.ok (.sqrun a b))
    else if f = 2 then withDst (fd w 20 5) fun d => .ok (.sqcfg d a b) else .error .unassigned)
def decSpecRd (e w : Nat) : Dec :=
  let dl := delayOf (fd w 9 6) e; let x := fd w 0 2
  rz (fd w 2 7) (
    if x = 0 then rz (fd w 15 5) (withDst (fd w 20 5) fun d => .ok (.pqtake d dl))
    else if x = 1 then withDst (fd w 20 5) fun d => .ok (.depth d (srcOf (fd w 15 5)) dl)
    else if x = 2 then rz (fd w 15 5) (withDst (fd w 20 5) fun d => .ok (.rbread d dl))
    else .error .unassigned)

/-- Majors 0x2D to 0x2F (R54, R364 to R367, R379, R380, R411, R412). -/
def decSys (w : Nat) : Dec :=
  let d := fd w 20 5; let a := srcOf (fd w 15 5); let b := fd w 10 5; let c := fd w 5 5; let f := fd w 0 5
  if f = 0 then rz d (rz b (rz c (.ok (.sysc a))))
  else if f = 1 then rz d (
    if c = 0 then .ok (.tlbiVa a (srcOf b)) else if c = 1 then rz (fd w 15 5) (.ok (.tlbiAsid (srcOf b)))
    else if c = 2 then rz (fd w 15 5) (rz b (.ok .tlbiAll)) else .error .unassigned)
  else if f = 2 then rz d (rz (fd w 15 5) (rz b (rz c (.ok .idle))))
  else if f = 3 then rz b (rz c (withDst d fun d => .ok (.lockw d a)))
  else if f = 4 then rz c (withDst d fun d => .ok (.prmt d a (srcOf b)))
  else if f = 5 then rz b (rz c (withDst d fun d => .ok (.rsum d a)))
  else .error .unassigned
def decTrap (e w : Nat) : Dec := rz (fd w 15 10) (.ok (.trap (.ofNat 17 (concat 15 e (fd w 0 15)))))
def decTret (w : Nat) : Dec :=
  rz (fd w 5 20) (if fd w 0 5 = 0 then .ok .eret else if fd w 0 5 = 1 then .ok .bkpt else .error .unassigned)

/-- Class S (R49, R52). -/
def decS (m e w : Nat) : Dec :=
  if m = 0x01 then plain e (decAlu w)
  else if m = 0x02 then plain e (decMulDiv w)
  else if m = 0x03 then plain e (decCmp w)
  else if m = 0x04 then decCmpImm e w
  else if m = 0x05 then plain e (decPred w)
  else if 0x08 ≤ m ∧ m ≤ 0x0B then decImm e w (m - 0x08)
  else if 0x0C ≤ m ∧ m ≤ 0x0F then plain e (decShift w (m - 0x0C))
  else if m = 0x10 then decMulImm e w
  else if m = 0x11 then decLi e w
  else if m = 0x12 then decLih e w
  else if m = 0x13 then decPtb e w
  else if m = 0x14 then plain e (decPtbReg w)
  else if m = 0x15 then plain e (decCtl w)
  else if m = 0x16 then plain e (decSeq w)
  else if m = 0x20 then decLd e w false
  else if m = 0x21 then decLd e w true
  else if m = 0x22 then decSt e w false
  else if m = 0x23 then decSt e w true
  else if m = 0x24 then decAmo e w
  else if m = 0x25 then decCas e w
  else if m = 0x26 then plain e (decFence w)
  else if m = 0x27 then plain e (decBo w)
  else if m = 0x28 then plain e (decExec w)
  else if m = 0x29 then decFork e w
  else if m = 0x2A then plain e (decLnch w)
  else if m = 0x2B then plain e (decSpec w)
  else if m = 0x2C then decSpecRd e w
  else if m = 0x2D then plain e (decSys w)
  else if m = 0x2E then decTrap e w
  else if m = 0x2F then plain e (decTret w)
  else .error .unassigned

/-! ### Slot class V (R55) -/

def withTy (x : Nat) (ok : List Ty) (k : Ty → Dec) : Dec :=
  oneOf tyList x fun t => if ok.contains t then k t else .error .unassigned

def varithList : List (Dst → Src → Src → Small → Ty → Instr) := [.vadd, .vsub, .vmul, .vmin, .vmax]
def vlogicList : List (Dst → Src → Src → Small → Ty → Instr) := [.vand, .vor, .vxor, .vshl, .vshr, .vsra, .vsel]
def vmathList : List (Dst → Src → Small → Ty → Instr) := [.vsqrt, .vrcp, .vrsq, .vfex2, .vlg2, .vgetx]
def vredList : List (Dst → Src → Small → Ty → Instr) := [.vredadd, .vredmax, .vredmin]

/-- Format V: K [9:7], TY [6:3], F [2:0]. -/
def decVarith (w : Nat) : Dec :=
  let d := fd w 20 5; let a := srcOf (fd w 15 5); let b := fd w 10 5; let k := Fin.ofNat 8 (fd w 7 3); let f := fd w 0 3
  if f < 5 then oneOf varithList f fun i => withTy (fd w 3 4) tyArith fun t => withDst d fun d => .ok (i d a (srcOf b) k t)
  else if f = 5 then withTy (fd w 3 4) tyReal fun t => withDst d fun d => .ok (.vdiv d a (srcOf b) k t)
  else if f = 6 then rz b (withTy (fd w 3 4) tyAbs fun t => withDst d fun d => .ok (.vabs d a k t))
  else rz b (withTy (fd w 3 4) tyAbs fun t => withDst d fun d => .ok (.vneg d a k t))
def decVlogic (w : Nat) : Dec :=
  oneOf vlogicList (fd w 0 3) fun i => withTy (fd w 3 4) tyWide fun t => withDst (fd w 20 5) fun d =>
    .ok (i d (srcOf (fd w 15 5)) (srcOf (fd w 10 5)) (Fin.ofNat 8 (fd w 7 3)) t)
def decVmath (w : Nat) : Dec :=
  let d := fd w 20 5; let a := srcOf (fd w 15 5); let b := fd w 10 5; let k := Fin.ofNat 8 (fd w 7 3); let f := fd w 0 3
  withTy (fd w 3 4) tyReal fun t => withDst d fun d =>
    if f < 6 then rz b (oneOf vmathList f fun i => .ok (i d a k t))
    else if f = 6 then .ok (.vinsx d a (srcOf b) k t)
    else rz (b / 8) (oneOf rmList (b % 8) fun rm => .ok (.vrndi d a rm k t))
def fmaList : List (Dst → Src → Src → Src → FTy → Small → Instr) := [.vfma, .vfms, .vfnma]
def decVfma (w m : Nat) : Dec :=
  oneOf fmaList m fun i => oneOf ftyList (fd w 3 2) fun tf => withDst (fd w 20 5) fun d =>
    .ok (i d (srcOf (fd w 15 5)) (srcOf (fd w 10 5)) (srcOf (fd w 5 5)) tf (Fin.ofNat 8 (fd w 0 3)))
def decVcvt (w : Nat) : Dec :=
  oneOf tyList (fd w 11 4) fun td => oneOf tyList (fd w 7 4) fun ts => oneOf rmList (fd w 4 3) fun rm =>
    withDst (fd w 20 5) fun d =>
      if fd w 0 1 == 1 && isFloatTy td then .error .reserved
      else .ok (.vcvt d (srcOf (fd w 15 5)) td ts rm (Fin.ofNat 8 (fd w 1 3)) (fd w 0 1 == 1))
def decVcmp (w : Nat) : Dec :=
  withSmall (fd w 20 5) fun kd => oneOf vcondList (fd w 0 3) fun cc => withTy (fd w 3 4) tyArith fun t =>
    .ok (.vcmp kd cc (srcOf (fd w 15 5)) (srcOf (fd w 10 5)) (Fin.ofNat 8 (fd w 7 3)) t)
def decVmask (w : Nat) : Dec :=
  let f := fd w 0 3
  rz (fd w 3 7) (withSmall (fd w 15 5) fun a =>
    if f = 0 then withSmall (fd w 20 5) fun d => withSmall (fd w 10 5) fun b => .ok (.kand d a b)
    else if f = 1 then withSmall (fd w 20 5) fun d => withSmall (fd w 10 5) fun b => .ok (.kor d a b)
    else if f = 2 then rz (fd w 10 5) (withSmall (fd w 20 5) fun d => .ok (.knot d a))
    else if f = 3 then rz (fd w 10 5) (withDst (fd w 20 5) fun d => .ok (.kpopc d a))
    else if f = 4 then rz (fd w 20 5) (rz (fd w 10 5) (.ok (.vctw a)))
    else .error .unassigned)
def decVlane (w : Nat) : Dec :=
  let d := fd w 20 5; let a := srcOf (fd w 15 5); let b := fd w 10 5; let k := Fin.ofNat 8 (fd w 7 3); let f := fd w 0 3
  withTy (fd w 3 4) tyWide fun t => withDst d fun d =>
    if f = 0 then rz b (.ok (.vbcast d a k t))
    else if f = 1 then rz (fd w 7 3) (.ok (.vext d a (srcOf b) t))
    else if f = 2 then .ok (.vins d a (srcOf b) k t)
    else if f = 3 then rz b (rz (fd w 15 5) (.ok (.viota d k t)))
    else .error .unassigned
def decVperm (w : Nat) : Dec :=
  if fd w 0 3 = 0 then withTy (fd w 3 4) tyWide fun t => withDst (fd w 20 5) fun d =>
    .ok (.vperm d (srcOf (fd w 15 5)) (srcOf (fd w 10 5)) (Fin.ofNat 8 (fd w 7 3)) t)
  else .error .unassigned
/-- Lane reductions: the B field, which they do not use, is read as RZ (DESIGN CHOICE, log entry 145). -/
def decVred (w : Nat) : Dec :=
  oneOf vredList (fd w 0 3) fun i => rz (fd w 10 5) (withTy (fd w 3 4) tyWide fun t => withDst (fd w 20 5) fun d =>
    .ok (i d (srcOf (fd w 15 5)) (Fin.ofNat 8 (fd w 7 3)) t))
def decVquant (w : Nat) : Dec :=
  let a := srcOf (fd w 15 5); let f := fd w 0 3
  rz (fd w 7 3) (oneOf bfList (fd w 3 4) fun bf => withDst (fd w 20 5) fun d =>
    if f = 0 then rz (fd w 10 5) (.ok (.vmaxb d a bf)) else if f = 1 then rz (fd w 10 5) (.ok (.vqnt d a bf))
    else if f = 2 then .ok (.vdqnt d a (srcOf (fd w 10 5)) bf) else .error .unassigned)
def decVdefer (w : Nat) (drain : Bool) : Dec :=
  let v := fd w 20 5
  rz (fd w 0 10) (
    if v + fd w 10 2 > 15 then .error .reserved
    else if drain then rz (fd w 12 3) (.ok (.vdrain (Fin.ofNat 16 v) (.ofNat 2 (fd w 10 2)) (srcOf (fd w 15 5))))
    else .ok (.vdefer (Fin.ofNat 16 v) (.ofNat 2 (fd w 10 2)) (srcOf (fd w 15 5)) (Fin.ofNat 8 (fd w 12 3))))

/-- Vector memory: formats VL and VS. -/
def decVl (m e w : Nat) : Dec :=
  let a := srcOf (fd w 15 5); let dl := delayOf (fd w 9 6) e; let k := Fin.ofNat 8 (fd w 6 3); let x := srcOf (fd w 0 5)
  withDst (fd w 20 5) fun d =>
    if m = 0x40 then .ok (.vld d a (.ofNat 6 (fd w 0 6)) k dl)
    else if m = 0x41 then rz (fd w 5 1) (.ok (.vlds d a x k dl))
    else if m = 0x42 then .ok (.vgath d a x (fd w 5 1 == 1) k dl)
    else if m = 0x43 then .ok (.vldl d a (.ofNat 6 (fd w 0 6)) k dl)
    else rz (fd w 5 1) (.ok (.vldv d a x k dl))
def decVs (m e w : Nat) : Dec :=
  let b := srcOf (fd w 20 5); let a := srcOf (fd w 15 5); let k := Fin.ofNat 8 (fd w 12 3)
  if m = 0x45 then .ok (.vst b a (.ofNat 14 (widen 12 e (fd w 0 12))) k)
  else if m = 0x48 then .ok (.vstl b a (.ofNat 14 (widen 12 e (fd w 0 12))) k)
  else plain e (
    if m = 0x46 then rz (fd w 0 7) (.ok (.vsts b a (srcOf (fd w 7 5)) k))
    else if m = 0x47 then rz (fd w 0 6) (.ok (.vscat b a (srcOf (fd w 6 5)) (fd w 11 1 == 1) k))
    else rz (fd w 0 7) (.ok (.vstv b a (srcOf (fd w 7 5)) k)))

/-- Class V (R49, R52). -/
def decV (m e w : Nat) : Dec :=
  if m = 0x30 then plain e (decVarith w)
  else if m = 0x31 then plain e (decVlogic w)
  else if m = 0x32 then plain e (decVmath w)
  else if 0x33 ≤ m ∧ m ≤ 0x35 then plain e (decVfma w (m - 0x33))
  else if m = 0x36 then plain e (decVcvt w)
  else if m = 0x37 then plain e (decVcmp w)
  else if m = 0x38 then plain e (decVmask w)
  else if m = 0x39 then plain e (decVlane w)
  else if m = 0x3A then plain e (decVperm w)
  else if m = 0x3B then plain e (decVred w)
  else if m = 0x3C then plain e (decVquant w)
  else if m = 0x3D then plain e (decVdefer w false)
  else if m = 0x3E then plain e (decVdefer w true)
  else if 0x40 ≤ m ∧ m ≤ 0x44 then decVl m e w
  else if 0x45 ≤ m ∧ m ≤ 0x49 then decVs m e w
  else .error .unassigned

/-! ### Slot classes M, C and N (R56) -/

def decM (m w : Nat) : Dec :=
  if m = 0x50 then rz (fd w 20 1) (rz (fd w 0 15) (.ok (.mstrm (Fin.ofNat 16 (fd w 21 4)) (srcOf (fd w 15 5)))))
  else if m = 0x51 then rz (fd w 20 5) (rz (fd w 0 15) (.ok (.mnest (srcOf (fd w 15 5)))))
  else if m = 0x52 then rz (fd w 0 12) (.ok (.mgo (Fin.ofNat 16 (fd w 21 4)) (Fin.ofNat 16 (fd w 17 4))
    (Fin.ofNat 8 (fd w 14 3)) (fd w 13 1 == 1) (fd w 12 1 == 1)))
  else if m = 0x53 then rz (fd w 0 25) (.ok .msync)
  else if m = 0x54 then rz (fd w 0 22) (.ok (.mza (Fin.ofNat 8 (fd w 22 3))))
  else if m = 0x55 then rz (fd w 20 2) (rz (fd w 0 15) (.ok (.mepi (Fin.ofNat 8 (fd w 22 3)) (srcOf (fd w 15 5)))))
  else if m = 0x56 then rz (fd w 0 9) (withDst (fd w 20 5) fun d =>
    .ok (.mtov d (Fin.ofNat 8 (fd w 17 3)) (.ofNat 6 (fd w 11 6)) (.ofNat 2 (fd w 9 2))))
  else if m = 0x57 then rz (fd w 0 9)
    (.ok (.mfromv (srcOf (fd w 20 5)) (Fin.ofNat 8 (fd w 17 3)) (.ofNat 6 (fd w 11 6)) (.ofNat 2 (fd w 9 2))))
  else if m = 0x58 then rz (fd w 0 14) (.ok (.speshp (.ofNat 6 (fd w 19 6)) (srcOf (fd w 14 5))))
  else if m = 0x59 then rz (fd w 0 8) (.ok (.speld (srcOf (fd w 20 5)) (.ofNat 12 (fd w 8 12))))
  else if m = 0x5A then rz (fd w 0 8) (withDst (fd w 20 5) fun d => .ok (.spest d (.ofNat 12 (fd w 8 12))))
  else if m = 0x5B then rz (fd w 0 3) (.ok (.speup (.ofNat 6 (fd w 19 6)) (.ofNat 4 (fd w 15 4)) (.ofNat 12 (fd w 3 12))))
  else if m = 0x5C then rz (fd w 0 3) (.ok (.spedn (.ofNat 6 (fd w 19 6)) (.ofNat 4 (fd w 15 4)) (.ofNat 12 (fd w 3 12))))
  else if m = 0x5D then rz (fd w 0 12)
    (.ok (if fd w 12 1 = 1 then .specvtSp32F32 (.ofNat 12 (fd w 13 12)) else .specvtF32Sp32 (.ofNat 12 (fd w 13 12))))
  else if m = 0x5E then rz (fd w 0 13) (.ok (.speza (.ofNat 12 (fd w 13 12))))
  else .error .unassigned

def copyList : List (Src → Src → Src → Src → Instr) := [.cpy, .cpyp, .cpyg]
def decC (m w : Nat) : Dec :=
  let o := srcOf (fd w 20 5); let a := srcOf (fd w 15 5); let b := srcOf (fd w 10 5); let c := srcOf (fd w 5 5); let f := fd w 0 5
  if m = 0x60 then
    if f < 3 then oneOf copyList f fun i => .ok (i o a b c)
    else if f = 3 then rz (fd w 19 1) (rz (fd w 10 5) (.ok (.stbind o (Fin.ofNat 16 (fd w 15 4)) c)))
    else .error .unassigned
  else if m = 0x61 then
    if f = 0 then .ok (.cpys o a b c) else if f = 1 then rz (fd w 5 5) (.ok (.smrg o a b)) else .error .unassigned
  else .error .unassigned

def decN (m w : Nat) : Dec :=
  let o := srcOf (fd w 20 5); let a := srcOf (fd w 15 5); let b := srcOf (fd w 10 5); let c := srcOf (fd w 5 5); let f := fd w 0 5
  if m = 0x68 then
    if f = 0 then .ok (.send o a b c)
    else if f = 1 then rz (fd w 20 5) (rz (fd w 5 5) (.ok (.recv a b)))
    else if f = 2 then .ok (.recvadd o a b c)
    else .error .unassigned
  else if m = 0x69 then
    if f = 0 then rz (fd w 5 5) (.ok (.ttset o a b))
    else if f = 1 then rz (fd w 20 5) (rz (fd w 5 10) (.ok (.tready a)))
    else if f = 2 then rz (fd w 20 5) (rz (fd w 5 10) (.ok (.twait a)))
    else .error .unassigned
  else .error .unassigned

/-- Decode one operation slot under its extension bits (R46, R49, R52). -/
def decodeSlot (e w : Nat) : Dec :=
  let m := w / 2 ^ 25 % 2 ^ 7
  if m = 0x00 then (if w % 2 ^ 25 = 0 then plain e (.ok .nop) else .error .reserved)
  else if m < 0x30 then decS m e w
  else if m < 0x50 then decV m e w
  else if m < 0x60 then plain e (decM m w)
  else if m < 0x68 then plain e (decC m w)
  else if m < 0x70 then plain e (decN m w)
  else if m < 0x78 then .error .unassigned
  else .error .header

/-! ### Headers and bundles (R26, R43 to R48) -/

/-- The transfer condition (R45). -/
def xcOf (x : Nat) : Option Xc :=
  if x = 0 then some .never
  else if x < 8 then some (.pred (Fin.ofNat 7 (x - 1)))
  else if x = 8 then some .always
  else if x = 9 then some .cv
  else if 17 ≤ x ∧ x < 24 then some (.notPred (Fin.ofNat 7 (x - 17)))
  else if x = 25 then some .notCv
  else none

/-- A header (R44, R47). -/
def decodeHeader (w : Nat) : Dec :=
  if w / 2 ^ 27 % 2 ^ 5 = 0x1E then
    match xcOf (fd w 17 5) with
    | none => .error .header
    | some xc =>
      if xc = .never ∧ fd w 14 3 ≠ 0 then .error .header
      else if fd w 26 1 = 0 ∧ fd w 6 8 ≠ 0 then .error .extension
      else .ok (.headerTransfer (fd w 26 1 == 1) (.ofNat 4 (fd w 22 4)) xc (Fin.ofNat 8 (fd w 14 3)) (.ofNat 14 (fd w 0 14)))
  else if w / 2 ^ 25 % 2 ^ 7 = 0x7C then
    rz (fd w 16 1) (if fd w 0 16 = 0 then .error .header
      else .ok (.lockHeader (fd w 24 1 == 1) (.ofNat 4 (fd w 20 4)) (.ofNat 3 (fd w 17 3)) (.ofNat 16 (fd w 0 16))))
  else .error .header

/-- Slot classes (R27). -/
inductive SlotClass where
  | none | s | v | m | c | n
  deriving DecidableEq, Repr

/-- The class of a slot word, from its major opcode alone (R49). -/
def classOf (w : Nat) : SlotClass :=
  let m := w / 2 ^ 25 % 2 ^ 7
  if m = 0 then .none else if m < 0x30 then .s else if m < 0x50 then .v else if m < 0x60 then .m
  else if m < 0x68 then .c else if m < 0x70 then .n else .none

/-- A decoded bundle: its header, whether it has two words, STALL, its operations with their slot positions, and the first
position that holds no instruction, with what was found there (the operations are those before it). -/
structure Bundle where
  header : Option Instr
  two    : Bool
  stall  : Nat
  ops    : List (Nat × Instr)
  bad    : Option (Nat × Reject)
  deriving DecidableEq, Repr

/-- Slot `i` of a word (R43). -/
def slotOf (w : BitVec 128) (i : Nat) : Nat := w.toNat / 2 ^ (32 * i) % 2 ^ 32

/-- Whether a word begins a headed bundle (R26). -/
def isHeaded (w : BitVec 128) : Bool := slotOf w 0 / 2 ^ 28 == 15

/-- Decode operations at rising positions, up to the first that is rejected; NOPs carry no operation. -/
def decodeOps : List (Nat × Nat × Nat) → List (Nat × Instr) × Option (Nat × Reject)
  | [] => ([], none)
  | (p, e, w) :: r =>
    match decodeSlot e w with
    | .error x => ([], some (p, x))
    | .ok i => let (l, bad) := decodeOps r; (if i = .nop then l else (p, i) :: l, bad)

/-- Whether a slot carries extension bits that its operation does not take (R46). -/
def extFault (e w : Nat) : Bool :=
  match decodeSlot e w with
  | .error .extension => true
  | _ => false

/-- The class limits of R27. -/
def classesFit (ws : List Nat) : Bool :=
  let n := fun k => (ws.filter fun w => decide (classOf w = k)).length
  decide (n .s ≤ 1) && decide (n .v ≤ 2) && decide (n .m ≤ 1) && decide (n .c ≤ 2) && decide (n .n ≤ 1)

/-- Operations at their positions, after the checks that count at position 0: EXT and the class limits (R59). -/
def decodeBody (h : Option Instr) (two : Bool) (stall : Nat) (slots : List (Nat × Nat × Nat)) : Except Reject Bundle :=
  if slots.any fun x => extFault x.2.1 x.2.2 then .error .extension
  else if !classesFit (slots.map fun x => x.2.2) then .error .classLimit
  else let (ops, bad) := decodeOps slots; .ok ⟨h, two, stall, ops, bad⟩

/-- Decode the bundle that begins with a word, given the word after it and whether the first is word 4,095 (R43). An error
is a fault that counts at position 0 (R59). -/
def decodeBundle (w0 w1 : BitVec 128) (last : Bool) : Except Reject Bundle :=
  let low := [1, 2, 3].map fun i => (i, slotOf w0 i)
  let high := [0, 1, 2, 3].map fun i => (i + 4, slotOf w1 i)
  if isHeaded w0 then
    match decodeHeader (slotOf w0 0) with
    | .error x => .error x
    | .ok h =>
      let (two, stall, ext) := match h with
        | .headerTransfer l st _ _ ext => (l, st.toNat, ext.toNat)
        | .lockHeader l st _ _ => (l, st.toNat, 0)
        | _ => (false, 0, 0)
      if two && last then .error .header
      else decodeBody (some h) two stall ((if two then low ++ high else low).map fun x => (x.1, ext / 4 ^ (x.1 - 1) % 4, x.2))
  else decodeBody none false 0 (((0, slotOf w0 0) :: low).map fun x => (x.1, 0, x.2))

/-- The instruction whose bits are `w`: the table's rows are slots of 32 bits, so what lies above them is not read. A slot
that can only be a header is read as one; an operation stands here without extension bits. -/
def decodeTableWord (_nbits w : Nat) : Option Instr :=
  let w := w % 2 ^ 32
  match (if w / 2 ^ 28 = 15 then decodeHeader w else decodeSlot 0 w) with
  | .ok i => some i
  | .error _ => none

/-! ### The encoder (R44 to R56): the extension bits and the slot word of an operation; events have none -/

def encDst : Dst → Nat
  | .reg n => n.val
  | .queue => 31
def encSrc : Src → Nat
  | .reg n => n.val
  | .age n => 16 + n.val
def encTy : Ty → Nat
  | .i8 => 0 | .i16 => 1 | .i32 => 2 | .i64 => 3 | .n8 => 4 | .n16 => 5 | .n32 => 6 | .n64 => 7
  | .f64 => 8 | .f32 => 9 | .bf16 => 10 | .f16 => 11 | .e4m3 => 12 | .e5m2 => 13
def encFTy : FTy → Nat
  | .f64 => 0 | .f32 => 1 | .bf16 => 2 | .f16 => 3
def encRm : Rm → Nat
  | .rne => 0 | .rtz => 1 | .rup => 2 | .rdn => 3 | .rna => 4
def encCond : Cond → Nat
  | .eq => 0 | .ne => 1 | .ltI => 2 | .leI => 3 | .gtI => 4 | .geI => 5 | .ltN => 6 | .leN => 7 | .gtN => 8 | .geN => 9
def encVCond : VCond → Nat
  | .eq => 0 | .ne => 1 | .lt => 2 | .le => 3 | .gt => 4 | .ge => 5 | .un => 6 | .ord => 7
def encBf : Bf → Nat
  | .px2 => 0 | .px4 => 1 | .px7 => 2 | .mx8e4 => 3 | .mx8e5 => 4 | .mx6e2 => 5 | .mx6e3 => 6 | .mx4 => 7 | .mxi8 => 8
def encAtTy : AtTy → Nat
  | .i64 => 0 | .n64 => 1 | .i32 => 2 | .n32 => 3
def encAtUse : AtUse → Nat
  | .sc => 0 | .unp => 1 | .com => 2 | .nor => 3 | .qua => 4 | .spc => 5
def encScope : Scope → Nat
  | .core => 0 | .gang => 1 | .ensemble => 2 | .package => 3 | .system => 4
def encXc : Xc → Nat
  | .never => 0 | .pred n => n.val + 1 | .always => 8 | .cv => 9 | .notPred n => n.val + 17 | .notCv => 25
def encBool (b : Bool) : Nat := if b then 1 else 0

/-- Format R: D, A, B, C, F under a major (R50). -/
def encR (m d a b c f : Nat) : Nat := m * 2 ^ 25 + d * 2 ^ 20 + a * 2 ^ 15 + b * 2 ^ 10 + c * 2 ^ 5 + f
/-- Format V: K, TY and F below B (R50). -/
def encV (m d a b k t f : Nat) : Nat := m * 2 ^ 25 + d * 2 ^ 20 + a * 2 ^ 15 + b * 2 ^ 10 + k * 2 ^ 7 + t * 2 ^ 3 + f

/-- Extension bits and field of a widened signed immediate of n + 2 bits (R46). -/
def extE (n x : Nat) : Nat := if (x % 2 ^ n).testBit (n - 1) then 3 - x / 2 ^ n else x / 2 ^ n

/-- An atomic (R54). -/
def encAmo (op : Nat) (a b : Src) (ty : AtTy) (use : AtUse) (dl : Delay) : Nat × Nat :=
  (dl.e.toNat, 0x24 * 2 ^ 25 + encSrc a * 2 ^ 20 + encSrc b * 2 ^ 15 + dl.lat.toNat * 2 ^ 9 + op * 2 ^ 6 + encAtTy ty * 2 ^ 4 +
    encAtUse use * 2)

/-- A vector load of format VL with a 6-bit X (R50). -/
def encVl (m : Nat) (d : Dst) (a : Src) (dl : Delay) (k : Small) (x : Nat) : Nat × Nat :=
  (dl.e.toNat, m * 2 ^ 25 + encDst d * 2 ^ 20 + encSrc a * 2 ^ 15 + dl.lat.toNat * 2 ^ 9 + k.val * 2 ^ 6 + x)

/-- A vector store of format VS (R50). -/
def encVs (m : Nat) (b a : Src) (k : Small) (x : Nat) : Nat :=
  m * 2 ^ 25 + encSrc b * 2 ^ 20 + encSrc a * 2 ^ 15 + k.val * 2 ^ 12 + x

/-- NOP and majors 0x01 and 0x02 (R53). -/
def encodeAlu : Instr → Option (Nat × Nat)
  | .nop => some (0, 0)
  | .add d a b => some (0, encR 1 (encDst d) (encSrc a) (encSrc b) 0 0)
  | .sub d a b => some (0, encR 1 (encDst d) (encSrc a) (encSrc b) 0 1)
  | .and d a b => some (0, encR 1 (encDst d) (encSrc a) (encSrc b) 0 2)
  | .or d a b => some (0, encR 1 (encDst d) (encSrc a) (encSrc b) 0 3)
  | .xor d a b => some (0, encR 1 (encDst d) (encSrc a) (encSrc b) 0 4)
  | .andn d a b => some (0, encR 1 (encDst d) (encSrc a) (encSrc b) 0 5)
  | .shl d a b => some (0, encR 1 (encDst d) (encSrc a) (encSrc b) 0 6)
  | .shr d a b => some (0, encR 1 (encDst d) (encSrc a) (encSrc b) 0 7)
  | .sra d a b => some (0, encR 1 (encDst d) (encSrc a) (encSrc b) 0 8)
  | .rol d a b => some (0, encR 1 (encDst d) (encSrc a) (encSrc b) 0 9)
  | .minI64 d a b => some (0, encR 1 (encDst d) (encSrc a) (encSrc b) 0 10)
  | .minN64 d a b => some (0, encR 1 (encDst d) (encSrc a) (encSrc b) 0 11)
  | .maxI64 d a b => some (0, encR 1 (encDst d) (encSrc a) (encSrc b) 0 12)
  | .maxN64 d a b => some (0, encR 1 (encDst d) (encSrc a) (encSrc b) 0 13)
  | .clz d a => some (0, encR 1 (encDst d) (encSrc a) 0 0 14)
  | .ctz d a => some (0, encR 1 (encDst d) (encSrc a) 0 0 15)
  | .popc d a => some (0, encR 1 (encDst d) (encSrc a) 0 0 16)
  | .mov d a => some (0, encR 1 (encDst d) (encSrc a) 0 0 17)
  | .sel d a b p => some (0, encR 1 (encDst d) (encSrc a) (encSrc b) p.val 18)
  | .bext d a b => some (0, encR 1 (encDst d) (encSrc a) (encSrc b) 0 19)
  | .bins d a b c => some (0, encR 1 (encDst d) (encSrc a) (encSrc b) (encSrc c) 20)
  | .sextI8 d a => some (0, encR 1 (encDst d) (encSrc a) 0 0 21)
  | .sextI16 d a => some (0, encR 1 (encDst d) (encSrc a) 0 0 22)
  | .sextI32 d a => some (0, encR 1 (encDst d) (encSrc a) 0 0 23)
  | .lea d a b n => some (0, encR 1 (encDst d) (encSrc a) (encSrc b) n.toNat 24)
  | .wrap d a b => some (0, encR 1 (encDst d) (encSrc a) (encSrc b) 0 25)
  | .mul d a b => some (0, encR 2 (encDst d) (encSrc a) (encSrc b) 0 0)
  | .mulhI64 d a b => some (0, encR 2 (encDst d) (encSrc a) (encSrc b) 0 1)
  | .mulhN64 d a b => some (0, encR 2 (encDst d) (encSrc a) (encSrc b) 0 2)
  | .divI64 d a b => some (0, encR 2 (encDst d) (encSrc a) (encSrc b) 0 3)
  | .divN64 d a b => some (0, encR 2 (encDst d) (encSrc a) (encSrc b) 0 4)
  | .remI64 d a b => some (0, encR 2 (encDst d) (encSrc a) (encSrc b) 0 5)
  | .remN64 d a b => some (0, encR 2 (encDst d) (encSrc a) (encSrc b) 0 6)
  | _ => none

/-- Majors 0x03 to 0x14 (R53). -/
def encodeImm : Instr → Option (Nat × Nat)
  | .cmp p cc a b => some (0, encR 3 p.val (encSrc a) (encSrc b) 0 (encCond cc))
  | .cmpImm p cc a imm => some (extE 13 imm.toNat,
      4 * 2 ^ 25 + p.val * 2 ^ 22 + encSrc a * 2 ^ 17 + encCond cc * 2 ^ 13 + imm.toNat % 2 ^ 13)
  | .pand d a b => some (0, encR 5 d.val a.val b.val 0 0)
  | .por d a b => some (0, encR 5 d.val a.val b.val 0 1)
  | .pnot d a => some (0, encR 5 d.val a.val 0 0 2)
  | .addImm d a imm => some (extE 15 imm.toNat, 0x08 * 2 ^ 25 + encDst d * 2 ^ 20 + encSrc a * 2 ^ 15 + imm.toNat % 2 ^ 15)
  | .andImm d a imm => some (extE 15 imm.toNat, 0x09 * 2 ^ 25 + encDst d * 2 ^ 20 + encSrc a * 2 ^ 15 + imm.toNat % 2 ^ 15)
  | .orImm d a imm => some (extE 15 imm.toNat, 0x0A * 2 ^ 25 + encDst d * 2 ^ 20 + encSrc a * 2 ^ 15 + imm.toNat % 2 ^ 15)
  | .xorImm d a imm => some (extE 15 imm.toNat, 0x0B * 2 ^ 25 + encDst d * 2 ^ 20 + encSrc a * 2 ^ 15 + imm.toNat % 2 ^ 15)
  | .shlImm d a n => some (0, 0x0C * 2 ^ 25 + encDst d * 2 ^ 20 + encSrc a * 2 ^ 15 + n.toNat)
  | .shrImm d a n => some (0, 0x0D * 2 ^ 25 + encDst d * 2 ^ 20 + encSrc a * 2 ^ 15 + n.toNat)
  | .sraImm d a n => some (0, 0x0E * 2 ^ 25 + encDst d * 2 ^ 20 + encSrc a * 2 ^ 15 + n.toNat)
  | .rolImm d a n => some (0, 0x0F * 2 ^ 25 + encDst d * 2 ^ 20 + encSrc a * 2 ^ 15 + n.toNat)
  | .mulImm d a imm => some (extE 15 imm.toNat, 0x10 * 2 ^ 25 + encDst d * 2 ^ 20 + encSrc a * 2 ^ 15 + imm.toNat % 2 ^ 15)
  | .li d imm => some (extE 20 imm.toNat, 0x11 * 2 ^ 25 + encDst d * 2 ^ 20 + imm.toNat % 2 ^ 20)
  | .lih d imm => some (imm.toNat / 2 ^ 20, 0x12 * 2 ^ 25 + d.val * 2 ^ 20 + imm.toNat % 2 ^ 20)
  | .ptb tb lk off => some (extE 20 off.toNat, 0x13 * 2 ^ 25 + tb.val * 2 ^ 22 + encBool lk * 2 ^ 21 + off.toNat % 2 ^ 20)
  | .ptbReg tb lk a => some (0, encR 0x14 tb.val (encSrc a) 0 0 (encBool lk))
  | _ => none

/-- Majors 0x15 to 0x26 (R53, R54). -/
def encodeMem : Instr → Option (Nat × Nat)
  | .ctlr d idx => some (0, 0x15 * 2 ^ 25 + encDst d * 2 ^ 20 + idx.toNat * 2 ^ 8)
  | .ctlw idx a => some (0, 0x15 * 2 ^ 25 + encSrc a * 2 ^ 20 + idx.toNat * 2 ^ 8 + 1)
  | .ctlwArrmode a => some (0, 0x15 * 2 ^ 25 + encSrc a * 2 ^ 20 + 0x001 * 2 ^ 8 + 1)
  | .ctlwCvcur a => some (0, 0x15 * 2 ^ 25 + encSrc a * 2 ^ 20 + 0x00A * 2 ^ 8 + 1)
  | .ctlwEvt a => some (0, 0x15 * 2 ^ 25 + encSrc a * 2 ^ 20 + 0x00F * 2 ^ 8 + 1)
  | .ctlwAsid a => some (0, 0x15 * 2 ^ 25 + encSrc a * 2 ^ 20 + 0x104 * 2 ^ 8 + 1)
  | .ctlwPtroot a => some (0, 0x15 * 2 ^ 25 + encSrc a * 2 ^ 20 + 0x105 * 2 ^ 8 + 1)
  | .ctlwPartmap a => some (0, 0x15 * 2 ^ 25 + encSrc a * 2 ^ 20 + 0x200 * 2 ^ 8 + 1)
  | .ctlwKeyctl a => some (0, 0x15 * 2 ^ 25 + encSrc a * 2 ^ 20 + 0x203 * 2 ^ 8 + 1)
  | .cvadv => some (0, 0x16 * 2 ^ 25)
  | .isync => some (0, 0x16 * 2 ^ 25 + 1)
  | .ld d a sz sx off dl => some (dl.e.toNat, 0x20 * 2 ^ 25 + encDst d * 2 ^ 20 + encSrc a * 2 ^ 15 + dl.lat.toNat * 2 ^ 9 +
      sz.toNat * 2 ^ 7 + encBool sx * 2 ^ 6 + off.toNat)
  | .ldAcq d a sz sx off dl => some (dl.e.toNat, 0x21 * 2 ^ 25 + encDst d * 2 ^ 20 + encSrc a * 2 ^ 15 + dl.lat.toNat * 2 ^ 9 +
      sz.toNat * 2 ^ 7 + encBool sx * 2 ^ 6 + off.toNat)
  | .st b a sz off => some (extE 13 off.toNat,
      0x22 * 2 ^ 25 + encSrc b * 2 ^ 20 + encSrc a * 2 ^ 15 + sz.toNat * 2 ^ 13 + off.toNat % 2 ^ 13)
  | .stRel b a sz off => some (extE 13 off.toNat,
      0x23 * 2 ^ 25 + encSrc b * 2 ^ 20 + encSrc a * 2 ^ 15 + sz.toNat * 2 ^ 13 + off.toNat % 2 ^ 13)
  | .amoAdd a b ty use dl => some (encAmo 0 a b ty use dl)
  | .amoAnd a b ty use dl => some (encAmo 1 a b ty use dl)
  | .amoOr a b ty use dl => some (encAmo 2 a b ty use dl)
  | .amoXor a b ty use dl => some (encAmo 3 a b ty use dl)
  | .amoSwap a b ty use dl => some (encAmo 4 a b ty use dl)
  | .amoMin a b ty use dl => some (encAmo 5 a b ty use dl)
  | .amoMax a b ty use dl => some (encAmo 6 a b ty use dl)
  | .cas a b c w use dl => some (dl.e.toNat, 0x25 * 2 ^ 25 + encSrc a * 2 ^ 20 + encSrc b * 2 ^ 15 + encSrc c * 2 ^ 10 +
      dl.lat.toNat * 2 ^ 4 + encBool w * 2 ^ 3 + encAtUse use)
  | .fence sc => some (0, 0x26 * 2 ^ 25 + encScope sc * 2 ^ 22)
  | .fenceX sc => some (0, 0x26 * 2 ^ 25 + encScope sc * 2 ^ 22 + 2 ^ 21)
  | _ => none

/-- Majors 0x27 to 0x2F (R54). -/
def encodeSys : Instr → Option (Nat × Nat)
  | .boinit a b => some (0, encR 0x27 0 (encSrc a) (encSrc b) 0 0)
  | .boarm a b => some (0, encR 0x27 0 (encSrc a) (encSrc b) 0 1)
  | .bowait a => some (0, encR 0x27 0 (encSrc a) 0 0 2)
  | .cwb a b => some (0, encR 0x27 0 (encSrc a) (encSrc b) 0 3)
  | .cinv a b => some (0, encR 0x27 0 (encSrc a) (encSrc b) 0 4)
  | .bar => some (0, encR 0x28 0 0 0 0 0)
  | .ebar => some (0, encR 0x28 0 0 0 0 1)
  | .wfe => some (0, encR 0x28 0 0 0 0 2)
  | .sev a => some (0, encR 0x28 0 (encSrc a) 0 0 3)
  | .join => some (0, encR 0x28 0 0 0 0 4)
  | .taskend => some (0, encR 0x28 0 0 0 0 5)
  | .exit => some (0, encR 0x28 0 0 0 0 6)
  | .fork task a b => some (task.toNat / 2 ^ 15, 0x29 * 2 ^ 25 + encSrc a * 2 ^ 20 + encSrc b * 2 ^ 15 + task.toNat % 2 ^ 15)
  | .launch d a => some (0, encR 0x2A (encDst d) (encSrc a) 0 0 0)
  | .shape a b => some (0, encR 0x2A 0 (encSrc a) (encSrc b) 0 1)
  | .qsigSet a b => some (0, encR 0x2A 0 (encSrc a) (encSrc b) 0 2)
  | .qsigAdd a b => some (0, encR 0x2A 0 (encSrc a) (encSrc b) 1 2)
  | .qsigOr a b => some (0, encR 0x2A 0 (encSrc a) (encSrc b) 2 2)
  | .pqpush a b => some (0, encR 0x2B 0 (encSrc a) (encSrc b) 0 0)
  | .sqrun a b => some (0, encR 0x2B 0 (encSrc a) (encSrc b) 0 1)
  | .sqcfg d a b => some (0, encR 0x2B (encDst d) (encSrc a) (encSrc b) 0 2)
  | .pqtake d dl => some (dl.e.toNat, 0x2C * 2 ^ 25 + encDst d * 2 ^ 20 + dl.lat.toNat * 2 ^ 9)
  | .depth d a dl => some (dl.e.toNat, 0x2C * 2 ^ 25 + encDst d * 2 ^ 20 + encSrc a * 2 ^ 15 + dl.lat.toNat * 2 ^ 9 + 1)
  | .rbread d dl => some (dl.e.toNat, 0x2C * 2 ^ 25 + encDst d * 2 ^ 20 + dl.lat.toNat * 2 ^ 9 + 2)
  | .sysc a => some (0, encR 0x2D 0 (encSrc a) 0 0 0)
  | .tlbiVa a b => some (0, encR 0x2D 0 (encSrc a) (encSrc b) 0 1)
  | .tlbiAsid b => some (0, encR 0x2D 0 0 (encSrc b) 1 1)
  | .tlbiAll => some (0, encR 0x2D 0 0 0 2 1)
  | .idle => some (0, encR 0x2D 0 0 0 0 2)
  | .lockw d a => some (0, encR 0x2D (encDst d) (encSrc a) 0 0 3)
  | .prmt d a b => some (0, encR 0x2D (encDst d) (encSrc a) (encSrc b) 0 4)
  | .rsum d a => some (0, encR 0x2D (encDst d) (encSrc a) 0 0 5)
  | .trap code => some (code.toNat / 2 ^ 15, 0x2E * 2 ^ 25 + code.toNat % 2 ^ 15)
  | .eret => some (0, encR 0x2F 0 0 0 0 0)
  | .bkpt => some (0, encR 0x2F 0 0 0 0 1)
  | _ => none

/-- Majors 0x30 to 0x32 (R55). -/
def encodeVarith : Instr → Option (Nat × Nat)
  | .vadd d a b k t => some (0, encV 0x30 (encDst d) (encSrc a) (encSrc b) k.val (encTy t) 0)
  | .vsub d a b k t => some (0, encV 0x30 (encDst d) (encSrc a) (encSrc b) k.val (encTy t) 1)
  | .vmul d a b k t => some (0, encV 0x30 (encDst d) (encSrc a) (encSrc b) k.val (encTy t) 2)
  | .vmin d a b k t => some (0, encV 0x30 (encDst d) (encSrc a) (encSrc b) k.val (encTy t) 3)
  | .vmax d a b k t => some (0, encV 0x30 (encDst d) (encSrc a) (encSrc b) k.val (encTy t) 4)
  | .vdiv d a b k t => some (0, encV 0x30 (encDst d) (encSrc a) (encSrc b) k.val (encTy t) 5)
  | .vabs d a k t => some (0, encV 0x30 (encDst d) (encSrc a) 0 k.val (encTy t) 6)
  | .vneg d a k t => some (0, encV 0x30 (encDst d) (encSrc a) 0 k.val (encTy t) 7)
  | .vand d a b k t => some (0, encV 0x31 (encDst d) (encSrc a) (encSrc b) k.val (encTy t) 0)
  | .vor d a b k t => some (0, encV 0x31 (encDst d) (encSrc a) (encSrc b) k.val (encTy t) 1)
  | .vxor d a b k t => some (0, encV 0x31 (encDst d) (encSrc a) (encSrc b) k.val (encTy t) 2)
  | .vshl d a b k t => some (0, encV 0x31 (encDst d) (encSrc a) (encSrc b) k.val (encTy t) 3)
  | .vshr d a b k t => some (0, encV 0x31 (encDst d) (encSrc a) (encSrc b) k.val (encTy t) 4)
  | .vsra d a b k t => some (0, encV 0x31 (encDst d) (encSrc a) (encSrc b) k.val (encTy t) 5)
  | .vsel d a b k t => some (0, encV 0x31 (encDst d) (encSrc a) (encSrc b) k.val (encTy t) 6)
  | .vsqrt d a k t => some (0, encV 0x32 (encDst d) (encSrc a) 0 k.val (encTy t) 0)
  | .vrcp d a k t => some (0, encV 0x32 (encDst d) (encSrc a) 0 k.val (encTy t) 1)
  | .vrsq d a k t => some (0, encV 0x32 (encDst d) (encSrc a) 0 k.val (encTy t) 2)
  | .vfex2 d a k t => some (0, encV 0x32 (encDst d) (encSrc a) 0 k.val (encTy t) 3)
  | .vlg2 d a k t => some (0, encV 0x32 (encDst d) (encSrc a) 0 k.val (encTy t) 4)
  | .vgetx d a k t => some (0, encV 0x32 (encDst d) (encSrc a) 0 k.val (encTy t) 5)
  | .vinsx d a b k t => some (0, encV 0x32 (encDst d) (encSrc a) (encSrc b) k.val (encTy t) 6)
  | .vrndi d a rm k t => some (0, encV 0x32 (encDst d) (encSrc a) (encRm rm) k.val (encTy t) 7)
  | _ => none

/-- Majors 0x33 to 0x3B (R55). -/
def encodeVlane : Instr → Option (Nat × Nat)
  | .vfma d a b c tf k => some (0, encR 0x33 (encDst d) (encSrc a) (encSrc b) (encSrc c) (encFTy tf * 2 ^ 3 + k.val))
  | .vfms d a b c tf k => some (0, encR 0x34 (encDst d) (encSrc a) (encSrc b) (encSrc c) (encFTy tf * 2 ^ 3 + k.val))
  | .vfnma d a b c tf k => some (0, encR 0x35 (encDst d) (encSrc a) (encSrc b) (encSrc c) (encFTy tf * 2 ^ 3 + k.val))
  | .vcvt d a td ts rm k sat => some (0, 0x36 * 2 ^ 25 + encDst d * 2 ^ 20 + encSrc a * 2 ^ 15 + encTy td * 2 ^ 11 +
      encTy ts * 2 ^ 7 + encRm rm * 2 ^ 4 + k.val * 2 + encBool sat)
  | .vcmp kd cc a b k t => some (0, encV 0x37 kd.val (encSrc a) (encSrc b) k.val (encTy t) (encVCond cc))
  | .kand d a b => some (0, encV 0x38 d.val a.val b.val 0 0 0)
  | .kor d a b => some (0, encV 0x38 d.val a.val b.val 0 0 1)
  | .knot d a => some (0, encV 0x38 d.val a.val 0 0 0 2)
  | .kpopc d a => some (0, encV 0x38 (encDst d) a.val 0 0 0 3)
  | .vctw a => some (0, encV 0x38 0 a.val 0 0 0 4)
  | .vbcast d a k t => some (0, encV 0x39 (encDst d) (encSrc a) 0 k.val (encTy t) 0)
  | .vext d a b t => some (0, encV 0x39 (encDst d) (encSrc a) (encSrc b) 0 (encTy t) 1)
  | .vins d a b k t => some (0, encV 0x39 (encDst d) (encSrc a) (encSrc b) k.val (encTy t) 2)
  | .viota d k t => some (0, encV 0x39 (encDst d) 0 0 k.val (encTy t) 3)
  | .vperm d a b k t => some (0, encV 0x3A (encDst d) (encSrc a) (encSrc b) k.val (encTy t) 0)
  | .vredadd d a k t => some (0, encV 0x3B (encDst d) (encSrc a) 0 k.val (encTy t) 0)
  | .vredmax d a k t => some (0, encV 0x3B (encDst d) (encSrc a) 0 k.val (encTy t) 1)
  | .vredmin d a k t => some (0, encV 0x3B (encDst d) (encSrc a) 0 k.val (encTy t) 2)
  | _ => none

/-- Majors 0x3C to 0x49 (R55). -/
def encodeVmem : Instr → Option (Nat × Nat)
  | .vmaxb d a bf => some (0, encV 0x3C (encDst d) (encSrc a) 0 0 (encBf bf) 0)
  | .vqnt d a bf => some (0, encV 0x3C (encDst d) (encSrc a) 0 0 (encBf bf) 1)
  | .vdqnt d a b bf => some (0, encV 0x3C (encDst d) (encSrc a) (encSrc b) 0 (encBf bf) 2)
  | .vdefer v n b k => some (0, 0x3D * 2 ^ 25 + v.val * 2 ^ 20 + encSrc b * 2 ^ 15 + k.val * 2 ^ 12 + n.toNat * 2 ^ 10)
  | .vdrain v n b => some (0, 0x3E * 2 ^ 25 + v.val * 2 ^ 20 + encSrc b * 2 ^ 15 + n.toNat * 2 ^ 10)
  | .vld d a off k dl => some (encVl 0x40 d a dl k off.toNat)
  | .vlds d a b k dl => some (encVl 0x41 d a dl k (encSrc b))
  | .vgath d a vi w64 k dl => some (encVl 0x42 d a dl k (encBool w64 * 2 ^ 5 + encSrc vi))
  | .vldl d a off k dl => some (encVl 0x43 d a dl k off.toNat)
  | .vldv d a b k dl => some (encVl 0x44 d a dl k (encSrc b))
  | .vst b a off k => some (extE 12 off.toNat, encVs 0x45 b a k (off.toNat % 2 ^ 12))
  | .vsts b a sb k => some (0, encVs 0x46 b a k (encSrc sb * 2 ^ 7))
  | .vscat b a vi w64 k => some (0, encVs 0x47 b a k (encBool w64 * 2 ^ 11 + encSrc vi * 2 ^ 6))
  | .vstl b a off k => some (extE 12 off.toNat, encVs 0x48 b a k (off.toNat % 2 ^ 12))
  | .vstv b a sb k => some (0, encVs 0x49 b a k (encSrc sb * 2 ^ 7))
  | _ => none

/-- Classes M, C and N (R56). -/
def encodeMcn : Instr → Option (Nat × Nat)
  | .mstrm n a => some (0, 0x50 * 2 ^ 25 + n.val * 2 ^ 21 + encSrc a * 2 ^ 15)
  | .mnest a => some (0, 0x51 * 2 ^ 25 + encSrc a * 2 ^ 15)
  | .mgo sa sb acc accum ser => some (0, 0x52 * 2 ^ 25 + sa.val * 2 ^ 21 + sb.val * 2 ^ 17 + acc.val * 2 ^ 14 +
      encBool accum * 2 ^ 13 + encBool ser * 2 ^ 12)
  | .msync => some (0, 0x53 * 2 ^ 25)
  | .mza acc => some (0, 0x54 * 2 ^ 25 + acc.val * 2 ^ 22)
  | .mepi acc a => some (0, 0x55 * 2 ^ 25 + acc.val * 2 ^ 22 + encSrc a * 2 ^ 15)
  | .mtov d acc row part => some (0, 0x56 * 2 ^ 25 + encDst d * 2 ^ 20 + acc.val * 2 ^ 17 + row.toNat * 2 ^ 11 + part.toNat * 2 ^ 9)
  | .mfromv a acc row part => some (0,
      0x57 * 2 ^ 25 + encSrc a * 2 ^ 20 + acc.val * 2 ^ 17 + row.toNat * 2 ^ 11 + part.toNat * 2 ^ 9)
  | .speshp sh a => some (0, 0x58 * 2 ^ 25 + sh.toNat * 2 ^ 19 + encSrc a * 2 ^ 14)
  | .speld a z => some (0, 0x59 * 2 ^ 25 + encSrc a * 2 ^ 20 + z.toNat * 2 ^ 8)
  | .spest d z => some (0, 0x5A * 2 ^ 25 + encDst d * 2 ^ 20 + z.toNat * 2 ^ 8)
  | .speup sh tm z => some (0, 0x5B * 2 ^ 25 + sh.toNat * 2 ^ 19 + tm.toNat * 2 ^ 15 + z.toNat * 2 ^ 3)
  | .spedn sh tm z => some (0, 0x5C * 2 ^ 25 + sh.toNat * 2 ^ 19 + tm.toNat * 2 ^ 15 + z.toNat * 2 ^ 3)
  | .specvtF32Sp32 z => some (0, 0x5D * 2 ^ 25 + z.toNat * 2 ^ 13)
  | .specvtSp32F32 z => some (0, 0x5D * 2 ^ 25 + z.toNat * 2 ^ 13 + 2 ^ 12)
  | .speza z => some (0, 0x5E * 2 ^ 25 + z.toNat * 2 ^ 13)
  | .cpy o a b c => some (0, encR 0x60 (encSrc o) (encSrc a) (encSrc b) (encSrc c) 0)
  | .cpyp o a b c => some (0, encR 0x60 (encSrc o) (encSrc a) (encSrc b) (encSrc c) 1)
  | .cpyg o a b c => some (0, encR 0x60 (encSrc o) (encSrc a) (encSrc b) (encSrc c) 2)
  | .stbind o n c => some (0, encR 0x60 (encSrc o) n.val 0 (encSrc c) 3)
  | .cpys o a b c => some (0, encR 0x61 (encSrc o) (encSrc a) (encSrc b) (encSrc c) 0)
  | .smrg o a b => some (0, encR 0x61 (encSrc o) (encSrc a) (encSrc b) 0 1)
  | .send o a b c => some (0, encR 0x68 (encSrc o) (encSrc a) (encSrc b) (encSrc c) 0)
  | .recv a b => some (0, encR 0x68 0 (encSrc a) (encSrc b) 0 1)
  | .recvadd o a b c => some (0, encR 0x68 (encSrc o) (encSrc a) (encSrc b) (encSrc c) 2)
  | .ttset o a b => some (0, encR 0x69 (encSrc o) (encSrc a) (encSrc b) 0 0)
  | .tready a => some (0, encR 0x69 0 (encSrc a) 0 0 1)
  | .twait a => some (0, encR 0x69 0 (encSrc a) 0 0 2)
  | _ => none

/-- The extension bits and the word of an operation; events have none. -/
def encode (i : Instr) : Option (Nat × Nat) :=
  [encodeAlu, encodeImm, encodeMem, encodeSys, encodeVarith, encodeVlane, encodeVmem, encodeMcn].firstM fun f => f i

/-- The word of a header (R44, R47). -/
def encodeHeader : Instr → Option Nat
  | .headerTransfer l stall xc tb ext => some (0x1E * 2 ^ 27 + encBool l * 2 ^ 26 + stall.toNat * 2 ^ 22 + encXc xc * 2 ^ 17 +
      tb.val * 2 ^ 14 + ext.toNat)
  | .lockHeader l stall cnt banks => some (0x7C * 2 ^ 25 + encBool l * 2 ^ 24 + stall.toNat * 2 ^ 20 + cnt.toNat * 2 ^ 17 + banks.toNat)
  | _ => none

end Sys2Proof
end

