-- ==== Sys2Proof/Machine/Operands.lean ====
section
/-! DEFINITION. What an operation reads and names: the operand fields (R31, R53 to R56), the checking scoreboard (R39, R149, R176), the
registers of the urgent profile (R369, R370), and operands that hold an uncorrectable error (R399). -/

namespace Sys2Proof.Machine

/-- An operand field, or named state that an operation reads. -/
inductive Use where
  | s (a : Src)
  | v (a : Src)
  | p (n : Small)
  | k (n : Small)
  | ds (d : Dst)
  | dv (d : Dst)
  | dp (n : Small)
  | dk (n : Small)
  | tb (n : Small)
  | stream (n : RegNo)
  | nest
  deriving DecidableEq, Repr

/-- Fields of the common shapes: scalar or vector result, scalar or vector operands. -/
def useS (d : Dst) (as : List Src) : List Use := .ds d :: as.map Use.s
def useV (d : Dst) (as : List Src) : List Use := .dv d :: as.map Use.v

/-- A write mask: lanes that it leaves out keep the destination's value, so a named destination is read as well (R110). -/
def useK (d : Dst) (k : Small) : List Use :=
  .k k :: (if k = 0 then [] else match d with | .reg n => [.v (.reg n)] | .queue => [])

/-- The operand fields of an operation or a header; events have none. -/
def uses : Instr → List Use
  | .headerTransfer _ _ xc tb _ =>
    (match xc with
     | .pred n | .notPred n => [Use.p n.succ]
     | _ => []) ++ (if xc = .never then [] else [.tb tb])
  | .add d a b | .sub d a b | .and d a b | .or d a b | .xor d a b | .andn d a b | .shl d a b | .shr d a b | .sra d a b | .rol d a b
  | .minI64 d a b | .minN64 d a b | .maxI64 d a b | .maxN64 d a b | .bext d a b | .lea d a b _ | .wrap d a b
  | .mul d a b | .mulhI64 d a b | .mulhN64 d a b | .divI64 d a b | .divN64 d a b | .remI64 d a b | .remN64 d a b
  | .sqcfg d a b | .prmt d a b => useS d [a, b]
  | .clz d a | .ctz d a | .popc d a | .mov d a | .sextI8 d a | .sextI16 d a | .sextI32 d a
  | .addImm d a _ | .andImm d a _ | .orImm d a _ | .xorImm d a _ | .shlImm d a _ | .shrImm d a _ | .sraImm d a _ | .rolImm d a _
  | .mulImm d a _ | .ld d a _ _ _ _ | .ldAcq d a _ _ _ _ | .launch d a | .depth d a _ | .lockw d a | .rsum d a => useS d [a]
  | .sel d a b p => .p p :: useS d [a, b]
  | .bins d a b c => useS d [a, b, c]
  | .li d _ | .ctlr d _ | .pqtake d _ | .rbread d _ => useS d []
  | .lih d _ => useS (.reg d) [.reg d]
  | .cmp p _ a b => [.dp p, .s a, .s b]
  | .cmpImm p _ a _ => [.dp p, .s a]
  | .pand pd pa pb | .por pd pa pb => [.dp pd, .p pa, .p pb]
  | .pnot pd pa => [.dp pd, .p pa]
  | .ptb tb _ _ => [.tb tb]
  | .ptbReg tb _ a => [.tb tb, .s a]
  | .ctlw _ a | .ctlwArrmode a | .ctlwCvcur a | .ctlwEvt a | .ctlwAsid a | .ctlwPtroot a | .ctlwPartmap a | .ctlwKeyctl a
  | .bowait a | .sev a | .sysc a | .tlbiAsid a | .mnest a | .mepi _ a | .speshp _ a | .tready a | .twait a | .mstrm _ a => [.s a]
  | .st b a _ _ | .stRel b a _ _ | .amoAdd a b _ _ _ | .amoAnd a b _ _ _ | .amoOr a b _ _ _ | .amoXor a b _ _ _
  | .amoSwap a b _ _ _ | .amoMin a b _ _ _ | .amoMax a b _ _ _ | .boinit a b | .boarm a b | .cwb a b | .cinv a b | .fork _ a b
  | .shape a b | .qsigSet a b | .qsigAdd a b | .qsigOr a b | .pqpush a b | .sqrun a b | .tlbiVa a b | .recv a b
  | .stbind a _ b => [.s a, .s b]
  | .cas a b c _ _ _ | .smrg a b c | .ttset a b c => [.s a, .s b, .s c]
  | .cpy o a b c | .cpyp o a b c | .cpyg o a b c | .cpys o a b c | .send o a b c | .recvadd o a b c => [.s o, .s a, .s b, .s c]
  | .vadd d a b k _ | .vsub d a b k _ | .vmul d a b k _ | .vmin d a b k _ | .vmax d a b k _ | .vdiv d a b k _
  | .vand d a b k _ | .vor d a b k _ | .vxor d a b k _ | .vshl d a b k _ | .vshr d a b k _ | .vsra d a b k _
  | .vinsx d a b k _ | .vperm d a b k _ => useV d [a, b] ++ useK d k
  | .vabs d a k _ | .vneg d a k _ | .vsqrt d a k _ | .vrcp d a k _ | .vrsq d a k _ | .vfex2 d a k _ | .vlg2 d a k _ | .vgetx d a k _
  | .vrndi d a _ k _ | .vcvt d a _ _ _ k _ => useV d [a] ++ useK d k
  | .vsel d a b k _ => .k k :: useV d [a, b]
  | .vfma d a b c _ k | .vfms d a b c _ k | .vfnma d a b c _ k => useV d [a, b, c] ++ useK d k
  | .vcmp kd _ a b k _ => [.dk kd, .v a, .v b, .k k]
  | .kand kd ka kb | .kor kd ka kb => [.dk kd, .k ka, .k kb]
  | .knot kd ka => [.dk kd, .k ka]
  | .kpopc d ka => [.ds d, .k ka]
  | .vctw ka => [.k ka]
  | .vbcast d a k _ => .dv d :: .s a :: useK d k
  | .vext d a b _ => [.ds d, .v a, .s b]
  | .vins d a b k _ => [.dv d, .v a, .s b, .k k]
  | .viota d k _ => .dv d :: useK d k
  | .vredadd d a k _ | .vredmax d a k _ | .vredmin d a k _ => [.ds d, .v a, .k k]
  | .vmaxb d a _ | .vqnt d a _ => useV d [a]
  | .vdqnt d a b _ => useV d [a, b]
  | .vdefer v n b k => .s b :: .k k :: (List.range (n.toNat + 1)).map fun r => .v (.reg (Fin.ofNat 16 (v.val + r)))
  | .vdrain v n b => .s b :: (List.range (n.toNat + 1)).map fun r => .dv (.reg (Fin.ofNat 16 (v.val + r)))
  | .vld d a _ k _ | .vldl d a _ k _ => .dv d :: .s a :: useK d k
  | .vlds d a b k _ => .dv d :: .s a :: .s b :: useK d k
  | .vgath d a vi _ k _ => .dv d :: .s a :: .v vi :: useK d k
  | .vldv d a b k _ => [.dv d, .s a, .s b, .dk k]
  | .vst b a _ k | .vstl b a _ k => [.v b, .s a, .k k]
  | .vsts b a sb k | .vstv b a sb k => [.v b, .s a, .s sb, .k k]
  | .vscat b a vi _ k => [.v b, .s a, .v vi, .k k]
  | .mgo sa sb _ _ _ => [.stream sa, .stream sb, .nest]
  | .mtov d _ _ _ | .spest d _ => [.dv d]
  | .mfromv a _ _ _ | .speld a _ => [.v a]
  | _ => []

/-! ### The checking scoreboard (R39, R149, R176) -/

/-- One number for each piece of named state: g, v, p, k, streams, nest, shapes, mode registers, scratch registers. -/
def keyG (n : Nat) : Nat := n
def keyV (n : Nat) : Nat := 16 + n
def keyP (n : Nat) : Nat := 32 + n
def keyK (n : Nat) : Nat := 40 + n
def keyStream (n : Nat) : Nat := 48 + n
def keyNest : Nat := 64
def keyShape (n : Nat) : Nat := 128 + n
def keyCtl (idx : Nat) : Nat := 256 + idx
def keyZ (i : Nat) : Nat := 8192 + i

/-- What CHKSTALL reports for a piece of named state: the five bits of the field that names it (R407). -/
def keyField (k : Nat) : Nat :=
  if k < 16 then k else if k < 32 then k - 16 else if k < 40 then k - 32 else if k < 48 then k - 40 else if k < 64 then k - 48
  else k % 32

/-- The named state that a field reads; queue ages, p0 and k0 are never checked. -/
def Use.key : Use → Option Nat
  | .s (.reg n) => some (keyG n.val)
  | .v (.reg n) => some (keyV n.val)
  | .p n => if n = 0 then none else some (keyP n.val)
  | .k n => if n = 0 then none else some (keyK n.val)
  | .stream n => some (keyStream n.val)
  | .nest => some keyNest
  | _ => none

/-- Mode registers of the sum-product engine (R176). -/
def speCtl : List Nat := [0x00B, 0x00C, 0x00D]

/-- Scratch registers, shape entry and mode registers that a sum-product operation reads (R172, R173, R176). -/
def State.speKeys (s : State) (i : Instr) : List Nat :=
  match i with
  | .speup sh tm z =>
    if tm = 0#4 then []
    else keyShape sh.toNat :: keyCtl 0x00B :: keyCtl 0x00C :: ((s.trees tm z).map (leafRegs (s.shapeAt sh))).flatten.map keyZ
  | .spedn sh tm z =>
    if tm = 0#4 then []
    else
    let bs := s.trees tm z
    let root := bs.map fun b => b + shapeRoot (s.shapeAt sh) + s.core.ctl.adjoff.toNat
    keyShape sh.toNat :: speCtl.map keyCtl ++ ((bs.map (leafRegs (s.shapeAt sh))).flatten ++ root).map keyZ
  | .spest _ z | .specvtF32Sp32 z | .specvtSp32F32 z => (zRegs z).map keyZ
  | _ => []

/-- What an operation reads. -/
def State.readKeys (s : State) (i : Instr) : List Nat := (uses i).filterMap Use.key ++ s.speKeys i

/-- The named state that a result writes. -/
def Result.keys : Result → List Nat
  | .scalar (.reg n) _ => [keyG n.val]
  | .link _ => [keyG 15]
  | .vector (.reg n) _ => [keyV n.val]
  | .pred p _ => if p = 0 then [] else [keyP p.val]
  | .mask k _ => if k = 0 then [] else [keyK k.val]
  | .ctl idx _ => if speCtl.contains idx.toNat then [keyCtl idx.toNat] else []
  | .scratch zs => zs.map fun z => keyZ z.1
  | .adjoints _ zs _ => zs.map fun z => keyZ z.1
  | .bind n _ => [keyStream n.val]
  | _ => []

/-- The named state that a landing writes. -/
def LandDst.keys : LandDst → List Nat
  | .scalar (.reg n) _ _ => [keyG n.val]
  | .notice (.reg n) => [keyG n.val]
  | .vector (.reg n) => [keyV n.val]
  | .vldv d k => (match d with | .reg n => [keyV n.val] | .queue => []) ++ (if k = 0 then [] else [keyK k.val])
  | .stream n => [keyStream n.val]
  | .nest => [keyNest]
  | .shape n => [keyShape n]
  | _ => []

/-- The writes of a core in flight: due, issue, slot, and what they write. -/
def Port.writes (p : Port) : List (Nat × Nat × Nat × List Nat) :=
  (p.pend.map fun x => (x.due, x.issue, x.slot, x.act.keys)) ++ p.landings.map fun x => (x.due, x.issue, x.slot, x.dst.keys)

/-- The first operand whose pending write is not complete (R39). -/
def State.pendingRead (s : State) (i : Instr) : Option Nat :=
  let ws := (s.core.port.writes.filter fun w => decide (w.2.1 < s.core.unf)).map fun w => w.2.2.2
  (s.readKeys i).find? fun k => ws.any fun ks => ks.contains k

/-- A write of the slot in hand, in `t`, that would complete before an earlier-issued write to the same register (R39). -/
def State.lateWrite (s t : State) : Option Nat :=
  let old := s.core.port.writes.filter fun w => decide (w.2.1 < s.core.unf)
  let new := t.core.port.writes.filter fun w => w.2.1 == s.core.unf && w.2.2.1 == t.core.flow.slot
  if old.isEmpty then none
  else (new.map fun w => w.2.2.2.filter fun k => old.any fun o => decide (w.1 < o.1) && o.2.2.2.contains k).flatten.head?

/-- The landing that a request will take, with its delay: what it adds to the landing buffer whether or not it waits first (R36, R37). -/
def requestLanding : Instr → Option (Delay × LandDst)
  | .ld d _ sz sx _ dl | .ldAcq d _ sz sx _ dl => some (dl, .scalar d (2 ^ sz.toNat) sx)
  | .amoAdd _ _ _ use dl | .amoAnd _ _ _ use dl | .amoOr _ _ _ use dl | .amoXor _ _ _ use dl | .amoSwap _ _ _ use dl
  | .amoMin _ _ _ use dl | .amoMax _ _ _ use dl => if use = .com then none else some (dl, .scalar .queue 8 false)
  | .cas _ _ _ _ _ dl => some (dl, .scalar .queue 8 false)
  | .vld d _ _ _ dl | .vlds d _ _ _ dl | .vgath d _ _ _ _ dl | .vldl d _ _ _ dl => some (dl, .vector d)
  | .vldv d _ _ k dl => some (dl, .vldv d k)
  | .pqtake d dl => some (dl, .notice d)
  | .depth d _ dl | .rbread d dl => some (dl, .scalar d 8 false)
  | _ => none

/-- The result that an operation posts once its wait is over, with its latency (R34). -/
def waitedResult : Instr → Option (Nat × Result)
  | .launch d _ | .sqcfg d _ _ | .prmt d _ _ | .rsum d _ | .lockw d _ => some (1, .scalar d 0#64)
  | .mtov d _ _ _ => some (4, .vector d 0#1024)
  | _ => none

/-- The bytes of the core scratchpad that an operation reads as scheduled accesses besides a landing's: their offset from issue, address and
length (R158, R264). -/
def State.sideReads (s : State) : Instr → List (Nat × Nat × Nat)
  | .mepi _ a => [(3, (s.gS a).toNat, 64)]
  | .send _ a _ c => (List.range ((s.gS c).toNat / 64)).map fun k => (3 + k, (s.gS a).toNat + 64 * k, 64)
  | _ => []

/-- What an operation that waits will add at its issue, as far as the checks without a wait look at it (R37, R39, R215, R430). -/
def State.claim (s : State) (i : Instr) : State :=
  let s := (s.sideReads i).foldl (fun s r =>
    s.addSched r.1 (.load 0#1024 [⟨0, s.keyOf s.core .spad (r.2.1 - Win.spad.base), r.2.2⟩] (.ofNat 64 r.2.1))) s
  let s := match requestLanding i with
    | some (dl, dst) => s.addLanding (delayCycles dl) 0 dst true
    | none => s
  match waitedResult i with
  | some (n, r) => s.post n r
  | none => s

/-! ### Operands with uncorrectable errors (R399) -/

/-- The code of a register or queue entry that a field reads; a stream register has kind 6 (log entry 151). -/
def Use.code : Use → Option Nat
  | .s (.reg n) => some (regCode 0 n.val)
  | .s (.age n) => some (regCode 1 n.val)
  | .v (.reg n) => some (regCode 2 n.val)
  | .v (.age n) => some (regCode 3 n.val)
  | .stream n => some (regCode 6 n.val)
  | _ => none

/-- The first operand that cannot be read. -/
def State.badOperand (s : State) (i : Instr) : Option Nat :=
  if s.bad.isEmpty then none else ((uses i).filterMap Use.code).find? s.badReg

/-- What a bundle reads of registers with one wrong bit is corrected, counted and recorded (R395, R398), and so is each of its instruction
words, coded with kind 8. -/
def State.countSoft (s : State) (codes : List Nat) : State :=
  if s.bad.isEmpty then s
  else (codes.filter fun c => s.bad.contains (.soft s.core.name c)).foldl
    (fun s c => s.coreRecord 0 0 (codedPart (if c / 4096 = 8 then .ofNat 64 (15 * 2 ^ 56 + c % 4096) else regInfo c)) 0#64) s

/-! ### The urgent profile (R369, R370) -/

/-- A field that names a register outside the urgent set. -/
def Use.outside : Use → Bool
  | .s (.reg n) | .v (.reg n) | .s (.age n) | .v (.age n) | .ds (.reg n) | .dv (.reg n) => decide (8 ≤ n.val)
  | .p n | .k n | .dp n | .dk n | .tb n => decide (4 ≤ n.val)
  | .ds .queue | .dv .queue => false
  | .stream _ | .nest => true

/-- The slot class of an operation. -/
def slotClass (i : Instr) : SlotClass := match encode i with | some x => classOf x.2 | none => .none

/-- An operation that the urgent profile does not have. -/
def outsideUrgent (i : Instr) : Bool :=
  (uses i).any Use.outside || slotClass i == .m || slotClass i == .n ||
  match i with
  | .headerTransfer _ _ .cv _ _ | .headerTransfer _ _ .notCv _ _ | .cvadv | .vctw _ | .vdefer .. | .vdrain .. | .vldl .. | .vstl ..
  | .vldv .. | .vstv .. | .stbind .. | .launch .. | .shape .. | .pqpush .. | .sqrun .. | .sqcfg .. | .pqtake .. | .depth ..
  | .rbread .. | .bar | .ebar | .fork .. | .join | .taskend => true
  | _ => false

/-! ### Placement (R281, R412) -/

/-- Instructions that must be the only operation of their bundle. -/
def standsAlone : Instr → Bool
  | .bar | .ebar | .wfe | .join | .taskend | .exit | .idle | .eret => true
  | _ => false

/-- Whether a header is allowed over such an instruction: none, or a plain one without a transfer. -/
def plainHeader : Option Instr → Bool
  | none => true
  | some (.headerTransfer _ _ xc _ _) => xc == .never
  | some _ => false

end Sys2Proof.Machine
end

