-- ==== Sys2Proof/Machine/Issue.lean ====
section
/-! DEFINITION. The bundle: fetch, the checks of its operations, waits, traps and commit (02_programmers_model.md R26 to R28, R38, R39,
R430; 03_encoding.md R43, R48, R58, R59; 17_execution_model.md R281). -/

namespace Sys2Proof.Machine

/-! ### Fetch (R26, R35, R43) -/

/-- A word as the core fetches it: a word that a transfer brought, else instruction memory. -/
def Core.wordAt (c : Core) (w : Nat) : BWord := (cget none c.flow.prefetch w).getD (cget 0#128 c.imem w)

/-- The bundle at the program counter. -/
def Core.bundle (c : Core) : Except Reject Bundle :=
  let w := c.flow.pc.toNat
  decodeBundle (c.wordAt w) (c.wordAt ((w + 1) % 4096)) (w == 4095)

/-- The STALL count of the bundle at the program counter: its header's field, even of a header that is no instruction. -/
def Core.stallOf (c : Core) : Nat :=
  let h := slotOf (c.wordAt c.flow.pc.toNat) 0
  if h / 2 ^ 28 ≠ 15 then 0 else if h / 2 ^ 25 = 0x7C then bits h 20 4 else bits h 22 4

/-- Whether an instruction word under the bundle holds an uncorrectable error (R395, R399). -/
def State.badFetch (s : State) : Bool :=
  !s.bad.isEmpty &&
  (let c := s.core
   let w := c.flow.pc.toNat
   let h := slotOf (c.wordAt w) 0
   let two := decide (h / 2 ^ 28 = 15) && (if h / 2 ^ 25 = 0x7C then h.testBit 24 else h.testBit 26)
   s.bad.contains (.imem c.name w) || (two && s.bad.contains (.imem c.name ((w + 1) % 4096))))

/-! ### One operation (R28, R430) -/

/-- The operation at a slot position is in hand. -/
def State.atSlot (s : State) (p : Nat) : State := s.modFlow fun f => { f with slot := p, verdict := .issued }

/-- What an operation does at a position. -/
def State.attempt (s : State) (p : Nat) (i : Instr) : State :=
  match exec i (s.atSlot p) with
  | .next t => t
  | _ => s.atSlot p

/-- A trap that a check of the bundle raises at a position. -/
def faultAt (p code : Nat) (info : Word) : TrapReq := ⟨.ofNat 8 code, p, info, false, false⟩

/-- ILLOP and CHKSTALL of a position report the word and the position (R407). -/
def State.whereAt (s : State) (p more : Nat) : Word := .ofNat 64 (s.core.flow.pc.toNat + p * 4096 + more)

/-- A second C operation of a bundle. -/
def secondC (b : Bundle) (p : Nat) (i : Instr) : Bool :=
  slotClass i == .c && b.ops.any fun o => decide (o.1 < p) && slotClass o.2 == .c

/-- The checks that stand before an operation's own: its placement (R281), the urgent profile (R370), its operands (R399), the
scoreboard (R39). -/
def State.opFault (s : State) (b : Bundle) (p : Nat) (i : Instr) : Option TrapReq :=
  if standsAlone i && (b.ops.length != 1 || !plainHeader b.header) then some (faultAt p 1 (s.whereAt p 0))
  else if s.core.urg && (outsideUrgent i || secondC b p i) then some (faultAt p 1 (s.whereAt p 0))
  else match s.badOperand i with
    | some code => some (faultAt p 0xA (regInfo code))
    | none =>
      match (if s.core.ctl.chk then s.pendingRead i else none) with
      | some k => some (faultAt p 3 (s.whereAt p (keyField k * 2 ^ 16)))
      | none => none

/-! ### The bundle (R28, R430) -/

/-- What the operations of a bundle come to: the state in which they have all issued; the traps of checks without a wait, and of checks
after one; a trap that the bundle commits with; the first wait, with the state that it leaves. -/
structure Verdicts where
  state : State
  early : List TrapReq
  late  : List TrapReq
  last  : Option TrapReq
  wait  : Option (Wait × State)

/-- The state that a waiting operation leaves: what its own wait began, on the state at the bundle's read step. What it handed to the
Scruple, and the stores that its walk sees, show the earlier slots of its bundle, as in `t` (R340, R361). -/
def State.waitAlone (s t : State) (p : Nat) (i : Instr) (w : Wait) : State :=
  let a := s.attempt p i
  match a.core.flow.verdict with
  | .waits _ => { a with scrQ := t.scrQ }.modPort fun p => { p with walkOwn := t.core.port.walkOwn }
  | _ => (s.atSlot p).wait w

/-- CHKSTALL of an operation in `t` whose write would complete too early (R39). -/
def State.lateFault (s t : State) (p : Nat) : List TrapReq :=
  match (if s.core.ctl.chk then s.lateWrite t else none) with
  | some k => [faultAt p 3 (s.whereAt p (keyField k * 2 ^ 16))]
  | none => []

/-- One more operation. -/
def State.judgeOp (s : State) (b : Bundle) (j : Verdicts) (o : Nat × Instr) : Verdicts :=
  match s.opFault b o.1 o.2 with
  | some t => { j with early := j.early ++ [t] }
  | none =>
    let t := j.state.attempt o.1 o.2
    match t.core.flow.verdict with
    | .issued =>
      (match s.lateFault t o.1 with
       | [] => { j with state := t }
       | e => { j with early := j.early ++ e })
    | .waits w =>
      let c := (j.state.atSlot o.1).claim o.2
      { j with
        state := c
        early := j.early ++ s.lateFault c o.1
        wait := if j.wait.isSome then j.wait else some (w, s.waitAlone t o.1 o.2 w) }
    | .trapped q =>
      if q.next then { j with last := some q }
      else if q.afterWait then { j with late := j.late ++ [q] }
      else { j with early := j.early ++ [q] }

/-- Operations in the order in which they act: the header, removals from the deferral queue (R134), the rest, a TLBI, whose drop the accesses
of its own bundle precede (R9: the slots take effect together), and TRAP, SYSC, BKPT. -/
def bundleOrder (b : Bundle) : List (Nat × Instr) :=
  let drain := fun (o : Nat × Instr) => match o.2 with | .vdrain .. => true | _ => false
  let last := fun (o : Nat × Instr) => match o.2 with | .trap _ | .sysc _ | .bkpt => true | _ => false
  let tlbi := fun (o : Nat × Instr) => match o.2 with | .tlbiVa .. | .tlbiAsid _ | .tlbiAll => true | _ => false
  let head := match b.header with | some h => [(0, h)] | none => []
  head ++ b.ops.filter drain ++ b.ops.filter (fun o => !drain o && !tlbi o && !last o) ++ b.ops.filter tlbi ++ b.ops.filter last

/-- The bundle begins at its read step. -/
def State.begin (s : State) (two : Bool) : State :=
  let n := if two then 2 else 1
  s.modFlow fun f => { f with len := n, nextPc := f.pc + .ofNat 12 n, slot := 0, advance := false, verdict := .issued }

/-- A bundle that faults at position 0, or as `p` says, and does nothing else. -/
def State.onlyFault (s : State) (t : TrapReq) : Verdicts := ⟨s, [t], [], none, none⟩

/-- Judge the bundle of the core in focus. A bad landing comes first (R400), then the fetch (R399), then position 0 (R59). Of two faults that
count at position 0 the one that decoding finds is reported: ILLOP for BANKS = 0 or a class limit, before LOCKVIOL for a lock header inside a
span (DESIGN CHOICE, log entry 22: the manual gives these no order). -/
def State.judgeBundle (s : State) : Verdicts :=
  match s.core.port.mcheck with
  | some info => (s.begin false).onlyFault (faultAt 0 0xA info)
  | none =>
    if s.core.monitorWord s.core.flow.pc.toNat then (s.begin false).onlyFault (faultAt 0 5 (.ofNat 64 s.core.flow.pc.toNat))
    else if s.badFetch then (s.begin false).onlyFault (faultAt 0 0xA (.ofNat 64 (5 * 2 ^ 60 + 15 * 2 ^ 56 + s.core.flow.pc.toNat)))
    else match s.core.bundle with
      | .error _ => (s.begin false).onlyFault (faultAt 0 1 (s.whereAt 0 0))
      | .ok b =>
        let s := s.begin b.two
        let j := (bundleOrder b).foldl (s.judgeOp b) ⟨s, [], [], none, none⟩
        match b.bad with
        | none => j
        | some (p, _) => { j with early := j.early ++ [faultAt p 1 (s.whereAt p 0)] }

/-- The trap of the lowest position (R28). -/
def lowest (ts : List TrapReq) : Option TrapReq := firstBy (fun a b => decide (a.slot < b.slot)) ts

/-- Whether a bundle binds two operations to one engine instance (R58). -/
def State.splits (s : State) : Bool :=
  match s.core.bundle with
  | .error _ => false
  | .ok b =>
    let n := fun k => (b.ops.filter fun o => slotClass o.2 == k).length
    let m := s.core.ctl.slotmap
    (n .v == 2 && m.getLsbD 4 == m.getLsbD 5) || (n .c == 2 && m.getLsbD 6 == m.getLsbD 7)

/-- The registers that the bundle at the program counter reads, by code, and its instruction words, with kind 8. -/
def State.readCodes (s : State) : List Nat :=
  match s.core.bundle with
  | .error _ => []
  | .ok b =>
    let w := s.core.flow.pc.toNat
    let shape := fun (i : Instr) => match i with
      | .speup sh .. | .spedn sh .. => [regCode 7 sh.toNat]
      | _ => []
    regCode 8 w :: (if b.two then [regCode 8 ((w + 1) % 4096)] else []) ++
      (b.ops.map fun o => (uses o.2).filterMap Use.code ++ shape o.2).flatten

/-- What every commit does, a commit with TRAP, SYSC or BKPT among them: single wrong bits that it has read are counted (R395), the cursor
goes on (R40, R105), a split bundle owes its cycle (R58). -/
def State.closing (s : State) : State :=
  let s := if s.bad.isEmpty then s else s.countSoft (distinct s.readCodes)
  let split := s.splits
  let s := s.modFlow fun f => { f with cursor := if f.advance then f.cursor + 1#5 else f.cursor }
  if split then (match exec .splitCycle s with | .next t => t | _ => s) else s

/-- The fetched words that are left once a bundle is over. -/
def Flow.wordsLeft (f : Flow) : Cells (Option BWord) :=
  if f.nextPc = f.pc + .ofNat 12 f.len then f.prefetch.filter fun w => !(decide (f.pc.toNat ≤ w.1) && decide (w.1 < f.pc.toNat + f.len))
  else f.prefetch

/-- The bundle of the core in focus commits: the program counter goes on, its lock span shrinks (R48). -/
def State.commit (s : State) : State :=
  s.closing.modFlow fun f => { f with
    pc := f.nextPc
    prefetch := f.wordsLeft
    stall := if s.core.trapFrozen then some 0 else none
    hold := if f.lock.isSome then f.hold.map fun h => { h with issues := s.core.unf :: h.issues } else f.hold
    lock := match f.lock with
      | none => none
      | some l => if l.left ≤ 1 then none else some { l with left := l.left - 1 } }

/-- What a bundle does in its cycle. -/
inductive Turn where
  | commits
  | idles (t : State)
  | freezes (t : State)
  | traps

/-- The outcome of a judged bundle: checks without a wait, then waits, then checks after them (R430). -/
def Verdicts.turn (j : Verdicts) : Turn :=
  if !j.early.isEmpty then .traps
  else match j.wait with
    | some (.idle, t) | some (.drain, t) => .idles t
    | some (_, t) => .freezes t
    | none => if j.late.isEmpty && j.last.isNone then .commits else .traps

/-- The core in focus takes the trap of its bundle (R28, R406). -/
def State.takeJudged (s : State) : State :=
  let j := s.judgeBundle
  let t := match j.early, j.late with
    | [], [] => j.last.map fun t => (j.state.closing, t)
    | [], late => (lowest late).map fun t => (s.begin false, t)
    | early, _ => (lowest early).map fun t => (s.begin false, t)
  match t with
  | none => s
  | some (s, t) => (s.modCore fun c => { c with trapFrozen := false }).takeTrap t

end Sys2Proof.Machine
end

