-- ==== Sys2Proof/Machine/Cycle.lean ====
section
/-! DEFINITION. Which event comes next, and one cycle of a lockstep domain (R33, R38, R214, R278, R284, R292, R406, R430). An event of
fixed timing comes in its cycle; an event of nominal timing comes as soon as it can (DESIGN CHOICE, log entry 20); the domain whose clock is lowest
goes on. -/

namespace Sys2Proof.Machine

/-! ### Who goes on -/

/-- The core of the domain with the lowest clock, the lowest `CORE` first among equals (R379). -/
def State.nextCore (s : State) : Option Nat :=
  (firstBy (fun a b => decide (a.clock < b.clock) || (a.clock == b.clock && decide (a.id < b.id))) (s.cores.filter s.runnable)).map Core.name

/-- The cores that go on and have reached the package's cycle, by virtual core. -/
def State.present (s : State) : List Core :=
  let t := s.now
  sortBy (fun a b => decide (a.ctl.vcore.toNat < b.ctl.vcore.toNat)) (s.cores.filter fun c => s.runnable c && c.clock == t)

/-! ### Events of fixed timing (R33, R214) -/

/-- A landing whose cycle has come and whose data has not (R37). -/
def Core.lateLanding (c : Core) : Bool := c.port.landings.any fun l => decide (l.due ≤ c.unf) && !l.arrived

/-- Whether a late landing freezes the domain of a core: a core that drains waits for its own alone (R37, R406). -/
def State.lateFor (s : State) (c : Core) : Bool :=
  c.exc.entering.isNone && (s.pick (if c.apart then [c.name] else s.gangOf c)).any Core.lateLanding

/-- The write of a result. -/
def Result.write : Result → Instr
  | .latch _ _ => .scaleLatchWrite
  | _ => .resultWrite

/-- The result or landing that a core writes next in this cycle, in the order of R33, with the class of the result. -/
def Core.writeDue (c : Core) : Option (Nat × Instr) :=
  let p := c.port.nextPend.filter fun x => decide (x.due ≤ c.unf)
  let l := c.nextLanding.filter fun x => decide (x.due ≤ c.unf) && x.arrived
  match p, l with
  | none, none => none
  | some p, none => some (p.act.class, p.act.write)
  | none, some _ => some (2, .landing)
  | some p, some l =>
    let landing : Pending := ⟨l.due, l.issue, l.slot, .link 0#64⟩
    if landing.before p then some (2, .landing) else some (p.act.class, p.act.write)

/-- A write of some classes. -/
def State.writesOf (s : State) (ok : Nat → Bool) (c : Core) : Option Instr :=
  if s.lateFor c then none else (c.writeDue.filter fun w => ok w.1).map Prod.snd

/-- A target-buffer entry whose fill is over (R102). -/
def Core.tbDue (c : Core) : Option Instr :=
  ((List.range 8).map fun i => (Fin.ofNat 8 i : Small)).findSome? fun i =>
    let e := c.flow.tb.get i
    if e.st = .filling ∧ e.readyAt ≤ c.clock then some (.tbReady i) else none

/-- Target buffer, drift of `pts` and lock hold of a core. -/
def Core.clockDue (c : Core) : Option Instr :=
  match c.tbDue with
  | some i => some i
  | none => if c.port.drift ≤ c.clock then some .ptsDrift else if c.holdOver then some .lockHoldEnd else none

/-- Tasks of its own, notices and barriers of a core that are due (R284, R285, R292, R293). -/
def State.taskDue (s : State) (c : Core) : Option Instr :=
  let t := c.tasks
  if t.taken.isSome || (c.takes && !t.deque.isEmpty) then some .taskDispatch
  else if s.notices.any (fun n => n.core == c.name && decide (n.due ≤ c.unf)) then some .completionNotice
  else
    let live := (s.pick (s.gangOf c)).filter fun c => c.tasks.wait != .exited
    let due := fun (n : Core → Nat) => live.all fun c => match c.tasks.releaseAt with | some r => decide (r ≤ n c) | none => false
    if t.wait = .atBar ∧ barrierMet live .atBar ∧ due Core.unf then some .barRelease
    else if t.wait = .atEbar ∧ live.all (fun c => c.tasks.wait == .atEbar) ∧ due Core.clock then some .ebarRelease
    else none

/-- A probe that is over, unless another core has probed the same tail in this cycle, or the probed core is frozen (R294). -/
def State.probeDue (s : State) (c : Core) : Option Instr :=
  let ended := match c.tasks.probeAt with | some n => decide (n ≤ c.unf) | none => false
  if !ended then none
  else
    let t := { s with core := c, others := s.cores.filter fun x => x.name != c.name }
    if (t.probeTarget.map fun x => x.2.tasks.probed == some x.2.unf || x.2.probeFrozen).getD false then none else some .stealProbe

/-- The event that is due in this cycle: arrivals, then performs, then writes, then tasks and probes, then pushes, then events
(R33, R214, R287, R294). -/
def State.dueEvent (s : State) : Option (Nat × Instr) :=
  let cs := s.present
  let first := fun (f : Core → Option Instr) => cs.findSome? fun c => (f c).map fun i => (c.name, i)
  let chunk := fun (c : Core) =>
    if c.exc.entering.isNone && c.port.chunks.any fun x => decide (x.due ≤ c.unf) then some Instr.sendChunkLanding else none
  let sched := fun (c : Core) => if c.port.sched.any fun x => decide (x.due ≤ c.unf) then some Instr.scheduledAccessPerform else none
  let task := fun (c : Core) => if s.lateFor c then none else s.taskDue c
  let probe := fun (c : Core) => if s.lateFor c then none else s.probeDue c
  let event := fun (c : Core) =>
    if !s.lateFor c && c.exc.entering.isNone && c.port.events.any fun e => decide (e.1 ≤ c.unf) then some Instr.eventLanding else none
  if s.arrived.any fun x => decide (x.1 ≤ s.now) then some (s.core.name, .sendChunkLanding)
  else (first chunk).or ((first sched).or ((first (s.writesOf (· ≤ 2))).or ((first Core.clockDue).or
    ((first task).or ((first probe).or ((first (s.writesOf fun _ => true)).or (first event)))))))

/-! ### Events of nominal timing -/

/-- What the memory system and the engines of a core may do next, for the accesses of earlier bundles. -/
def Core.work (c : Core) : List Instr :=
  let p := c.port
  (match p.cohQ with
   | _ :: _ => [Instr.coherentAccessPerform, Instr.stRelPerform]
   | [] => []) ++
  (if p.region.isEmpty then [] else [Instr.draftPartWrite]) ++
  ((p.landings.filter fun l => l.val.isSome && !l.arrived).map fun l => Instr.landingDataArrival l.issue l.slot) ++
  (if p.walk.isSome then [Instr.pageWalkComplete] else []) ++
  (if p.comQ.isEmpty then [] else [Instr.comAtomicApply]) ++
  (if p.cacheOps.isEmpty then [] else [Instr.cacheOpComplete]) ++
  -- the engines, in the order of R216
  (if c.mtx.arrQ.isEmpty then [] else [Instr.arrayStep, Instr.mgoComplete, Instr.epilogueRun]) ++
  ([(p.cq0, 0), (p.cq1, 1)].map fun (x : List CopyJob × Fin 2) =>
    if x.1.isEmpty then [] else [Instr.engineBankAccess x.2, Instr.copyEngineRun x.2, Instr.cpysRecordUpdate x.2, Instr.smrgRecordUpdate x.2]).flatten ++
  (if p.nq.isEmpty then [] else [Instr.recvaddCombine, Instr.ttsetApply])

/-- A chunk of another package, or the report of a SEND that is over, waits at a core (R216, R265). -/
def State.commWaits (s : State) (c : Core) : Bool :=
  (s.held.any fun h => h.sender.isNone && h.dest == c.name) || c.port.nq.any fun j => match j.op with | .report .. => true | _ => false

/-- What the trap logic, the monitor, a pre-emption and late arrivals may do next for a core. -/
def State.control (s : State) (c : Core) : List Instr :=
  (if s.commWaits c then [Instr.sendChunkLanding] else []) ++
  (if c.exc.entering.isSome then [Instr.trapEntry, Instr.trapForward (s.willGrant c)] else []) ++
  (if c.trapFrozen then [Instr.trapResume] else []) ++
  (if c.fw && c.exc.shadow.isSome then [Instr.monitorTrapHandle] else []) ++
  (if c.exc.pend then [Instr.preemptionStop, Instr.urgentRelease, Instr.urgentComplete] else [])

/-- Time of a queue's conditions (R302 to R304): 50 µs to park, an interval of TOL µs, TMO ms, which a pre-emption pauses (R376). -/
def State.queueTime (s : State) (q : Queue) : List Instr :=
  let now := s.wallNow
  let us := usec 1
  let part := Fin.ofNat 4 q.part
  let late := ((q.st == .waiting || q.st == .parked) && q.wsig != 0#64 && s.waitOver q) ||
    (match s.outstanding q.part q.num with | l :: _ => s.launchOver q l | [] => false)
  (if late && q.st != .error then [Instr.queueTimeout part q.num] else []) ++
  (if q.st == .waiting && q.wsig != 0#64 && decide (q.since + 50 * us ≤ now) then [Instr.queuePark part q.num] else []) ++
  (if q.st == .ready && decide (q.level < 7) && decide (q.since + (q.raised + 1) * max q.tol 1 * us ≤ now)
    then [Instr.priorityRaise part q.num] else [])

/-- Packets that the front end may take (R300, R303, R415). -/
def Queue.packets (q : Queue) : List Instr :=
  let part := Fin.ofNat 4 q.part
  if q.res && (q.st == .ready || q.st == .running) && decide (q.rd < q.wr) then
    [Instr.launchPacket part q.num, Instr.waitPacket part q.num, Instr.signalPacket part q.num] ++
    (if q.num = controlQueue then [Instr.repairPacket part, Instr.qcreate part, Instr.scrblk part, Instr.rllimit part, Instr.peerset part] else [])
  else []

/-- What the front end may do next for a launch. -/
def Launch.work (l : Launch) : List Instr :=
  (l.insts.map fun i =>
    if i.st == .complete || i.st == .trimmed then []
    else if i.loaded then [Instr.instanceComplete l.slot i.idx, Instr.provisionalEvict l.slot i.idx]
    else [Instr.instancePlace l.slot i.idx, Instr.instanceLoad l.slot i.idx, Instr.provisionalEvict l.slot i.idx]).flatten ++ [Instr.launchComplete l.slot]

/-- What a tile-table entry may do next: with no peer outside the package its send phase ends by itself (R270). What is staged for a copy is
written as soon as it can be (R272). -/
def TileEntry.work (e : TileEntry) : List Instr :=
  (if !e.owed.isEmpty || (teOp e.image.toNat = 0 && !e.staged.isEmpty) then [Instr.tileFiringComplete e.die e.idx] else []) ++
  match e.firing with
  | none => []
  | some f =>
    let w := e.image.toNat
    let remote := (teOthers w).any fun p => peerRemote (tePeer w p)
    if !f.fired then [Instr.tileFiringStart e.die e.idx]
    else if !f.sent then (if remote then [] else [Instr.sendPhaseEnd e.die (.received e.idx)])
    else [Instr.tileFiringComplete e.die e.idx]

/-- Stores whose rebuild is under way (R397). -/
def State.rebuilds (s : State) : List RowStore :=
  (s.repairs.filter fun r => r.spare.isSome && decide (r.pointer < r.store.rows)).map RowRepair.store

/-- What the package's units may do next. -/
def State.units (s : State) : List Instr :=
  (if s.arrived.any fun x => decide (x.1 ≤ s.now) then [Instr.sendChunkLanding] else []) ++
  (if s.held.any fun h => !s.bankLocked h.key then [Instr.lockHoldEnd] else []) ++
  (if s.posts.isEmpty then [] else [Instr.noticePost]) ++
  (if s.scrQ.isEmpty then [] else [Instr.roundEntryProcess, Instr.sqcfgApply]) ++
  (s.tileTab.map TileEntry.work).flatten ++
  ((sortBy Queue.first s.queues).map fun q => s.queueTime q ++ q.packets).flatten ++
  (s.launches.map Launch.work).flatten ++
  -- while the core goes on, its cycles rebuild (`State.endPhysical`)
  (s.rebuilds.filter fun st => !s.cores.any fun c => c.id == st.src && s.runnable c).map Instr.rebuildRow

/-- Requests of saves and restores that are held (R381). -/
def State.heldRequests (s : State) : List (Nat × Instr) :=
  ((s.launches.map fun l => l.insts.filterMap fun i =>
    if i.save then i.cores.head?.map fun c => (c.2.2, Instr.fullStateSave) else none).flatten) ++
  (match s.saved with | v :: _ => (if v.wanted then [(s.core.name, Instr.fullStateRestore)] else []) | [] => [])

/-- Every event of nominal timing that may come next, with the core that it concerns. -/
def State.work (s : State) : List (Nat × Instr) :=
  (s.cores.map fun c => (c.work ++ s.control c).map fun i => (c.name, i)).flatten ++ s.heldRequests ++ s.units.map fun i => (s.core.name, i)

/-- An event that changes something. -/
def State.tryWork (s : State) (x : Nat × Instr) : Option State :=
  let f := s.focus x.1
  match exec x.2 f with
  | .next t =>
    if t = f then none
    else some (match x.2 with | .trapForward _ => t.tick | _ => t)
  | _ => none

/-- The first event of nominal timing that changes something. -/
def State.worked (s : State) : Option State := s.work.findSome? s.tryWork

/-! ### One cycle of a domain -/

/-- Change every core of some names. -/
def State.modEach (s : State) (ns : List Nat) (f : Core → Core) : State := ns.foldl (fun s n => s.modAt n f) s

/-- A physical cycle is over: one frozen cycle less is owed, and what the cycle lost is owed from the next on (R38, R215). -/
def Core.paid (c : Core) : Core := { c with clock := c.clock + 1, owed := max (c.owed - 1) c.lost, lost := 0 }

/-- At the end of a physical cycle a row whose banks nothing has taken is rebuilt, after every requester of R216 (R397). -/
def State.rebuildFree (s : State) (ns : List Nat) : State :=
  (s.rebuilds.filter fun st => ns.contains st.src).foldl (fun s st => match exec (.rebuildRow st) s with | .next t => t | _ => s) s

/-- Every core of a domain ends a physical cycle, and the banks that nothing has taken serve its engines (R216), then a rebuild. -/
def State.endPhysical (s : State) (ns : List Nat) (f : Core → Core) : State :=
  let s := ns.foldl State.serveEngines s
  (if s.repairs.isEmpty then s else s.rebuildFree ns).modEach ns f

/-- A frozen cycle (R38); it counts toward the shortfall of a landing that is due (R37). -/
def State.frozenCycle (s : State) (ns : List Nat) : State :=
  s.endPhysical ns fun c => { c.paid with port := { c.port with
    landings := c.port.landings.map fun l => if l.due ≤ c.unf then { l with need := l.need - 1 } else l } }

/-- What a wait stands behind (R226, R228, R231, R245, R264): scheduled accesses by their unfrozen cycle, chunks with the core that sends them,
and cores whose epilogue descriptors it needs. -/
structure Needs where
  sched  : List Nat
  chunks : List (Nat × Chunk)
  descs  : List Nat

def Needs.none : Needs := ⟨[], [], []⟩
def Needs.and (a b : Needs) : Needs := ⟨a.sched ++ b.sched, a.chunks ++ b.chunks, a.descs ++ b.descs⟩

/-- The scheduled accesses of some cores, but for the reads of their SENDs. -/
def schedNeeds (cs : List Core) : Needs :=
  ⟨(cs.map fun c => c.port.sched.filterMap fun a => match a.kind with | .send .. => none | _ => some a.due).flatten, [], []⟩

/-- What some SENDs of a core still have to do: their reads, and their chunks. -/
def Core.sendNeeds (c : Core) (ok : CommJob → Bool) : Needs :=
  let qs := (c.port.nq.filter ok).map fun j => j.seq
  ⟨c.port.sched.filterMap fun a => (match a.kind with | .send _ _ _ _ q => if qs.contains q then some a.due else none | _ => none),
   (c.port.chunks.filter fun h => match h.sender with | some (_, q) => qs.contains q | none => false).map fun h => (c.name, h), []⟩

/-- What SENDs of a gang still have to bring to a core. -/
def recvNeeds (cs : List Core) (dest : Nat) : Needs :=
  (cs.map fun c =>
    (⟨c.port.sched.filterMap fun a => (match a.kind with | .send _ _ (.here d _) _ _ => if d = dest then some a.due else none | _ => none),
      (c.port.chunks.filter fun h => h.dest == dest).map fun h => (c.name, h), []⟩ : Needs)).foldl Needs.and Needs.none

/-- Something in the array queue of a core is an epilogue. -/
def Core.hasEpi (c : Core) : Bool := c.mtx.arrQ.any fun j => match j with | .mepi _ => true | _ => false

/-- What the wait of the core in focus needs of what is still to be performed. -/
def State.waitNeeds (s : State) : Needs :=
  let c := s.core
  let gang := s.pick s.gang
  let array := fun (c : Core) => (schedNeeds (s.pick (s.gangOf c))).and ⟨[], [], [c.name]⟩
  let recvs := fun (c : Core) (ok : CommJob → Bool) =>
    if c.port.nq.any (fun j => ok j && match j.op with | .recvadd .. => true | _ => false) then recvNeeds gang c.name else Needs.none
  match c.flow.verdict with
  | .waits .fence | .waits .reply | .waits .readyList => schedNeeds [c]
  | .waits .engineQueue =>
    let full := decide (8 ≤ c.port.nq.length)
    let oldest := c.port.nq.find? fun j => match j.op with | .send .. | .sendRemote .. => true | _ => false
    (schedNeeds gang).and ((c.sendNeeds fun j => full && oldest == some j).and (recvs c fun _ => full))
  | .waits .arrayQueue => array c
  | .waits .arrayWork => (array c).and (((s.coreAt (c.id ^^^ 1)).map array).getD Needs.none)
  | .waits .tile => schedNeeds gang
  | .waits (.barrierObject key) =>
    (gang.map fun x =>
      let counts := (x.port.cq0 ++ x.port.cq1).any (fun j => j.obj == key) || x.port.nq.any fun j => j.obj == key
      (if counts then schedNeeds gang else Needs.none).and ((if x.hasEpi then array x else Needs.none).and
        ((x.sendNeeds fun j => j.obj == key).and (recvs x fun j => j.obj == key)))).foldl Needs.and (schedNeeds [c])
  | .waits .recv => recvNeeds gang c.name
  | _ => Needs.none

/-- Chunks of the domain that stand in front of some chunks, at the same bytes. -/
def State.chunksAhead (s : State) (cs : List (Nat × Chunk)) : List (Nat × Chunk) :=
  ((s.pick s.domain).map fun c => c.port.chunks.map fun h => (c.name, h)).flatten.filter fun x =>
    cs.any fun y => x == y || (decide (x.2.due < y.2.due) && x.2.key / 64 == y.2.key / 64)

/-- Scheduled accesses of the domain that stand in front of some chunks, at the same bytes. -/
def State.schedAhead (s : State) (cs : List (Nat × Chunk)) : List Nat :=
  ((s.pick s.domain).map fun c => c.port.sched.filterMap fun a =>
    if cs.any fun y => decide (a.due < y.2.due) && a.kind.ranges.any fun r => decide (r.1 < y.2.key + 64) && decide (y.2.key < r.1 + r.2)
    then some a.due else none).flatten

/-- What such a wait needs of the domain, in the order of its unfrozen cycles: scheduled accesses up to the last that it needs, chunks,
descriptors. Nothing else is performed in a frozen cycle ahead of its own (DEDUCED, log entry 28). -/
def State.pendingForWait (s : State) (n : Needs) : List (Nat × State) :=
  let last := (n.sched ++ s.schedAhead n.chunks).foldl max 0
  let chunk := firstBy (fun (a b : Nat × Chunk) => decide (a.2.due < b.2.due)) (s.chunksAhead n.chunks)
  let descs := ((s.pick n.descs).map fun c => c.port.landings.filterMap fun l => match l.dst, l.val with
    | .mepi, some v => some (c.name, l, v)
    | _, _ => none).flatten
  let desc := firstBy (fun (a b : Nat × Landing × Vec) => decide (a.2.1.due < b.2.1.due)) descs
  (match s.firstDue with | some d => if d ≤ last then [(d, s.performDue d)] else [] | none => []) ++
  (match chunk with
   | some (n, c) => [(c.due, s.on n fun s => ((s.modPort fun p => { p with chunks := p.chunks.erase c }).arriveChunk c).finishSend)]
   | none => []) ++
  (match desc with | some (n, l, v) => [(l.due, s.on n fun s => s.landNext l v)] | none => [])

/-- During the waits of some cores the first of these happens in each frozen cycle. -/
def State.serve (s : State) (ns : List Nat) : State :=
  let n := (ns.map fun n => (s.focus n).waitNeeds).foldl Needs.and Needs.none
  match firstBy (fun (a b : Nat × State) => decide (a.1 < b.1)) (s.pendingForWait n) with
  | some (_, t) => t
  | none => s

/-- What the cores of a domain come to in a cycle: the state with the bundles that issue, the cores that trap, the cores that freeze, and
those that freeze for what a bundle of this cycle has done. -/
structure Cycle where
  state  : State
  traps  : List (Nat × Option TrapReq)
  frozen : List Nat
  late   : List Nat

/-- The trap of a judged bundle; none stands for one that the bundle commits with. -/
def Verdicts.trap (j : Verdicts) : Option TrapReq := if j.early.isEmpty then lowest j.late else lowest j.early

/-- The turn of one core: it rests, counts down, or its bundle is judged. -/
def State.coreTurn (start : State) (a : Cycle) (n : Nat) : Cycle :=
  let s := a.state.focus n
  let f := s.core.flow
  let wait := f.stall.getD s.core.stallOf
  if s.core.tasks.wait = .exited ∨ f.issued then { a with state := s }
  else if s.core.port.mcheck.isNone ∧ 0 < f.skip then { a with state := s.modFlow fun f => { f with skip := f.skip - 1 } }
  else if s.core.port.mcheck.isNone ∧ 0 < wait then { a with state := s.modFlow fun f => { f with stall := some (wait - 1) } }
  else
    let j := s.judgeBundle
    match j.turn with
    | .commits => { a with state := j.state.commit }
    | .idles t => { a with state := t }
    | .traps => { a with traps := a.traps ++ [(n, j.trap)] }
    | .freezes t =>
      match (start.focus n).judgeBundle.turn with
      | .freezes _ => { a with frozen := a.frozen ++ [n] }
      | _ => { a with state := t, late := a.late ++ [n] }

/-- The record of an uncorrectable error that a bundle meets in a register or an instruction word (R399, R401); every other consumer keeps
its record where it meets the error. -/
def State.recordBad (s : State) (t : TrapReq) : State :=
  let origin := t.info.toNat / 2 ^ 60
  if t.code = 0xA#8 ∧ (origin = 4 ∨ origin = 5) then s.coreRecord 2 0xA (codedPart t.info) t.info else s

/-- A core takes its trap on the state in which the domain's bundles were due; a place that it has reserved is released (R325). -/
def State.takeTurnTrap (s : State) (x : Nat × Option TrapReq) : State :=
  let s := (s.focus x.1).dropWaiter x.1
  match x.2 with
  | none => s.takeJudged
  | some t => (((s.begin false).recordBad t).modCore fun c => { c with trapFrozen := false }).takeTrap t

/-- The end of an unfrozen cycle of a core: the counts go on, a core that has left its handler keeps its own. -/
def Core.endCycle (c : Core) : Core :=
  { c.paid with
    unf := if c.trapFrozen then c.unf else c.unf + 1
    flow := { c.flow with issued := false }
    tasks := if c.takes && c.tasks.deque.isEmpty && c.tasks.probeAt.isNone then { c.tasks with probeAt := some (c.unf + 24) } else c.tasks
    port := { c.port with tlb := c.port.tlb.take 32, taken := [] } }

/-- Loads with a delay of 0 are performed in the cycle of their issue (R432). -/
def State.performNow (s : State) : State := if (s.schedDue s.core.unf).isEmpty then s else s.performDue s.core.unf

/-- What the wait of a core's bundle begins. -/
def State.beginWait (s : State) (n : Nat) : State :=
  match (s.focus n).judgeBundle.turn with
  | .freezes t => if t.core.flow.verdict = .waits .provisional then t.markHeld else t
  | _ => s

/-- The cycle in which the domain's bundles are due. Where a core freezes for what a peer's bundle of this cycle has done, those that have had
their turn wait for it in the same unfrozen cycle (R38, R278; DEDUCED, log entry 41). -/
def State.issueCycle (s : State) (ns : List Nat) : State :=
  let a := ns.foldl s.coreTurn ⟨s, [], [], []⟩
  if !a.traps.isEmpty then a.traps.foldl State.takeTurnTrap s
  else if !a.frozen.isEmpty then ((a.frozen.foldl State.beginWait s).serve a.frozen).frozenCycle ns
  else if !a.late.isEmpty then
    ((a.state.focus s.core.name).performNow.modEach (ns.filter fun n => !a.late.contains n) fun c =>
      { c with flow := { c.flow with issued := true } }).frozenCycle ns
  else
    let t := a.state.focus s.core.name
    t.armBarriers.performNow.endPhysical ns Core.endCycle

/-- A drain cycle of a trapping core: its own pipelines, landing counts and perform offsets go on, while the count of its gang stands
(R35, R406). Cycles that its accesses lost are drain cycles too. -/
def Core.drainCycle (c : Core) : Core :=
  { c.paid with unf := c.unf + 1, exc := { c.exc with drains := c.exc.drains + 1 }, port := { c.port with taken := [] } }

/-- One cycle of the domain in focus. -/
def State.cycle (s : State) : State :=
  let ns := s.domain
  let cs := s.pick ns
  if s.core.exc.entering.isSome then s.endPhysical [s.core.name] Core.drainCycle
  else if cs.any fun c => decide (0 < c.owed) then s.frozenCycle ns
  else if cs.any fun c => c.resumeAt.isSome then
    s.modEach ns fun c => { c with clock := max c.clock (c.resumeAt.getD 0), resumeAt := none }
  else if cs.any Core.lateLanding then s.frozenCycle ns
  else s.issueCycle ns

/-! ### Time (R301, R398) -/

/-- Queues and launches whose waits the front end tries again every 10 µs: signals, shapes, what waits in a control queue, and queues that
are Idle (R301, R302). -/
def State.rereads (s : State) : List (Nat × Instr) :=
  let n := s.core.name
  let qs := s.queues.filter fun q => q.wsig != 0#64 || q.st == .idle
  let cs := s.queues.filter fun q => q.num == controlQueue && q.st == .waiting && q.wsig == 0#64
  let ls := s.launches.filter fun l => l.src == 2 && l.shape.isNone
  qs.map (fun q => (n, Instr.signalReread (Fin.ofNat 4 q.part) q.num)) ++ cs.map (fun q => (n, Instr.repairPacket (Fin.ofNat 4 q.part))) ++
    ls.map fun l => (n, Instr.shapeSignalRead l.slot)

/-- A re-read or a scrub pass is due. -/
def State.timersDue (s : State) : Bool := decide (s.boot.reread ≤ s.wallNow) || decide (s.boot.scrub ≤ s.now)

/-- The rows in which a scrub pass finds something: those of wrong bits and of units that hold an uncorrectable error (R398). -/
def State.rowsInError (s : State) : List (RowStore × Nat) :=
  ((s.flips.map Prod.fst ++ s.bad.filterMap fun u => match u with | .bytes k _ => some k | _ => none).filterMap fun k =>
    (rowPlace k).map fun p => (p.1, p.2.1)).foldl (fun l x => if l.contains x then l else l ++ [x]) []

/-- Every 10 µs the front end reads what it waits on again (R301), whether or not any domain is frozen; every 2^26 cycles a scrub pass
runs (R398). -/
def State.timers (s : State) : State :=
  let n := s.core.name
  let a := if s.boot.reread ≤ s.wallNow then s.rereads else []
  let b := if s.boot.scrub ≤ s.now then (s.rowsInError.map fun x => (n, Instr.scrubRow x.1 x.2)) ++ [(n, Instr.scrubPassEnd)] else []
  { s with
    agenda := s.agenda ++ a ++ b
    boot := { s.boot with
      reread := if s.boot.reread ≤ s.wallNow then (s.wallNow / usec 10 + 1) * usec 10 else s.boot.reread
      scrub := if s.boot.scrub ≤ s.now then (s.now / 2 ^ 26 + 1) * 2 ^ 26 else s.boot.scrub } }

/-! ### One step -/

/-- Transport timeouts, which end a wait when nothing else is left (R276). -/
def State.lastResort (s : State) : List (Nat × Instr) :=
  (s.cores.filter fun c => c.port.nq.any fun j => match j.op with | .sendRemote .. => true | _ => false).map
    (fun c => (c.name, Instr.transportTimeout (.send c.name))) ++
  (s.tileTab.map fun e => ((teOthers e.image.toNat).filter fun p => peerRemote (tePeer e.image.toNat p)).map fun p =>
    (s.core.name, Instr.transportTimeout (.tile e.die e.idx p))).flatten

/-- What engines keep of the issue of every operation that is queued. -/
def State.jobs (s : State) : List Issued :=
  (s.cores.map fun c =>
    (c.port.cq0 ++ c.port.cq1).map CopyJob.toIssued ++ c.port.nq.map CommJob.toIssued ++
    c.mtx.arrQ.map fun j => match j with | .mgo n => n.toIssued | .mepi e => e.toIssued).flatten ++
  s.scrQ.map (fun j => match j with | .round _ _ _ _ j _ _ _ => j | .config _ _ _ _ j _ => j) ++ s.tileTab.map TileEntry.job

/-- The times at which a held save or restore may go on (R381). -/
def State.restoreTimes (s : State) : List Nat :=
  (s.launches.map fun l => l.insts.filterMap fun i => i.restored.map fun t => t + msec 1).flatten

/-- The cycles to come in which the front end does something by its clock (R301 to R304, R313), a clock change may act, an engine may use a
scheduled window (R226), a matrix step ends (R151), or a chunk has its bank cycle (R214). -/
def State.deadlines (s : State) : List Nat :=
  let queue := fun (q : Queue) =>
    let signal := q.wsig != 0#64
    let runs := (s.pausedSince q.part q.num).isNone
    (if signal && q.st == .waiting then [q.since + usec 50] else []) ++
    (if runs && signal && (q.st == .waiting || q.st == .parked) then [q.since + q.paused + msec q.tmo] else []) ++
    (match s.outstanding q.part q.num with
     | l :: _ => (if !runs || q.st == .error then [] else [l.since + l.paused + msec q.tmo])
     | [] => []) ++
    (if q.st == .ready && decide (q.level < 7) then [q.since + usec ((q.raised + 1) * max q.tol 1)] else [])
  let steps := s.cores.map fun c => c.mtx.arrQ.filterMap fun j => match j with | .mgo n => n.due | .mepi _ => none
  ((((s.queues.map queue).flatten ++ s.restoreTimes ++ (if s.rereads.isEmpty then [] else [s.boot.reread])).map s.cycleOf) ++
    steps.flatten ++ s.jobs.map (fun j => j.since + 1 + Win.shared.offset) ++ s.arrived.map Prod.fst).filter fun d => decide (s.now < d)

/-- No core goes on: time passes up to a cycle. -/
def State.passTo (s : State) (d : Nat) : State := s.modAll fun c => { c with clock := max c.clock d }

/-- What comes next of itself: an event of fixed timing, one of nominal timing, else a cycle; when no core goes on, time passes up to what
is waited for. -/
def State.goes (s : State) : Out :=
  match s.nextCore with
  | some n =>
    let s := s.focus n
    (match s.dueEvent with
     | some (n, i) => exec i (s.focus n)
     | none =>
       match s.worked with
       | some t => .next t
       | none => .next s.cycle)
  | none =>
    match s.worked with
    | some t => .next t
    | none =>
      match s.lastResort.findSome? s.tryWork with
      | some t => .next t
      | none =>
        match firstBy (fun a b => decide (a < b)) s.deadlines with
        | some d => .next (s.passTo d)
        | none => .fault .nothingToDo

/-- The step of a package that runs: an event from outside, the boot, an event on the package's own list, a re-read or a scrub pass, the next step of a flash
update (R386), a change of the clock that waited for its cycle (R23), else what comes next of itself. -/
def State.running (s : State) : Out :=
  match s.inbox with
  | (n, i) :: r => exec i (State.focus { s with inbox := r } n)
  | [] =>
    if s.boot.pending then exec .boot s
    else match s.agenda with
      | (n, i) :: r => exec i (State.focus { s with agenda := r } n)
      | [] =>
        if s.timersDue then .next s.timers
        else match s.boot.update with
        | some u => .next (s.flashStep u)
        | none => match s.boot.wants with
          | some g => if s.betweenBundles then .next (s.setClock g) else s.goes
          | none => s.goes

/-- The step of a package without power, or with its clocks stopped: only a boot or a reset acts (R24, R387). -/
def State.dark (s : State) (why : Fault) : Out :=
  match s.inbox with
  | (_, .boot) :: r => exec .boot { s with inbox := r }
  | (_, .packageReset) :: r => if s.boot.power then exec .packageReset { s with inbox := r } else .next { s with inbox := r }
  | _ :: r => .next { s with inbox := r }
  | [] => .fault why

/-- One step of the package. -/
def State.advanceStep (s : State) : Out :=
  if !s.boot.power then s.dark .poweredOff
  else if s.boot.thermal then s.dark .clocksStopped
  else s.running

end Sys2Proof.Machine
end

