-- ==== Sys2Proof/Machine/Step.lean ====
section
/-! DEFINITION. The step of the package, and how an instruction is placed where the next step fetches it. -/

namespace Sys2Proof.Machine

/-- One step (Cycle.lean): an event, or a cycle of one lockstep domain. -/
def step (s : State) : Host.Outcome State Fault Refusal := s.advanceStep

/-- The state with an instruction stored where the next step fetches: slot 0 of the word at the program counter of the core in focus, the
other slots of that word zero. What would come before that fetch is cleared: events that wait, a STALL count, fetched words (DESIGN CHOICE,
log entry 5). -/
def State.withFetchWord (s : State) (_nbits w : Nat) : State :=
  { s with
    inbox := [], agenda := [], boot := { s.boot with
      pending := false, power := true, thermal := false, wants := none, update := none
      reread := max s.boot.reread (s.wallNow + 1), scrub := max s.boot.scrub (s.now + 1) }
    core := { s.core with
      imem := cput 0#128 s.core.imem s.core.flow.pc.toNat (.ofNat 128 (w % 2 ^ 32))
      owed := 0, lost := 0, trapFrozen := false, stopped := false, resumeAt := none
      exc := { s.core.exc with entering := none, drains := 0 }
      tasks := { s.core.tasks with wait := .running }
      port := { s.core.port with mcheck := none }
      flow := { s.core.flow with stall := some 0, skip := 0, issued := false, prefetch := [] } } }

end Sys2Proof.Machine
end

