-- ==== Sys2Proof/Machine/Loader.lean ====
section
/-! DEFINITION. The tool chain's part of a load (04_assembly_loader.md R61 to R71; 26_errors_traps.md R405): how bundles, presets, data and
launch records are encoded, relocated, allocated and checked. It starts from parsed directives, and `State.loadImage` adds the images that
INSTANCE_LOAD places and loads. -/

namespace Sys2Proof.Machine

/-- The codes of R71; `assembly` stands for a source that the assembler rejects, whose object is not written (R63). -/
inductive LoadError where
  | assembly
  | relocovf (sect : String) (offset : Nat) (sym : String)
  | undef (sym : String)
  | imemovf
  | memovf
  | nofit
  | dupdef (sym : String)
  | imemovl
  deriving DecidableEq, Repr

/-- The values of symbols. -/
abbrev Symbols := List (String × Int)

/-- A symbol's value (R71 UNDEF). -/
def Symbols.get (t : Symbols) (n : String) : Except LoadError Int :=
  match t.find? fun x => x.1 == n with
  | some x => .ok x.2
  | none => .error (.undef n)

/-! ### Source lines (R61 to R63) -/

/-- The header part of a line (R61): `stall=` with `xfer=`, or `stall=` with `lock=` (banks, following bundles). -/
inductive Head where
  | plain (stall : Nat) (xfer : Option (Xc × Small))
  | lock (stall banks n : Nat)
  deriving DecidableEq, Repr

/-- Relocation kinds that name a symbol (R66). -/
inductive RelKind where
  | abs64 | abs32 | imm20 | imm15 | pcrel20 | win20
  deriving DecidableEq, Repr

/-- A relocation: its kind, a symbol, an addend. -/
structure Reloc where
  kind   : RelKind
  sym    : String
  addend : Int
  deriving DecidableEq, Repr

/-- An immediate as written: a number, a task's name (R290), a relocation of a symbol, or the vcore relocation of a grid place (R66). -/
inductive ImmSrc where
  | num (n : Int)
  | task (n : String)
  | rel (r : Reloc)
  | vcore (x y : Nat)
  deriving DecidableEq, Repr

/-- An operation as written: its immediate, its offset in bytes and its landing delay in cycles, where the source gives them; the operation
holds the rest. -/
structure SrcOp where
  op    : Instr
  imm   : Option ImmSrc
  off   : Option Int
  delay : Option Nat
  deriving DecidableEq, Repr

/-- A source line: its header part and its operations. -/
structure SrcLine where
  head : Option Head
  ops  : List SrcOp
  deriving DecidableEq, Repr

/-- The landing delay of an operand in cycles (R63): the smallest e with delay = LAT × 4^e. -/
def asmDelay (d : Nat) : Option Delay :=
  ((List.range 4).find? fun e => decide (d % 4 ^ e = 0) && decide (d / 4 ^ e ≤ 63)).map fun e => ⟨.ofNat 6 (d / 4 ^ e), .ofNat 2 e⟩

/-- A byte offset as a field counts it (R63). -/
def asmOff (off : Int) (scale : Nat) : Option Int := if off % scale = 0 then some (off / scale) else none

/-- The least and the greatest value of a signed field. -/
def signedRange (n : Nat) : Int × Int := (-2 ^ (n - 1), 2 ^ (n - 1) - 1)

/-- The immediate of an operation: the range of its widened form (R46, R63), and the operation with a value in it. -/
def immField : Instr → Option ((Int × Int) × (Int → Instr))
  | .li d _ => some (signedRange 22, fun v => .li d (.ofInt 22 v))
  | .lih d _ => some ((0, 2 ^ 22 - 1), fun v => .lih d (.ofInt 22 v))
  | .ptb t k _ => some (signedRange 22, fun v => .ptb t k (.ofInt 22 v))
  | .addImm d a _ => some (signedRange 17, fun v => .addImm d a (.ofInt 17 v))
  | .andImm d a _ => some (signedRange 17, fun v => .andImm d a (.ofInt 17 v))
  | .orImm d a _ => some (signedRange 17, fun v => .orImm d a (.ofInt 17 v))
  | .xorImm d a _ => some (signedRange 17, fun v => .xorImm d a (.ofInt 17 v))
  | .mulImm d a _ => some (signedRange 17, fun v => .mulImm d a (.ofInt 17 v))
  | .cmpImm p c a _ => some (signedRange 15, fun v => .cmpImm p c a (.ofInt 15 v))
  | .shlImm d a _ => some ((0, 63), fun v => .shlImm d a (.ofInt 6 v))
  | .shrImm d a _ => some ((0, 63), fun v => .shrImm d a (.ofInt 6 v))
  | .sraImm d a _ => some ((0, 63), fun v => .sraImm d a (.ofInt 6 v))
  | .rolImm d a _ => some ((0, 63), fun v => .rolImm d a (.ofInt 6 v))
  | .fork _ a b => some ((0, 2 ^ 17 - 1), fun v => .fork (.ofInt 17 v) a b)
  | .trap _ => some ((0, 2 ^ 17 - 1), fun v => .trap (.ofInt 17 v))
  | _ => none

/-- The offset of a memory operand: its scale, the range of the field, widened where it can be, and the operation with a value in it (R63). -/
def offField : Instr → Option (Nat × (Int × Int) × (Int → Instr))
  | .ld d a sz sx _ dl => some (2 ^ sz.toNat, signedRange 6, fun v => .ld d a sz sx (.ofInt 6 v) dl)
  | .ldAcq d a sz sx _ dl => some (2 ^ sz.toNat, signedRange 6, fun v => .ldAcq d a sz sx (.ofInt 6 v) dl)
  | .st b a sz _ => some (2 ^ sz.toNat, signedRange 15, fun v => .st b a sz (.ofInt 15 v))
  | .stRel b a sz _ => some (2 ^ sz.toNat, signedRange 15, fun v => .stRel b a sz (.ofInt 15 v))
  | .vld d a _ k dl => some (128, signedRange 6, fun v => .vld d a (.ofInt 6 v) k dl)
  | .vldl d a _ k dl => some (4, signedRange 6, fun v => .vldl d a (.ofInt 6 v) k dl)
  | .vst b a _ k => some (128, signedRange 14, fun v => .vst b a (.ofInt 14 v) k)
  | .vstl b a _ k => some (4, signedRange 14, fun v => .vstl b a (.ofInt 14 v) k)
  | _ => none

/-- The operation with a landing delay in it. -/
def delayField : Instr → Option (Delay → Instr)
  | .ld d a sz sx off _ => some fun dl => .ld d a sz sx off dl
  | .ldAcq d a sz sx off _ => some fun dl => .ldAcq d a sz sx off dl
  | .amoAdd a b t u _ => some fun dl => .amoAdd a b t u dl
  | .amoAnd a b t u _ => some fun dl => .amoAnd a b t u dl
  | .amoOr a b t u _ => some fun dl => .amoOr a b t u dl
  | .amoXor a b t u _ => some fun dl => .amoXor a b t u dl
  | .amoSwap a b t u _ => some fun dl => .amoSwap a b t u dl
  | .amoMin a b t u _ => some fun dl => .amoMin a b t u dl
  | .amoMax a b t u _ => some fun dl => .amoMax a b t u dl
  | .cas a b c w u _ => some fun dl => .cas a b c w u dl
  | .pqtake d _ => some fun dl => .pqtake d dl
  | .depth d a _ => some fun dl => .depth d a dl
  | .rbread d _ => some fun dl => .rbread d dl
  | .vld d a off k _ => some fun dl => .vld d a off k dl
  | .vlds d a b k _ => some fun dl => .vlds d a b k dl
  | .vgath d a vi w k _ => some fun dl => .vgath d a vi w k dl
  | .vldl d a off k _ => some fun dl => .vldl d a off k dl
  | .vldv d a b k _ => some fun dl => .vldv d a b k dl
  | _ => none

/-- Put a value into the immediate of an operation; one that does not fit is an assembly error (R63). -/
def withImm (v : Int) (i : Instr) : Option Instr := (immField i).bind fun f => if f.1.1 ≤ v ∧ v ≤ f.1.2 then some (f.2 v) else none

/-- Put a byte offset into a memory operand (R63). -/
def withOff (off : Int) (i : Instr) : Option Instr :=
  (offField i).bind fun f => (asmOff off f.1).bind fun v => if f.2.1.1 ≤ v ∧ v ≤ f.2.1.2 then some (f.2.2 v) else none

/-- Put a landing delay into an operation (R63). -/
def withDelay (d : Nat) (i : Instr) : Option Instr := (delayField i).bind fun f => (asmDelay d).map f

/-- The operation with its offset and its delay, before its immediate. -/
def SrcOp.base (o : SrcOp) : Option Instr :=
  ((o.off.map fun x => withOff x o.op).getD (some o.op)).bind fun i => (o.delay.map fun d => withDelay d i).getD (some i)

/-- The conditions of `xfer=` (R61). -/
def xferOk (x : Option (Xc × Small)) : Bool := (x.map fun y => y.1 != .never).getD true

/-- The header of a line that has one, given its word count and the extension bits (R44, R47, R61). -/
def asmHeader (two : Bool) (ext : Nat) : Option Head → Option Instr
  | none => some (.headerTransfer two 0#4 .never 0 (.ofNat 14 ext))
  | some (.plain st x) =>
    if 15 < st || !xferOk x then none
    else some (.headerTransfer two (.ofNat 4 st) (x.getD (.never, 0)).1 (x.getD (.never, 0)).2 (.ofNat 14 ext))
  | some (.lock st banks n) =>
    if 15 < st ∨ banks = 0 ∨ 65535 < banks ∨ n = 0 ∨ 8 < n ∨ ext ≠ 0 then none
    else some (.lockHeader two (.ofNat 4 st) (.ofNat 3 (n - 1)) (.ofNat 16 banks))

/-- Slots as one number, the first lowest. -/
def packSlots (k : Nat) (l : List Nat) : Nat := l.zipIdx.foldl (fun x p => x + p.1 * 2 ^ (k * p.2)) 0

/-- The words of a line (R62): headerless where it can be, else one word for up to three operations and two for up to seven. None is an
assembly error: a malformed operation or header (R59), or more operations than R27 and R62 admit. -/
def asmLine (head : Option Head) (forced : Bool) (ops : List Instr) : Option (List BWord) :=
  match ops.mapM encode with
  | none => none
  | some es =>
    let ws := es.map Prod.snd
    if 7 < ws.length || !classesFit ws || ops.any fun i => !i.wf then none
    else if head.isNone && !forced && decide (ws.length ≤ 4) && es.all (fun e => e.1 == 0) then some [.ofNat 128 (packSlots 32 ws)]
    else
      let two := decide (3 < ws.length)
      match asmHeader two (packSlots 2 (es.map Prod.fst)) head with
      | none => none
      | some h =>
        if !h.wf then none
        else (encodeHeader h).map fun w =>
          let x := packSlots 32 (w :: ws)
          if two then [.ofNat 128 x, .ofNat 128 (x / 2 ^ 128)] else [.ofNat 128 x]

/-- An immediate whose relocation makes its bundle headed (R62). -/
def ImmSrc.heads : ImmSrc → Bool
  | .num _ | .task _ => false
  | .rel r => r.kind != .abs64 && r.kind != .abs32
  | .vcore _ _ => true

/-- A relocation in an operation makes its bundle headed. -/
def SrcOp.heads (o : SrcOp) : Bool := (o.imm.map ImmSrc.heads).getD false

/-- The operation with a number as its immediate; zero stands for what is not known before the load. -/
def SrcOp.plain (o : SrcOp) : Option Instr :=
  o.base.bind fun i => match o.imm with
    | none => some i
    | some (.num n) => withImm n i
    | some _ => withImm 0 i

/-- Whether a line has a header: known before any symbol is (R62). -/
def SrcLine.headed (l : SrcLine) : Bool :=
  l.head.isSome || decide (4 < l.ops.length) || l.ops.any fun o => o.heads || ((o.plain.bind encode).map fun e => e.1 != 0).getD false

/-- Words of a line. -/
def SrcLine.len (l : SrcLine) : Nat := if l.headed && decide (3 < l.ops.length) then 2 else 1

/-! ### Relocation (R66, R67) -/

/-- The operations whose field a relocation kind fills (R66). -/
def RelKind.fits : RelKind → Instr → Bool
  | .imm20, .li .. | .imm20, .lih .. | .win20, .li .. | .win20, .lih .. | .pcrel20, .ptb .. => true
  | .imm15, .addImm .. | .imm15, .andImm .. | .imm15, .orImm .. | .imm15, .xorImm .. | .imm15, .mulImm .. | .imm15, .shlImm ..
  | .imm15, .shrImm .. | .imm15, .sraImm .. | .imm15, .rolImm .. | .imm15, .trap .. => true
  | _, _ => false

/-- Whether an immediate may stand in an operation: a task's name in FORK, a relocation in the field of its kind. -/
def ImmSrc.fits (i : Instr) : ImmSrc → Bool
  | .num _ => true
  | .task _ => match i with | .fork .. => true | _ => false
  | .rel r => r.kind.fits i
  | .vcore _ _ => RelKind.imm15.fits i

/-- The value of a relocation as TRAP's natural field holds it, its 17 bits; every other field takes the value itself (DESIGN CHOICE, log entry
133: R66 admits a negative value for the format and gives no other coding). -/
def natField (i : Instr) (v : Int) : Int := match i with | .trap _ => v % 2 ^ 17 | _ => v

/-- LIH has a natural immediate. -/
def isLih : Instr → Bool
  | .lih .. => true
  | _ => false

/-- The byte offset of an address within its window. -/
def inWindow (v : Int) : Int :=
  (([Win.lane, .spad, .shared, .chip].find? fun w => decide ((w.base : Int) ≤ v)).map fun w => v - w.base).getD v

/-- A value in a range. -/
def within (lo hi x : Int) : Option Int := if lo ≤ x ∧ x ≤ hi then some x else none

/-- The value that a relocation writes, if it is in range (R66): at the bundle whose first word is `here`. -/
def relocValue (i : Instr) (here : Nat) (k : RelKind) (v : Int) : Option Int :=
  match k with
  | .abs64 => some v
  | .abs32 => within 0 (2 ^ 32 - 1) v
  | .imm20 => if isLih i then within 0 (2 ^ 22 - 1) v else within (-2 ^ 21) (2 ^ 21 - 1) v
  | .imm15 => within (-2 ^ 16) (2 ^ 16 - 1) v
  | .pcrel20 => (within 0 4095 v).bind fun x => within (-2 ^ 21) (2 ^ 21 - 1) (x - here)
  | .win20 => within 0 (if isLih i then 2 ^ 22 - 1 else 2 ^ 21 - 1) (inWindow v)

/-- Where text is built: the symbols, the gang's grid, its task names in order, the section's name, the bundle's first word and its byte
offset in the section. -/
structure TextAt where
  syms  : Symbols
  cols  : Nat
  rows  : Nat
  tasks : List String
  sect  : String
  word  : Nat
  off   : Nat
  deriving DecidableEq, Repr

/-- The value of an immediate (R66, R67, R290), with the name that a RELOCOVF reports; the field lies at `at_` bytes of the section. An
addend counts for every kind, and for win20 before the window is found (DESIGN CHOICE, log entry 133: the table of R66 names one for abs64
and abs32 only). -/
def TextAt.value (x : TextAt) (at_ : Nat) (i : Instr) : ImmSrc → Except LoadError Int
  | .num n => .ok n
  | .task n => if x.tasks.contains n then .ok (x.tasks.idxOf n : Nat) else .error (.undef n)
  | .vcore cx cy =>
    match within 0 (x.cols * x.rows - 1) (cy * x.cols + cx) with
    | some v => .ok v
    | none => .error (.relocovf x.sect at_ "vcore")
  | .rel r =>
    match x.syms.get r.sym with
    | .error e => .error e
    | .ok v => match relocValue i x.word r.kind (v + r.addend) with
      | some y => .ok (natField i y)
      | none => .error (.relocovf x.sect at_ r.sym)

/-- Relocate one operation, whose slot lies at a byte offset of its section (R66, R67). -/
def relocOp (x : TextAt) (at_ : Nat) (o : SrcOp) : Except LoadError Instr :=
  match o.base, o.imm with
  | none, _ => .error .assembly
  | some i, none => .ok i
  | some i, some m =>
    if !m.fits i then .error .assembly
    else match x.value at_ i m with
      | .error e => .error e
      | .ok v => match withImm v i with | some j => .ok j | none => .error .assembly

/-- The words of a line. -/
def SrcLine.build (l : SrcLine) (x : TextAt) : Except LoadError (List BWord) :=
  match l.ops.zipIdx.mapM fun o => relocOp x (x.off + 4 * (o.2 + 1)) o.1 with
  | .error e => .error e
  | .ok ops => match asmLine l.head (l.ops.any SrcOp.heads) ops with
    | some ws => .ok ws
    | none => .error .assembly

/-- The assembler accepts a line (R59, R63), in the urgent profile or not (R64, R369, R370): it needs no symbol for that. The PRIV row of R59
depends on the level at which the text will run, which no source states: the model's assembler emits such operations, for handler and
program objects alike, and the core answers them (DESIGN CHOICE, log entry 142). -/
def SrcLine.sound (l : SrcLine) (urgent : Bool) : Bool :=
  match l.ops.mapM SrcOp.plain with
  | none => false
  | some ops =>
    (asmLine l.head (l.ops.any SrcOp.heads) ops).isSome && l.ops.all (fun o => (o.imm.map (ImmSrc.fits o.op)).getD true) &&
    (!urgent || (
      ops.all (fun i => !outsideUrgent i && !(match i with | .ctlr _ n | .ctlw n _ => urgentCtl n.toNat | .ctlwArrmode _ | .ctlwCvcur _ => true | _ => false)) &&
      decide ((ops.filter fun i => slotClass i == .c).length ≤ 1) &&
      (match asmHeader false 0 l.head with | some h => !outsideUrgent h | none => false)))

/-! ### Text (R64, R70, R290, R405) -/

/-- What stands in a text section: a label, a line, `.align`, `.imem`. -/
inductive TextItem where
  | label (n : String)
  | line (l : SrcLine)
  | align (n : Nat)
  | imem (word : Nat)
  deriving DecidableEq, Repr

/-- A line of NOPs, as `.align` pads. -/
def padLine : SrcLine := ⟨none, []⟩

/-- A laid-out item: its word, its section, and the item, which is a label or a line. -/
abbrev Placed := Nat × String × TextItem

/-- Words that a placed item takes. -/
def Placed.len (p : Placed) : Nat := match p.2.2 with | .line l => l.len | _ => 0

/-- The labels and lines of a piece of text with their words, from a word (R64, R70). -/
def layoutText : Nat → List (String × TextItem) → List Placed
  | _, [] => []
  | w, (s, .line l) :: r => (w, s, .line l) :: layoutText (w + l.len) r
  | w, (s, .label n) :: r => (w, s, .label n) :: layoutText w r
  | w, (s, .align n) :: r =>
    let pad := (n - w % n) % n
    ((List.range pad).map fun i => (w + i, s, .line padLine)) ++ layoutText (w + pad) r
  | _, (_, .imem k) :: r => layoutText k r

/-- The first word above some items, or where they would begin. -/
def textEnd (start : Nat) (ls : List Placed) : Nat := ls.foldl (fun m x => max m (x.1 + x.len)) start

/-- The words that items take. -/
def textWords (ls : List Placed) : List Nat := (ls.map fun x => (List.range x.len).map fun i => x.1 + i).flatten

/-- The word of the first bundle (R279). -/
def textEntry (ls : List Placed) : BitVec 12 := .ofNat 12 (((ls.find? fun x => x.len != 0).map Prod.fst).getD 0)

/-- The labels of some items. -/
def textLabels (ls : List Placed) : Symbols := ls.filterMap fun x => match x.2.2 with | .label n => some (n, (x.1 : Int)) | _ => none

/-- A lock header follows within the span of an earlier one, as the text stands: a transfer that is always taken ends the span (R48, R59,
R63). -/
def lockInSpan : Nat → List Placed → Bool
  | _, [] => false
  | k, (_, _, .line l) :: r =>
    (match l.head with
     | some (.lock _ _ n) => k != 0 || lockInSpan n r
     | some (.plain _ (some (.always, _))) => lockInSpan 0 r
     | _ => lockInSpan (k - 1) r)
  | k, _ :: r => lockInSpan k r

/-- A piece of an object's text: its gang, none for text that stands outside every gang; the virtual cores of `.vcore`, or the name of
`.task`; its items with their sections. -/
structure TextPiece where
  gang   : Option String
  vcores : List Nat
  task   : Option String
  items  : List (String × TextItem)
  deriving DecidableEq, Repr

/-! ### Keywords of presets and records (R65, R181, R306) -/

/-- A value of a keyword: a number, a name, or a symbol with an addend, resolved as abs64 (R65). -/
inductive KeyVal where
  | num (n : Int)
  | name (n : String)
  | sym (n : String) (addend : Int)
  deriving DecidableEq, Repr

/-- A keyword: the low bit and width of its field, the numbers that it takes (none where `lo` is above `hi`), the names that stand for codes
0, 1 and so on, whether it takes an address. -/
structure KeyField where
  key   : String
  low   : Nat
  width : Nat
  lo    : Int
  hi    : Int
  names : List String
  addr  : Bool
  deriving DecidableEq, Repr

/-- A keyword with a natural number. -/
def natKey (key : String) (low width : Nat) (hi : Int := 2 ^ width - 1) (names : List String := []) : KeyField := ⟨key, low, width, 0, hi, names, false⟩
/-- A keyword with a 64-bit address. -/
def addrKey (key : String) (low : Nat) : KeyField := ⟨key, low, 64, 0, 2 ^ 64 - 1, [], true⟩

/-- Keywords that count: `cnt0` and so on. -/
def numbered (n : Nat) (f : Nat → KeyField) (key : String) : List KeyField := (List.range n).map fun i => { f i with key := key ++ toString i }

/-- `.stream` (R65, R144). -/
def streamKeys : List KeyField :=
  [addrKey "base" 0,
   natKey "fmt" 64 4 15 ["fp64", "fp32", "bf16", "e4m3", "e5m2", "e2m3", "e3m2", "e2m1", "int8", "mx8e4", "mx8e5", "mx6e2", "mx6e3", "mx4", "mxi8", "px"],
   natKey "mixed" 68 1, natKey "ptag" 69 2 2 ["px2", "px4", "px7"], natKey "ustr" 72 20] ++
  numbered 6 (fun l => ⟨"", 96 + 24 * l, 24, -2 ^ 23, 2 ^ 23 - 1, [], false⟩) "str"

/-- `.nest` (R65, R147). -/
def nestKeys : List KeyField :=
  numbered 6 (fun l => natKey "" (16 * l) 16) "cnt" ++ numbered 6 (fun l => natKey "" (96 + 2 * l) 2 2 ["k", "m", "n"]) "role" ++
  numbered 6 (fun l => natKey "" (128 + 4 * l) 4 7) "astr"

/-- `.shape` (R181, R170). -/
def shapeKeys : List KeyField :=
  [natKey "nodes" 0 30, natKey "lmask" 32 16, natKey "root" 48 7] ++ numbered 16 (fun l => natKey "" (64 + 7 * l) 7) "loff"

/-- `.launch` but for `gang=` (R306, R305). -/
def launchKeys : List KeyField :=
  [natKey "extent" 32 32, natKey "floor" 32 32, natKey "ceil" 64 32, ⟨"src", 96, 2, 1, 0, ["fixed", "shape", "signal"], false⟩,
   natKey "pred" 100 8, natKey "evt" 108 1, addrKey "sig" 128, addrKey "done" 192, addrKey "bo" 256, natKey "boexp" 320 28]

/-- The value of a keyword: a name for a code, a number in range, an address of a symbol modulo 2^64. -/
def KeyField.value (f : KeyField) (get : String → Except LoadError Int) : KeyVal → Except LoadError Nat
  | .num n => if f.lo ≤ n ∧ n ≤ f.hi then .ok (n % 2 ^ f.width).toNat else .error .assembly
  | .name n => if f.names.contains n then .ok (f.names.idxOf n) else .error .assembly
  | .sym n a => if f.addr then (get n).map fun v => ((v + a) % 2 ^ 64).toNat else .error .assembly

/-- The fields of keywords as one number. An unknown keyword, a field given twice or a value that does not fit is an assembly error. -/
def packKeys (fs : List KeyField) (get : String → Except LoadError Int) : List (String × KeyVal) → Except LoadError Nat
  | [] => .ok 0
  | (k, v) :: r =>
    match fs.find? fun f => f.key == k with
    | none => .error .assembly
    | some f =>
      match f.value get v, packKeys (fs.filter fun g => g.low != f.low) get r with
      | .ok x, .ok y => .ok (x * 2 ^ f.low + y)
      | .error e, _ => .error e
      | _, .error e => .error e

/-- A preset of a matrix engine: one that its MGO would refuse is an assembly error (R65, R159). -/
def checkedKeys (fs : List KeyField) (bad : Nat → Bool) (get : String → Except LoadError Int) (kv : List (String × KeyVal)) :
    Except LoadError (BitVec 256) :=
  match packKeys fs get kv with
  | .error e => .error e
  | .ok w => if bad w then .error .assembly else .ok (.ofNat 256 w)

def streamPreset (get : String → Except LoadError Int) (kv : List (String × KeyVal)) : Except LoadError (BitVec 256) := checkedKeys streamKeys badStream get kv
def nestPreset (kv : List (String × KeyVal)) : Except LoadError (BitVec 256) := checkedKeys nestKeys badNest (fun n => .error (.undef n)) kv
def shapePreset (kv : List (String × KeyVal)) : Except LoadError (BitVec 256) := checkedKeys shapeKeys (fun _ => false) (fun n => .error (.undef n)) kv

/-- A launch record but for IMAGE (R305, R306): `pred=` sets PRED with SITE; at most 16 `gang=`. -/
def launchRecord (get : String → Except LoadError Int) (kv : List (String × KeyVal)) : Except LoadError Nat :=
  let rest := kv.filter fun x => x.1 != "gang"
  if 16 < kv.length - rest.length then .error .assembly
  else (packKeys launchKeys get rest).map fun w => w + if kv.any fun x => x.1 == "pred" then 2 ^ 98 else 0

/-- The gangs that a launch record names, in order. -/
def launchGangs (kv : List (String × KeyVal)) : List String :=
  kv.filterMap fun x => match x with | ("gang", .name n) => some n | _ => none

/-! ### Allocation and data (R64, R70) -/

/-- An allocation: `.scratch`, `.cshared` (of a gang) or `.chip`, and the number of its object in the load. -/
structure Alloc where
  name  : String
  win   : Win
  size  : Nat
  align : Nat
  obj   : Nat
  deriving DecidableEq, Repr

/-- The lowest offset of an alignment at or above a running offset. -/
def alignTo (off n : Nat) : Nat := off + (n - off % n) % n

/-- Place the allocations of one window from a running offset: each with its address, and the offset above the last. -/
def placeAllocs (w : Win) : Nat → List Alloc → List (Alloc × Int) × Nat
  | off, [] => ([], off)
  | off, a :: r =>
    if a.win = w then
      let o := alignTo off a.align
      let (ts, e) := placeAllocs w (o + a.size) r
      ((a, ((w.base + o : Nat) : Int)) :: ts, e)
    else placeAllocs w off r

/-- A decimal number of `.float` or `.double`: sign, digits, power of ten. -/
structure Decimal where
  neg    : Bool
  digits : Nat
  exp    : Int
  deriving DecidableEq, Repr

/-- A decimal rounded RNE to a format (R64): below one, its quotient by the power of ten keeps 64 bits more than that power has, and a
sticky bit. -/
def Decimal.code (d : Decimal) (f : Fmt) : Nat :=
  if 0 ≤ d.exp then (f.round .rne d.neg (d.digits * 10 ^ d.exp.toNat) 0).1
  else
    let den := 10 ^ (-d.exp).toNat
    let k := 64 + den.log2
    let q := d.digits * 2 ^ k / den
    let sticky := if d.digits * 2 ^ k % den = 0 then 0 else 1
    (f.round .rne d.neg (2 * q + sticky) (-(k + 1 : Nat))).1

/-- A value of `.byte`, `.half`, `.word` or `.dword`: a number, or a symbol with an addend (abs32 in a word, abs64 in a dword). -/
inductive DataVal where
  | num (n : Int)
  | sym (n : String) (addend : Int)
  deriving DecidableEq, Repr

/-- What stands in a data section: a label, values of a width in bytes, decimals of 4 or 8 bytes, zero bytes, `.align`, a launch record whose
IMAGE the loader writes. -/
inductive DataItem where
  | label (n : String)
  | ints (size : Nat) (vs : List DataVal)
  | reals (wide : Bool) (vs : List Decimal)
  | space (n : Nat)
  | align (n : Nat)
  | launch (n : String) (kv : List (String × KeyVal))
  deriving DecidableEq, Repr

/-- Bytes of an item. -/
def DataItem.len : DataItem → Nat
  | .ints n vs => n * vs.length
  | .reals w vs => (if w then 8 else 4) * vs.length
  | .space n => n
  | .launch .. => 64
  | _ => 0

/-- The alignment that an item asks of its section (R306 for a launch record). -/
def DataItem.boundary : DataItem → Nat
  | .align n => n
  | .launch .. => 64
  | _ => 1

/-- The items of a data section with their offsets in it, and the section's length (R64). -/
def layoutData : Nat → List DataItem → List (Nat × DataItem) × Nat
  | o, [] => ([], o)
  | o, i :: r =>
    let at_ := alignTo o i.boundary
    let (xs, e) := layoutData (at_ + i.len) r
    ((at_, i) :: xs, e)

/-- A data section is placed as one allocation, aligned for all its items. -/
def dataAlign (is : List DataItem) : Nat := is.foldl (fun m i => max m i.boundary) 1

/-- The labels of a data section at an address; a launch record defines its name (R306). -/
def dataLabels (base : Nat) (xs : List (Nat × DataItem)) : Symbols :=
  xs.filterMap fun x => match x.2 with | .label n | .launch n _ => some (n, ((base + x.1 : Nat) : Int)) | _ => none

/-- The bytes of one value at an offset of its section (R64, R66, R67). -/
def DataVal.build (get : String → Except LoadError Int) (sect : String) (size at_ : Nat) : DataVal → Except LoadError (List Byte)
  | .num n =>
    if -2 ^ (8 * size - 1) ≤ n ∧ n < 2 ^ (8 * size) then .ok (natBytes (n % 2 ^ (8 * size)).toNat size) else .error .assembly
  | .sym n a =>
    if size < 4 then .error .assembly
    else match get n with
      | .error e => .error e
      | .ok v => match relocValue .nop 0 (if size = 8 then .abs64 else .abs32) (v + a) with
        | some x => .ok (natBytes (x % 2 ^ 64).toNat size)
        | none => .error (.relocovf sect at_ n)

/-- The bytes of an item at an offset of its section; `num` is the image number of a launch record. -/
def DataItem.build (get : String → Except LoadError Int) (sect : String) (num at_ : Nat) : DataItem → Except LoadError (List Byte)
  | .ints n vs => (vs.zipIdx.mapM fun (v : DataVal × Nat) => v.1.build get sect n (at_ + n * v.2)).map List.flatten
  | .reals w vs => .ok (vs.map fun d => natBytes (d.code (if w then fF64 else fF32)) (if w then 8 else 4)).flatten
  | .space n => .ok (List.replicate n 0#8)
  | .launch _ kv => (launchRecord get kv).map fun w => natBytes (w + num % 2 ^ 32) 64
  | .label _ | .align _ => .ok []

/-! ### Objects (R64) -/

/-- The directives and lines of a source. A label names the word or the byte that follows it in the current section. -/
inductive Directive where
  | label (n : String)
  | line (l : SrcLine)
  | text
  | data
  | sect (name : String) (code : Bool)
  | gang (name : String) (cols rows : Nat) (solo : Bool)
  | vcore (x0 y0 : Nat) (corner : Option (Nat × Nat))
  | task (name : String)
  | urgent
  | imem (word : Nat)
  | alloc (a : Alloc)
  | stream (reg : Nat) (kv : List (String × KeyVal))
  | nest (kv : List (String × KeyVal))
  | shape (idx : Nat) (kv : List (String × KeyVal))
  | align (n : Nat)
  | values (i : DataItem)
  | equ (name : String) (v : Int)
  | global (names : List String)
  | local_ (names : List String)
  | launch (name : String) (kv : List (String × KeyVal))
  | end_
  deriving DecidableEq, Repr

/-- What an object gives a gang: its name, grid and mode, whether it is urgent, its allocations and presets. -/
structure GangDecl where
  name    : String
  cols    : Nat
  rows    : Nat
  solo    : Bool
  urgent  : Bool
  allocs  : List Alloc
  streams : List (Nat × List (String × KeyVal))
  nests   : List (List (String × KeyVal))
  shapes  : List (Nat × List (String × KeyVal))
  deriving DecidableEq, Repr

/-- An object while its source is read: what it has given so far, the current section (its name, whether it holds text), the
current gang, whether a piece of text is open in it, an `.imem` not yet used, whether `.end` was read, whether there was an
error. -/
structure Obj where
  consts  : Symbols
  globals : List String
  gangs   : List GangDecl
  pieces  : List TextPiece
  data    : List (String × List DataItem)
  chip    : List Alloc
  sect    : String × Bool
  gang    : Option String
  open_   : Bool
  imem    : Option Nat
  done    : Bool
  bad     : Bool
  deriving DecidableEq, Repr

/-- A source begins with `.text` selected (R64). -/
def Obj.start : Obj := ⟨[], [], [], [], [], [], (".text", true), none, false, none, false, false⟩

def Obj.fail (o : Obj) : Obj := { o with bad := true }

/-- Change the current gang; without one the directive is an error. -/
def Obj.inGang (o : Obj) (f : GangDecl → GangDecl) : Obj :=
  match o.gang with
  | some n => { o with gangs := o.gangs.map fun g => if g.name = n then f g else g }
  | none => o.fail

/-- Change the open piece, which is the last. -/
def onLast {α : Type} (f : α → α) : List α → List α
  | [] => []
  | [a] => [f a]
  | a :: b :: r => a :: onLast f (b :: r)

/-- An item of text joins the open piece, after an `.imem` that was not yet used. Text outside every gang opens a piece of its own; text of
a gang before its first `.vcore` or `.task` is an error. -/
def Obj.putText (o : Obj) (i : TextItem) : Obj :=
  let o := if o.open_ || o.gang.isSome then o else { o with pieces := o.pieces ++ [⟨none, [], none, []⟩], open_ := true }
  let pre := match o.imem with | some w => [(o.sect.1, .imem w)] | none => []
  if !o.open_ then o.fail
  else { o with imem := none, pieces := onLast (fun p => { p with items := p.items ++ pre ++ [(o.sect.1, i)] }) o.pieces }

/-- A data section takes its place in the order of declaration where it is first selected, whether by a directive or by a launch record that
stands in text (R70, R306; DESIGN CHOICE, log entry 142). -/
def Obj.openData (o : Obj) (n : String) : Obj :=
  if o.data.any fun x => x.1 == n then o else { o with data := o.data ++ [(n, [])] }

/-- An item of data joins a data section. -/
def Obj.putData (o : Obj) (n : String) (i : DataItem) : Obj :=
  let o := o.openData n
  { o with data := o.data.map fun x => if x.1 = n then (n, x.2 ++ [i]) else x }

/-- The virtual cores of a rectangle (R64), none where it leaves the grid. -/
def GangDecl.cells (g : GangDecl) (x0 y0 x1 y1 : Nat) : Option (List Nat) :=
  if x0 ≤ x1 ∧ x1 < g.cols ∧ y0 ≤ y1 ∧ y1 < g.rows then
    some ((List.range (y1 + 1 - y0)).map fun y => (List.range (x1 + 1 - x0)).map fun x => (y0 + y) * g.cols + x0 + x).flatten
  else none

/-- A power of two. -/
def powerOfTwo (n : Nat) : Bool := n != 0 && decide (2 ^ n.log2 = n)

/-- One directive (R64). An allocation whose alignment is no power of two is an assembly error, as it is for `.align` (DESIGN CHOICE, log
entry 142). A launch record in a text section goes to `.data` (R306). -/
def Obj.step (o : Obj) (d : Directive) : Obj :=
  if o.done then o
  else match d with
  | .label n => if o.sect.2 then o.putText (.label n) else o.putData o.sect.1 (.label n)
  | .line l => if o.sect.2 then o.putText (.line l) else o.fail
  | .text => { o with sect := (".text", true) }
  | .data => { o.openData ".data" with sect := (".data", false) }
  | .sect n code => if code then { o with sect := (n, true) } else { o.openData n with sect := (n, false) }
  | .gang n cols rows solo =>
    let ok := decide (1 ≤ cols ∧ cols ≤ 16 ∧ 1 ≤ rows ∧ rows ≤ 12) && !o.gangs.any fun g => g.name == n
    { o with gang := some n, open_ := false, bad := o.bad || !ok, gangs := o.gangs ++ [⟨n, cols, rows, solo, false, [], [], [], []⟩] }
  | .vcore x0 y0 corner =>
    let c := corner.getD (x0, y0)
    match (o.gangs.find? fun g => some g.name == o.gang).bind fun g => g.cells x0 y0 c.1 c.2 with
    | some vs => { o with pieces := o.pieces ++ [⟨o.gang, vs, none, []⟩], open_ := true }
    | none => o.fail
  | .task n => if o.gang.isSome then { o with pieces := o.pieces ++ [⟨o.gang, [], some n, []⟩], open_ := true } else o.fail
  | .urgent => o.inGang fun g => { g with urgent := true }
  | .imem w => if o.sect.2 && decide (w < 4096) then { o with imem := some w } else o.fail
  | .alloc a =>
    if !powerOfTwo a.align then o.fail
    else match a.win with
      | .chip => { o with chip := o.chip ++ [a] }
      | .spad | .shared => o.inGang fun g => { g with allocs := g.allocs ++ [a] }
      | _ => o.fail
  | .stream r kv => if r < 16 then o.inGang fun g => { g with streams := g.streams ++ [(r, kv)] } else o.fail
  | .nest kv => o.inGang fun g => { g with nests := g.nests ++ [kv] }
  | .shape i kv => if i < 64 then o.inGang fun g => { g with shapes := g.shapes ++ [(i, kv)] } else o.fail
  | .align n => if !powerOfTwo n then o.fail else if o.sect.2 then o.putText (.align n) else o.putData o.sect.1 (.align n)
  | .values i =>
    (match i with
     | .label _ | .launch .. | .align _ => o.fail
     | .ints n _ => if o.sect.2 || !(n == 1 || n == 2 || n == 4 || n == 8) then o.fail else o.putData o.sect.1 i
     | _ => if o.sect.2 then o.fail else o.putData o.sect.1 i)
  | .equ n v => { o with consts := o.consts ++ [(n, v)] }
  | .global ns => { o with globals := o.globals ++ ns }
  | .local_ ns => { o with globals := o.globals.filter fun n => !ns.contains n }
  | .launch n kv => o.putData (if o.sect.2 then ".data" else o.sect.1) (.launch n kv)
  | .end_ => { o with done := true }

/-- An object from its source. -/
def Obj.read (ds : List Directive) : Obj := ds.foldl Obj.step Obj.start

/-- The object as number `k` of a load, which its allocations carry. -/
def Obj.number (o : Obj) (k : Nat) : Obj :=
  let own := List.map fun (a : Alloc) => { a with obj := k }
  { o with chip := own o.chip, gangs := o.gangs.map fun g => { g with allocs := own g.allocs } }

/-- The launch records of an object, in the order of its sections. -/
def Obj.launches (o : Obj) : List (String × List (String × KeyVal)) :=
  (o.data.map Prod.snd).flatten.filterMap fun i => match i with | .launch n kv => some (n, kv) | _ => none

/-- The names that an object defines in one gang: its allocations there and the labels of its text; without a gang, everything else. -/
def Obj.namesIn (o : Obj) (g : Option String) : List String :=
  ((o.gangs.filter fun x => some x.name == g).map fun x => x.allocs.map Alloc.name).flatten ++
  (((o.pieces.filter fun p => p.gang == g).map TextPiece.items).flatten.filterMap fun i => match i.2 with | .label n => some n | _ => none) ++
  if g.isSome then [] else
    o.consts.map Prod.fst ++ o.chip.map Alloc.name ++
    ((o.data.map Prod.snd).flatten.filterMap fun i => match i with | .label n | .launch n _ => some n | _ => none)

/-- The gangs of an object, and none for what stands outside them. -/
def Obj.scopes (o : Obj) : List (Option String) := none :: o.gangs.map fun g => some g.name

/-- The names that an object defines. -/
def Obj.names (o : Obj) : List String := (o.scopes.map o.namesIn).flatten

/-- No name is defined twice in one gang, nor in a gang and outside every gang, and an exported name once in the object. Two gangs of a
source may head bundles with one label, as the program of 21_prog_rounds.md does with `rnd` (DESIGN CHOICE, log entry 143). -/
def Obj.namesSound (o : Obj) : Bool :=
  o.scopes.all (fun g => decide (o.namesIn none ++ if g.isSome then o.namesIn g else []).Nodup) &&
  o.globals.all fun n => decide ((o.names.filter fun x => x == n).length ≤ 1)

/-- The names that an object exports (R64, R71): global ones that it defines. -/
def Obj.exported (o : Obj) : List String := o.names.filter o.globals.contains

/-- Whether the values and keywords of an item are sound before any symbol is known. -/
def DataItem.sound (i : DataItem) : Bool := match i.build (fun _ => .ok 0) "" 0 0 with | .error .assembly => false | _ => true

/-- Whether a keyword list is sound before any symbol is known. -/
def soundKeys {α : Type} : Except LoadError α → Bool
  | .error _ => false
  | .ok _ => true

/-- The assembler writes an object (R59, R63 to R65, R181, R306): its directives and lines are sound, and its names are. Text outside every
gang is the handler's alone (R405). `urgents` names the gangs that the load compiles for the urgent profile (R64). -/
def Obj.sound (o : Obj) (handler : Bool) (urgents : List String) : Bool :=
  let urgent := fun (p : TextPiece) => urgents.any fun n => some n == p.gang
  !o.bad && o.namesSound &&
  o.pieces.all (fun p => (handler || p.gang.isSome) && !lockInSpan 0 (layoutText 0 p.items) &&
    p.items.all fun i => match i.2 with | .line l => l.sound (urgent p) | _ => true) &&
  o.data.all (fun x => x.2.all DataItem.sound) &&
  o.gangs.all fun g => g.streams.all (fun x => soundKeys (streamPreset (fun _ => .ok 0) x.2)) && g.nests.all (fun x => soundKeys (nestPreset x)) &&
    g.shapes.all fun x => soundKeys (shapePreset x.2)

/-! ### A load (R68 to R71, R405) -/

/-- A load: the sources of its objects in the order in which it names them, the supervisor's handler object, and where its data sections and its
chip-scratchpad allocations begin. -/
structure LoadSrc where
  objs     : List (List Directive)
  handler  : Option (List Directive)
  dataBase : Nat
  chipBase : Nat
  deriving DecidableEq, Repr

/-- A load as read: its objects, the handler's last, and where data begin. -/
structure Load where
  objs     : List Obj
  dataBase : Nat
  chipBase : Nat
  deriving DecidableEq, Repr

/-- The handler object's number. -/
def Load.last (l : Load) : Nat := l.objs.length - 1

/-- The gangs of a load: those of one name in several objects are one gang (R70). -/
def Load.gangs (l : Load) : List GangDecl :=
  (l.objs.map Obj.gangs).flatten.foldl (fun gs g =>
    if gs.any fun x => x.name == g.name then
      gs.map fun x => if x.name = g.name then
        { x with urgent := x.urgent || g.urgent, allocs := x.allocs ++ g.allocs, streams := x.streams ++ g.streams, nests := x.nests ++ g.nests,
                 shapes := x.shapes ++ g.shapes }
      else x
    else gs ++ [g]) []

/-- The pieces of a gang, each with its object's number; `tasks` chooses those of `.task`. -/
def Load.piecesOf (l : Load) (g : String) (tasks : Bool) : List (Nat × TextPiece) :=
  (l.objs.zipIdx.map fun o => (o.1.pieces.filter fun p => p.gang == some g && p.task.isSome == tasks).map fun p => (o.2, p)).flatten

/-- The words open to a gang's text (R70). -/
def GangDecl.first (g : GangDecl) : Nat := if g.urgent then 3840 else 0
def GangDecl.limit (g : GangDecl) : Nat := if g.urgent then 4096 else 3840

/-- A laid-out piece: its object, the piece, its items with their words. -/
abbrev LaidPiece := Nat × TextPiece × List Placed

/-- The laid-out text of a gang: each `.vcore` piece from the first open word, the tasks one after the other above them all, the handler's
text above those (R70, R290, R405). -/
def Load.layout (l : Load) (g : GangDecl) : List LaidPiece :=
  let own := (l.piecesOf g.name false).map fun p => (p.1, p.2, layoutText g.first p.2.items)
  let stack := fun (a : List LaidPiece × Nat) (p : Nat × TextPiece) =>
    let ls := layoutText a.2 p.2.items
    (a.1 ++ [(p.1, p.2, ls)], max a.2 (textEnd a.2 ls))
  let handler := ((l.objs.getLast?.map Obj.pieces).getD []).filter fun p => p.gang.isNone
  ((l.piecesOf g.name true ++ handler.map fun p => (l.last, p)).foldl stack (own, own.foldl (fun m x => max m (textEnd g.first x.2.2)) g.first)).1

/-- Whether a piece is loaded on a virtual core. -/
def TextPiece.on (p : TextPiece) (v : Nat) : Bool := p.task.isSome || p.gang.isNone || p.vcores.contains v

/-- The laid-out pieces of an object in source order: those of every gang, and the handler's text where the first gang has it. -/
def Load.objLayout (l : Load) (lays : List (GangDecl × List LaidPiece)) (k : Nat) : List (TextPiece × List Placed) :=
  ((l.objs.getD k Obj.start).pieces.map fun p =>
    ((lays.find? fun x => p.gang.isNone || p.gang == some x.1.name).bind fun x => x.2.find? fun y => y.1 == k && y.2.1 == p).map fun y => y.2).filterMap id

/-- The byte offset of each line of some pieces within its section: a section of an object runs through them (R67). -/
def sectionOffsets (ps : List (TextPiece × List Placed)) : List (TextPiece × List (Nat × Placed)) :=
  (ps.foldl (fun (a : List (TextPiece × List (Nat × Placed)) × List (String × Nat)) p =>
    let r := p.2.foldl (fun (b : List (Nat × Placed) × List (String × Nat)) x =>
      let o := ((b.2.find? fun y => y.1 == x.2.1).map Prod.snd).getD 0
      (b.1 ++ [(o, x)], (x.2.1, o + 16 * x.len) :: b.2.filter fun y => y.1 != x.2.1)) ([], a.2)
    (a.1 ++ [(p.1, r.1)], r.2)) ([], [])).1

/-- The data sections of a load as they are placed, one running offset over the whole load (R70): object, name, address, items with their
offsets; and the address above the last. -/
def Load.dataPlan (l : Load) : List (Nat × String × Nat × List (Nat × DataItem)) × Nat :=
  (l.objs.zipIdx.map fun o => o.1.data.map fun x => (o.2, x)).flatten.foldl
    (fun a x =>
      let base := alignTo a.2 (dataAlign x.2.2)
      let d := layoutData 0 x.2.2
      (a.1 ++ [(x.1, x.2.1, base, d.1)], base + d.2)) ([], l.dataBase)

/-- The chip-scratchpad allocations of a load, one running offset over the whole load (R70). -/
def Load.chipPlan (l : Load) : List (Alloc × Int) × Nat := placeAllocs .chip l.chipBase (l.objs.map Obj.chip).flatten

/-- What an object defines, each symbol with its gang (`none` outside every gang). -/
abbrev Scoped := List (Option String × String × Int)

/-- What each object defines (R64, R70), as the text of the gangs is laid out; the handler's text as on the first gang. -/
def Load.defs (l : Load) (lays : List (GangDecl × List LaidPiece)) : List Scoped :=
  let allocs := l.chipPlan.1.map (fun a => ((none : Option String), a)) ++
    (l.gangs.map fun g => ((placeAllocs .spad 0 g.allocs).1 ++ (placeAllocs .shared 0 g.allocs).1).map fun a => (some g.name, a)).flatten
  let outside := fun (t : Symbols) => t.map fun x => ((none : Option String), x)
  l.objs.zipIdx.map fun o =>
    outside o.1.consts ++ ((allocs.filter fun x => x.2.1.obj == o.2).map fun x => (x.1, x.2.1.name, x.2.2)) ++
    ((l.dataPlan.1.filter fun x => x.1 == o.2).map fun x => outside (dataLabels x.2.2.1 x.2.2.2)).flatten ++
    ((l.objLayout lays o.2).map fun p => (textLabels p.2).map fun x => (p.1.gang, x)).flatten

/-- The symbols that a gang's part of an object sees: the gang's own, then those that stand outside every gang, then those of the object's
other gangs (DESIGN CHOICE, log entry 143); then what objects export, but a program object's `trap`, which binds only within it (R405). -/
def Load.view (l : Load) (defs : List Scoped) (k : Nat) (g : Option String) : Symbols :=
  let mine := defs.getD k []
  let pick := fun (p : Option String → Bool) => (mine.filter fun x => p x.1).map fun x => x.2
  let exported := (l.objs.zip defs).zipIdx.map fun o =>
    (o.1.2.filter fun x => o.1.1.globals.contains x.2.1 && (x.2.1 != "trap" || o.2 == l.last)).map fun x => x.2
  pick (fun x => x == g) ++ pick (fun x => x.isNone) ++ pick (fun x => x.isSome) ++ exported.flatten

/-- The word of the handler's `trap` (R405). -/
def Load.trapWord (l : Load) (defs : List Scoped) : Except LoadError Int := Symbols.get ((defs.getD l.last []).map fun x => x.2) "trap"

/-- The first name that two objects export, a program object's `trap` apart (R71 DUPDEF, R405). -/
def dupGlobal : List Obj → Option String
  | [] => none
  | o :: r => match o.exported.find? fun n => n != "trap" && r.any fun x => x.exported.contains n with
    | some n => some n
    | none => dupGlobal r

/-- The launch records of a load, each with its object. -/
def Load.launches (l : Load) : List (Nat × String × List (String × KeyVal)) :=
  (l.objs.zipIdx.map fun o => o.1.launches.map fun x => (o.2, x)).flatten

/-- The images of a load: one for each launch record, of the gangs that it names; the gangs that no record names are one image more (log
entry 134). -/
def Load.images (l : Load) : List (List String) :=
  let named := l.launches.map fun x => launchGangs x.2.2
  let rest := (l.gangs.map GangDecl.name).filter fun n => !named.flatten.contains n
  named ++ if rest.isEmpty then [] else [rest]

/-- The gang as the front end places it, on a die. -/
def GangDecl.image (g : GangDecl) (die : Bool) : GangImg := ⟨die, g.cols, g.rows, g.solo, g.urgent, [], [], [], 0#256, [], 0#12⟩

/-- The die of each gang of one launch: the first cluster that can take it (R68, R70: an urgent gang is placed in a victim's cores). -/
def State.placeLoad (s : State) (part : Nat) : List GangDecl → List Nat → Option (List Bool)
  | [], _ => some []
  | g :: r, taken =>
    let fits := fun cl => (s.fitGang (g.image false) ((s.clusterCores part cl).filter fun i => !taken.contains i)).map fun ids => (cl == 4, ids)
    match (s.clustersOf part false ++ s.clustersOf part true).findSome? fits with
    | none => none
    | some (die, ids) => (s.placeLoad part r (taken ++ (if g.solo then ids ++ ids.map (· ^^^ 1) else ids))).map (die :: ·)

/-- Whether a gang's allocations exceed a window of a die (R70, R71 MEMOVF, R371). -/
def GangDecl.overflows (g : GangDecl) (die : Bool) : Bool :=
  let spad := if g.urgent then 2 ^ 16 else sliceSize die - 2 ^ 16
  let shared := if g.urgent then 0 else g.cols * g.rows * sliceSize die
  decide (spad < (placeAllocs .spad 0 g.allocs).2) || decide (shared < (placeAllocs .shared 0 g.allocs).2)

/-- The errors of a program that show only in all its objects together (R64, R290): one text for each virtual core, at most 256 tasks, one
grid, mode and preset for a name, launches of gangs that there are. -/
def Load.sound (l : Load) : Bool :=
  l.gangs.all (fun g =>
    (List.range (g.cols * g.rows)).all (fun v => ((l.piecesOf g.name false).filter fun p => p.2.vcores.contains v).length == 1) &&
    decide ((l.piecesOf g.name true).length ≤ 256) && decide ((l.piecesOf g.name true).map fun p => p.2.task).Nodup &&
    (l.objs.map Obj.gangs).flatten.all (fun x => x.name != g.name || (x.cols == g.cols && x.rows == g.rows && x.solo == g.solo)) &&
    decide (g.streams.map Prod.fst).Nodup && decide (g.shapes.map Prod.fst).Nodup && decide (g.nests.length ≤ 1)) &&
  l.launches.all fun x => (launchGangs x.2.2).all fun n => l.gangs.any fun g => g.name == n

/-- The words of a virtual core's text, each with the object that it comes from. -/
def ownedWords (lay : List LaidPiece) (v : Nat) : List (Nat × Nat) :=
  ((lay.filter fun y => y.2.1.on v).map fun y => (textWords y.2.2).map fun w => (y.1, w)).flatten

/-- How two pieces of text meet on one word: within one object, or across two (R64, R71 IMEMOVL). -/
def textClash (lay : List LaidPiece) (cells : Nat) : Option LoadError :=
  let ws := (List.range cells).map (ownedWords lay)
  if ws.any fun x => !decide x.Nodup then some .assembly
  else if ws.any fun x => !decide (x.map Prod.snd).Nodup then some .imemovl
  else none

/-- The words of one piece, each with its place. -/
def buildPiece (x : TextAt) (ls : List (Nat × Placed)) : Except LoadError (List (Nat × BWord)) :=
  (ls.mapM fun (y : Nat × Placed) => match y.2.2.2 with
    | .line l => (l.build { x with sect := y.2.2.1, word := y.2.1, off := y.1 }).map fun (ws : List BWord) => ws.zipIdx.map fun (w : BWord × Nat) => (y.2.1 + w.2, w.1)
    | _ => .ok []).map List.flatten

/-- A built gang, or the first error of its text and presets. -/
def Load.buildGang (l : Load) (lays : List (GangDecl × List LaidPiece)) (g : GangDecl) (lay : List LaidPiece) : Except LoadError GangImg :=
  let lays := (g, lay) :: lays
  let defs := l.defs lays
  let tasks := (l.piecesOf g.name true).filterMap fun p => p.2.task
  let offs := (List.range l.objs.length).map fun k => sectionOffsets (l.objLayout lays k)
  let piece := fun (p : LaidPiece) =>
    let at_ := (((offs.getD p.1 []).find? fun x => x.1 == p.2.1).map Prod.snd).getD []
    (buildPiece ⟨l.view defs p.1 p.2.1.gang, g.cols, g.rows, tasks, "", 0, 0⟩ at_).map fun ws => (p, ws)
  let streams := (l.objs.zipIdx.map fun o => ((o.1.gangs.filter fun x => x.name == g.name).map fun x => x.streams.map fun y => (o.2, y)).flatten).flatten
  let key := fun (x : Except LoadError (BitVec 256)) (r : Nat) => x.map fun w => (r, w)
  match lay.mapM piece, streams.mapM fun x => key (streamPreset (l.view defs x.1 (some g.name)).get x.2.2) x.2.1,
      g.shapes.mapM fun x => key (shapePreset x.2) x.1, nestPreset (g.nests.head?.getD []), l.trapWord defs with
  | .error e, _, _, _, _ => .error e
  | _, .error e, _, _, _ => .error e
  | _, _, .error e, _, _ => .error e
  | _, _, _, .error e, _ => .error e
  | _, _, _, _, .error e => .error e
  | .ok ps, .ok ss, .ok shs, .ok nest, .ok trap =>
    let cells := fun (ws : List (Nat × BWord)) => ws.foldl (fun m w => cput 0#128 m w.1 w.2) []
    .ok { g.image false with
      tasks := (ps.filter fun p => p.1.2.1.task.isSome).map fun p => textEntry p.1.2.2
      texts := (List.range (g.cols * g.rows)).map fun v =>
        let mine := ps.filter fun p => p.1.2.1.on v
        let own := mine.find? fun p => p.1.2.1.gang.isSome && p.1.2.1.task.isNone
        ⟨v, (own.map fun p => textEntry p.1.2.2).getD 0#12, cells (mine.map fun p => p.2).flatten⟩
      streams := ss, shapes := shs, nest := nest, trapvec := .ofNat 12 trap.toNat }

/-- The checks that need no symbol, in the order that the model gives them (log entry 120): the gangs of each image with their dies. -/
def State.loadCheck (s : State) (l : Load) (lays : List (GangDecl × List LaidPiece)) (part : Nat) : Except LoadError (List (List (GangDecl × Bool))) :=
  let place := fun (ns : List String) =>
    let gs := ns.filterMap fun n => l.gangs.find? fun g => g.name == n
    (s.placeLoad part gs []).map fun ds => gs.zip ds
  let clash := lays.filterMap fun x => textClash x.2 (x.1.cols * x.1.rows)
  if l.objs.zipIdx.any (fun o => !o.1.sound (o.2 == l.last) ((l.gangs.filter GangDecl.urgent).map GangDecl.name)) || !l.sound || clash.contains .assembly then .error .assembly
  else match dupGlobal l.objs, l.images.mapM place with
  | some n, _ => .error (.dupdef n)
  | none, none => .error .nofit
  | none, some gs =>
    if decide (2 ^ 48 < l.dataPlan.2) || decide (2 ^ 28 < l.chipPlan.2) || gs.flatten.any fun x => x.1.overflows x.2 then .error .memovf
    else if lays.any fun x => (x.2.map fun y => textWords y.2.2).flatten.any fun w => decide (w < x.1.first) || decide (x.1.limit ≤ w) then
      .error .imemovf
    else if !clash.isEmpty then .error .imemovl
    else .ok gs

/-- What a load that passes writes (R71), if it carries an object that exports `trap` (R405): the gangs of each of its images, and data bytes at addresses of the global window (R71). -/
def State.buildLoad (s : State) (src : LoadSrc) (part num : Nat) : Except LoadError (List (List GangImg) × List (Nat × List Byte)) :=
  match src.handler with
  | none => .error (.undef "trap")
  | some h =>
    let l : Load := ⟨(src.objs ++ [h]).zipIdx.map fun o => (Obj.read o.1).number o.2, src.dataBase, src.chipBase⟩
    let lays := l.gangs.map fun g => (g, l.layout g)
    if !(l.objs.getD l.last Obj.start).exported.contains "trap" then .error (.undef "trap") else
    match s.loadCheck l lays part with
    | .error e => .error e
    | .ok gs =>
      let defs := l.defs lays
      let imageNum := fun (k : Nat) (i : DataItem) => match i with
        | .launch n _ => num + l.launches.findIdx fun x => x.1 == k && x.2.1 == n
        | _ => 0
      let data := l.dataPlan.1.mapM fun x => (x.2.2.2.mapM fun y =>
        (y.2.build (l.view defs x.1 none).get x.2.1 (imageNum x.1 y.2) y.1).map fun b => (x.2.2.1 + y.1, b))
      let built := gs.mapM fun i => i.mapM fun g => (l.buildGang lays g.1 (l.layout g.1)).map fun x => { x with die := g.2 }
      match data, built with
      | .error e, _ => .error e
      | _, .error e => .error e
      | .ok ds, .ok is => .ok (is, ds.flatten)

/-- A load into a context (R71, R305, R363): it is refused and nothing is written; or its images get numbers and its data is written. The
context starts with its first load (R268). -/
def State.loadImage (s : State) (l : LoadSrc) (part : Nat) (asid : BitVec 16) (ttlo tthi : BitVec 12) (root : BitVec 44) : Except LoadError State :=
  let num := s.images.foldl (fun n i => max n (i.num + 1)) 0
  match s.buildLoad l part num with
  | .error e => .error e
  | .ok (is, ds) =>
    let s := if s.images.any fun i => i.part == part && i.asid == asid then s else s.startContext ttlo tthi
    let s := { s with images := s.images ++ is.zipIdx.map fun x => ⟨num + x.2, part, asid, ttlo, tthi, root, x.1⟩ }
    .ok (ds.foldl (fun s d => if d.2.isEmpty then s else (s.frontWrite part asid d.1 0 d.2).1) s)

end Sys2Proof.Machine
end

