-- ==== Sys2Proof/Safety.lean ====
section
/-! DEFINITION. What counts as a safe run, and the terms in which the statements speak of an operation's effect and of what it leaves. -/

namespace Sys2Proof.Machine

/-- The package can make `n` steps without a fault and without a refusal. -/
def SafeFor : Nat → State → Prop
  | 0, _ => True
  | n + 1, s => ∃ t, step s = .next t ∧ SafeFor n t

/-- The operation completes in the state, and its next state is as `P` says. -/
def Completes (i : Instr) (s : State) (P : State → Prop) : Prop := ∃ t, exec i s = .next t ∧ P t

/-- The operation completes and posts one scalar result as `P` says, `lat` unfrozen cycles after issue (R33, R34, R90). Nothing else of
the package changes: `State.post` adds to the core's results in flight alone. -/
def GivesScalar (i : Instr) (s : State) (lat : Nat) (d : Dst) (P : Word → Prop) : Prop :=
  ∃ v, exec i s = .next (s.post lat (.scalar d v)) ∧ P v

/-- The same of a predicate. -/
def GivesPred (i : Instr) (s : State) (p : Small) (P : Prop) : Prop :=
  ∃ b, exec i s = .next (s.post 1 (.pred p b)) ∧ (b = true ↔ P)

/-- The operation takes a trap of its bundle: cause, `TRAPINFO` (R28, R407). -/
def Traps (i : Instr) (s : State) (code : Nat) (info : Word) : Prop :=
  exec i s = .next (s.takeTrap ⟨.ofNat 8 code, s.core.flow.slot, info, false, false⟩)

/-- ILLOP with the bundle's word and the operation's slot position (R407). -/
def TrapsIllop (i : Instr) (s : State) : Prop := Traps i s 1 (.ofNat 64 (s.core.flow.pc.toNat + s.core.flow.slot * 4096))

/-- PRIV with the word, the position and a control-register index (R407). -/
def TrapsPriv (i : Instr) (s : State) (idx : Nat) : Prop :=
  Traps i s 2 (.ofNat 64 (s.core.flow.pc.toNat + s.core.flow.slot * 4096 + idx * 65536))

/-- The operation waits: its bundle does not issue in this cycle, and nothing but the verdict on it changes (R38). -/
def WaitsFor (i : Instr) (s : State) (w : Wait) : Prop :=
  Completes i s fun t => t.core.flow.verdict = .waits w ∧
    { t with core := { t.core with flow := { t.core.flow with verdict := s.core.flow.verdict } } } = s

/-- The operation completes and posts one vector of `n` lanes of `w` bits, with the flags of its active lanes: an active lane is what `f`
says, an inactive one keeps the destination's lane, or is 0 for the queue alone (R110, R111). Nothing else of the package changes. -/
def GivesLanes (i : Instr) (s : State) (lat : Nat) (d : Dst) (k : Small) (w n : Nat) (f : Nat → Nat × Fl) : Prop :=
  ∃ v fl, exec i s = .next (if fl = 0#8 then s.post lat (.vector d v) else (s.post lat (.vector d v)).post lat (.flags fl)) ∧
    (∀ j < n, laneGet w v j = if (s.gK k).getLsbD j then (f j).1 else
      match d with | .reg m => laneGet w (s.core.regs.v.get m) j | .queue => 0) ∧
    ∀ b < 8, fl.getLsbD b = true ↔ ∃ j < n, (s.gK k).getLsbD j = true ∧ (f j).2.getLsbD b = true

/-- The operation completes and posts one vector whose active lanes are as `P` says, with some flags (R110, R111). -/
def GivesLanesThat (i : Instr) (s : State) (lat : Nat) (d : Dst) (k : Small) (w n : Nat) (P : Nat → Nat → Prop) : Prop :=
  ∃ v fl, exec i s = .next (if fl = 0#8 then s.post lat (.vector d v) else (s.post lat (.vector d v)).post lat (.flags fl)) ∧
    ∀ j < n, if (s.gK k).getLsbD j then P j (laneGet w v j) else laneGet w v j =
      match d with | .reg m => laneGet w (s.core.regs.v.get m) j | .queue => 0

/-- The operation completes and posts one vector whose lanes are as `P` says, without flags. -/
def GivesVector (i : Instr) (s : State) (lat : Nat) (d : Dst) (w n : Nat) (P : Nat → Nat → Prop) : Prop :=
  ∃ v, exec i s = .next (s.post lat (.vector d v)) ∧ ∀ j < n, P j (laneGet w v j)

/-! ### Frames: nothing differs but the part named -/

def OnlyCore (s t : State) : Prop := { t with core := s.core } = s
def OnlyRegs (s t : State) : Prop := { t with core := { t.core with regs := s.core.regs } } = s
def OnlyFlow (s t : State) : Prop := { t with core := { t.core with flow := s.core.flow } } = s
def OnlyPort (s t : State) : Prop := { t with core := { t.core with port := s.core.port } } = s
def OnlyTasks (s t : State) : Prop := { t with core := { t.core with tasks := s.core.tasks } } = s
def OnlyMtx (s t : State) : Prop := { t with core := { t.core with mtx := s.core.mtx } } = s

/-- Only bytes at keys from `a` to `a + n - 1` differ. -/
def OnlyBytes (m m' : Mem) (a n : Nat) : Prop := ∀ k, (k < a ∨ a + n ≤ k) → memGet m' k = memGet m k

/-! ### What an engine does to memory -/

/-- The keys of some runs, in order. -/
def runKeys (rs : List Run) : List Nat := (rs.map fun r => (List.range r.2).map fun i => r.1 + i).flatten

/-- Memory is canonical and free of errors, and the core in focus is not provisional. -/
def Sound (s : State) : Prop := s.mem.wf = true ∧ s.bad = [] ∧ s.flips = [] ∧ s.core.prov = false

/-- Keys that are distinct, that only instructions of a program write, and that lie outside a barrier object; the object's own bytes are
ordinary too (R331). -/
def Apart (s : State) (ks : List Nat) (obj : Nat) : Prop :=
  ks.Nodup ∧ (∀ k ∈ ks, s.fgByte k = false ∧ (k < obj ∨ obj + 16 ≤ k)) ∧ ∀ j < 16, s.fgByte (obj + j) = false

/-- The bytes at some keys become `bs`, an object becomes `o`, and every other byte of memory stays. -/
def WritesAnd (m m' : Mem) (ks : List Nat) (bs : List Byte) (obj o : Nat) : Prop :=
  ks.length = bs.length ∧ (∀ i < ks.length, bs[i]? = some (memGet m' (ks.getD i 0))) ∧ memNat m' obj 16 = o % 2 ^ 128 ∧
  ∀ k, k ∉ ks → (k < obj ∨ obj + 16 ≤ k) → memGet m' k = memGet m k

/-- The bytes at some keys. -/
def bytesAt (m : Mem) (ks : List Nat) : List Byte := ks.map (memGet m)

/-! ### What a bundle runs -/

/-- Operations run one after another, each by `exec` at its slot position, from one state to another: each passes the checks that stand
before its own (R39, R281, R399) and issues; with `CHK` set none writes what a load still owes. `s` is the state at the bundle's read step. -/
def RunsInOrder (s : State) (b : Bundle) : State → List (Nat × Instr) → State → Prop
  | u, [], t => u = t
  | u, (p, i) :: r, t => s.opFault b p i = none ∧ ∃ v, exec i (u.atSlot p) = .next v ∧ v.core.flow.verdict = .issued ∧
      (s.core.ctl.chk = true → s.lateWrite v = none) ∧ RunsInOrder s b v r t

/-- The core in focus is due to issue: nothing is to be reported, no count runs, and its instruction words are good. -/
def Due (s : State) : Prop :=
  s.core.port.mcheck = none ∧ s.core.tasks.wait ≠ .exited ∧ s.core.flow.issued = false ∧ s.core.flow.skip = 0 ∧ s.core.flow.stall.getD s.core.stallOf = 0 ∧
  s.badFetch = false

end Sys2Proof.Machine
end

