-- ==== Sys2Proof/Certificates/Slice0/Obligations.lean ====
section
/-! DEFINITION. The statements for the provers, from the numbered rules of spec/. OBLIGATIONS.json lists them. -/

section
open Sys2Proof Sys2Proof.Machine

/-- R91: the sums, differences, shifts and rotates, as arithmetic on numbers (a count is B[5:0]); bitwise forms, copies, selection by a
predicate (p0 reads 1), sign extension. -/
def Obligations.ScalarSumsShiftsAndMoves : Prop :=
  ∀ (s : State) (d : Dst) (a b : Src) (n : BitVec 2) (p : Sys2Proof.Small),
    let x := s.gS a
    let y := s.gS b
    let c := y.toNat % 64
    GivesScalar (.add d a b) s 1 d (fun v => v.toNat = (x.toNat + y.toNat) % 2 ^ 64) ∧
    GivesScalar (.sub d a b) s 1 d (fun v => (v.toNat + y.toNat) % 2 ^ 64 = x.toNat) ∧
    GivesScalar (.lea d a b n) s 1 d (fun v => v.toNat = (x.toNat + y.toNat * 2 ^ n.toNat) % 2 ^ 64) ∧
    GivesScalar (.shl d a b) s 1 d (fun v => v.toNat = x.toNat * 2 ^ c % 2 ^ 64) ∧
    GivesScalar (.shr d a b) s 1 d (fun v => v.toNat = x.toNat / 2 ^ c) ∧
    GivesScalar (.sra d a b) s 1 d (fun v => v.toInt = x.toInt / 2 ^ c) ∧
    GivesScalar (.rol d a b) s 1 d (fun v => ∀ i < 64, v.getLsbD ((i + c) % 64) = x.getLsbD i) ∧
    GivesScalar (.and d a b) s 1 d (fun v => ∀ i < 64, v.getLsbD i = (x.getLsbD i && y.getLsbD i)) ∧
    GivesScalar (.or d a b) s 1 d (fun v => ∀ i < 64, v.getLsbD i = (x.getLsbD i || y.getLsbD i)) ∧
    GivesScalar (.xor d a b) s 1 d (fun v => ∀ i < 64, v.getLsbD i = (x.getLsbD i != y.getLsbD i)) ∧
    GivesScalar (.andn d a b) s 1 d (fun v => ∀ i < 64, v.getLsbD i = (x.getLsbD i && !y.getLsbD i)) ∧
    GivesScalar (.mov d a) s 1 d (fun v => v = x) ∧
    GivesScalar (.sel d a b p) s 1 d (fun v => v = if p = 0 ∨ s.core.regs.p.get p = true then x else y) ∧
    GivesScalar (.sextI8 d a) s 1 d (fun v => v.toInt = signed 8 x.toNat) ∧
    GivesScalar (.sextI16 d a) s 1 d (fun v => v.toInt = signed 16 x.toNat) ∧
    GivesScalar (.sextI32 d a) s 1 d (fun v => v.toInt = signed 32 x.toNat)

/-- R91: minima, maxima, WRAP, which keeps a ring index in [0, B) when A < 2B, and the three counts, each by what it counts. -/
def Obligations.ScalarExtremesRingAndCounts : Prop :=
  ∀ (s : State) (d : Dst) (a b : Src),
    let x := s.gS a
    let y := s.gS b
    GivesScalar (.minI64 d a b) s 1 d (fun v => v.toInt = min x.toInt y.toInt) ∧
    GivesScalar (.minN64 d a b) s 1 d (fun v => v.toNat = min x.toNat y.toNat) ∧
    GivesScalar (.maxI64 d a b) s 1 d (fun v => v.toInt = max x.toInt y.toInt) ∧
    GivesScalar (.maxN64 d a b) s 1 d (fun v => v.toNat = max x.toNat y.toNat) ∧
    GivesScalar (.wrap d a b) s 1 d (fun v =>
      v.toNat = (if y.toNat ≠ 0 ∧ y.toNat ≤ x.toNat then x.toNat - y.toNat else x.toNat) ∧
      (x.toNat < 2 * y.toNat → v.toNat < y.toNat)) ∧
    GivesScalar (.clz d a) s 1 d (fun v => v.toNat ≤ 64 ∧ (v.toNat = 64 ↔ x = 0#64) ∧
      (∀ i < 64, 64 ≤ i + v.toNat → x.getLsbD i = false) ∧ (v.toNat < 64 → x.getLsbD (63 - v.toNat) = true)) ∧
    GivesScalar (.ctz d a) s 1 d (fun v => v.toNat ≤ 64 ∧ (v.toNat = 64 ↔ x = 0#64) ∧
      (∀ i < v.toNat, x.getLsbD i = false) ∧ (v.toNat < 64 → x.getLsbD v.toNat = true)) ∧
    GivesScalar (.popc d a) s 1 d (fun v => v.toNat = ((List.range 64).filter fun i => x.getLsbD i).length)

/-- R92: BEXT and BINS bit by bit. -/
def Obligations.FieldExtractAndInsert : Prop :=
  ∀ (s : State) (d : Dst) (a b c : Src),
    let x := s.gS a
    let z := s.gS c
    let pos := (s.gS b).toNat % 64
    let len := min ((s.gS b).toNat / 64 % 128) 64
    GivesScalar (.bext d a b) s 1 d (fun v => ∀ i < 64, v.getLsbD i = (decide (i < len) && x.getLsbD (pos + i))) ∧
    GivesScalar (.bins d a b c) s 1 d (fun v => ∀ i < 64,
      v.getLsbD i = if pos ≤ i ∧ i < pos + len then z.getLsbD (i - pos) else x.getLsbD i)

/-- R94: products by their high and low halves; division by its defining equation; the zero divisor. -/
def Obligations.ScalarProductsAndQuotients : Prop :=
  ∀ (s : State) (d : Dst) (a b : Src),
    let x := s.gS a
    let y := s.gS b
    GivesScalar (.mul d a b) s 3 d (fun v => v.toNat = x.toNat * y.toNat % 2 ^ 64) ∧
    GivesScalar (.mulhI64 d a b) s 3 d (fun v => ∃ lo : Nat, lo < 2 ^ 64 ∧ x.toInt * y.toInt = v.toInt * 2 ^ 64 + lo) ∧
    GivesScalar (.mulhN64 d a b) s 3 d (fun v => ∃ lo : Nat, lo < 2 ^ 64 ∧ x.toNat * y.toNat = v.toNat * 2 ^ 64 + lo) ∧
    (y ≠ 0#64 →
      GivesScalar (.divN64 d a b) s 20 d (fun v => v.toNat * y.toNat ≤ x.toNat ∧ x.toNat < (v.toNat + 1) * y.toNat) ∧
      GivesScalar (.remN64 d a b) s 20 d (fun v => v.toNat < y.toNat ∧ ∃ q, x.toNat = y.toNat * q + v.toNat) ∧
      GivesScalar (.divI64 d a b) s 20 d (fun v =>
        if x.toInt = -2 ^ 63 ∧ y.toInt = -1 then v.toInt = -2 ^ 63
        else (v.toInt * y.toInt).natAbs ≤ x.toInt.natAbs ∧ (x.toInt - v.toInt * y.toInt).natAbs < y.toInt.natAbs ∧
          0 ≤ (x.toInt - v.toInt * y.toInt) * x.toInt) ∧
      GivesScalar (.remI64 d a b) s 20 d (fun v =>
        v.toInt.natAbs < y.toInt.natAbs ∧ 0 ≤ v.toInt * x.toInt ∧ ∃ q, x.toInt = y.toInt * q + v.toInt)) ∧
    (y = 0#64 → ∀ i ∈ [Instr.divI64 d a b, .divN64 d a b, .remI64 d a b, .remN64 d a b],
      exec i s = .next ((s.post 20 (.scalar d (BitVec.allOnes 64))).post 20 (.flags 0x02#8)))

/-- R95, R96: each condition by the order it names; predicates with p0 read as 1. -/
def Obligations.ComparesAndPredicates : Prop :=
  ∀ (s : State) (p pa pb : Small) (a b : Src) (imm : BitVec 15),
    (let x := s.gS a
     let orders := fun (form : Cond → Instr) (y : Word) =>
      GivesPred (form .eq) s p (x = y) ∧ GivesPred (form .ne) s p (x ≠ y) ∧
      GivesPred (form .ltI) s p (x.toInt < y.toInt) ∧ GivesPred (form .leI) s p (x.toInt ≤ y.toInt) ∧
      GivesPred (form .gtI) s p (y.toInt < x.toInt) ∧ GivesPred (form .geI) s p (y.toInt ≤ x.toInt) ∧
      GivesPred (form .ltN) s p (x.toNat < y.toNat) ∧ GivesPred (form .leN) s p (x.toNat ≤ y.toNat) ∧
      GivesPred (form .gtN) s p (y.toNat < x.toNat) ∧ GivesPred (form .geN) s p (y.toNat ≤ x.toNat)
     orders (fun cc => .cmp p cc a b) (s.gS b) ∧ ∀ y : Word, y.toInt = imm.toInt → orders (fun cc => .cmpImm p cc a imm) y) ∧
    (let q := fun n : Small => n = 0 ∨ s.core.regs.p.get n = true
     GivesPred (.pand p pa pb) s p (q pa ∧ q pb) ∧ GivesPred (.por p pa pb) s p (q pa ∨ q pb) ∧ GivesPred (.pnot p pa) s p (¬ q pa))

/-- R93, R97: the immediate forms and the constants. -/
def Obligations.ImmediateForms : Prop :=
  ∀ (s : State) (d : Dst) (a : Src) (imm : BitVec 17) (n : BitVec 6) (r : RegNo) (w : BitVec 22),
    let x := s.gS a
    let c := n.toNat
    let im := fun i : Nat => if i < 17 then imm.getLsbD i else imm.getLsbD 16
    GivesScalar (.addImm d a imm) s 1 d (fun v => (v.toNat : Int) = ((x.toNat : Int) + imm.toInt) % 2 ^ 64) ∧
    GivesScalar (.mulImm d a imm) s 3 d (fun v => (v.toNat : Int) = ((x.toNat : Int) * imm.toInt) % 2 ^ 64) ∧
    GivesScalar (.andImm d a imm) s 1 d (fun v => ∀ i < 64, v.getLsbD i = (x.getLsbD i && im i)) ∧
    GivesScalar (.orImm d a imm) s 1 d (fun v => ∀ i < 64, v.getLsbD i = (x.getLsbD i || im i)) ∧
    GivesScalar (.xorImm d a imm) s 1 d (fun v => ∀ i < 64, v.getLsbD i = (x.getLsbD i != im i)) ∧
    GivesScalar (.shlImm d a n) s 1 d (fun v => v.toNat = x.toNat * 2 ^ c % 2 ^ 64) ∧
    GivesScalar (.shrImm d a n) s 1 d (fun v => v.toNat = x.toNat / 2 ^ c) ∧
    GivesScalar (.sraImm d a n) s 1 d (fun v => v.toInt = x.toInt / 2 ^ c) ∧
    GivesScalar (.rolImm d a n) s 1 d (fun v => ∀ i < 64, v.getLsbD ((i + c) % 64) = x.getLsbD i) ∧
    GivesScalar (.li d w) s 1 d (fun v => v.toInt = w.toInt) ∧
    GivesScalar (.lih r w) s 1 (.reg r) (fun v => v.toNat = ((s.core.regs.g.get r).toNat * 2 ^ 22 + w.toNat) % 2 ^ 64)

/-- R31 to R33: result writes, with their frame. A write of a whole register also ends its uncorrectable error (R399), so the list of bad
units may change. -/
def Obligations.ResultWritesReachTheirRegister : Prop :=
  ∀ (s : State) (p : Pending), s.core.port.nextPend = some p → p.due ≤ s.core.unf →
    let r := s.core.regs
    Completes .resultWrite s fun t =>
      let r' := t.core.regs
      match p.act with
      | .scalar d v =>
        (∀ m : RegNo, r'.g.get m = if d = .reg m then v else r.g.get m) ∧ r'.q = (v :: r.q).take 16 ∧
        r' = { r with g := r'.g, q := r'.q } ∧
        t = { s with bad := t.bad, core := { s.core with regs := r', port := { s.core.port with pend := s.core.port.pend.erase p } } }
      | .vector d v =>
        (∀ m : RegNo, r'.v.get m = if d = .reg m then v else r.v.get m) ∧ r'.vq = (v :: r.vq).take 16 ∧
        r' = { r with v := r'.v, vq := r'.vq } ∧
        t = { s with bad := t.bad, core := { s.core with regs := r', port := { s.core.port with pend := s.core.port.pend.erase p } } }
      | .pred n b =>
        (∀ m : Sys2Proof.Small, r'.p.get m = if m = n ∧ n ≠ 0 then b else r.p.get m) ∧ r' = { r with p := r'.p } ∧
        t = { s with core := { s.core with regs := r', port := { s.core.port with pend := s.core.port.pend.erase p } } }
      | .mask n m' =>
        (∀ m : Sys2Proof.Small, r'.k.get m = if m = n ∧ n ≠ 0 then m' else r.k.get m) ∧ r' = { r with k := r'.k } ∧
        t = { s with core := { s.core with regs := r', port := { s.core.port with pend := s.core.port.pend.erase p } } }
      | .link v =>
        (∀ m : RegNo, r'.g.get m = if m = 15 then v else r.g.get m) ∧ r' = { r with g := r'.g } ∧
        t = { s with bad := t.bad, core := { s.core with regs := r', port := { s.core.port with pend := s.core.port.pend.erase p } } }
      | _ => t.core.regs = r

/-- R40, R42, R105, R130, R287, R368: results that write control state. -/
def Obligations.ControlResultsTakeEffect : Prop :=
  ∀ (s : State),
    -- an event that lands
    (let c := s.core
     let gone := fun (e : Nat × Nat) => { c.port with events := c.port.events.erase e }
     ∀ e, (c.port.events.find? fun e => decide (e.1 ≤ c.unf)) = some e →
      (e.2 ≠ c.name → Completes .eventLanding s fun t => t = { s with
        core := { c with port := gone e }
        others := s.others.map fun x =>
          if x.name = e.2 ∧ x.tasks.wait ≠ .exited then { x with ctl := { x.ctl with latch := true } } else x }) ∧
      (e.2 = c.name → Completes .eventLanding s fun t => t = { s with core := { c with
        port := gone e, ctl := { c.ctl with latch := c.ctl.latch || c.tasks.wait != .exited } } })) ∧
    ((∀ e ∈ s.core.port.events, s.core.unf < e.1) → exec .eventLanding s = .next s) ∧
    ∀ (p : Pending), s.core.port.nextPend = some p → p.due ≤ s.core.unf →
    let c := s.core
    let same := fun (t : State) => t.core.regs = c.regs ∧ t.mem = s.mem ∧ t.core.exc = c.exc ∧ t.core.port.pend = c.port.pend.erase p
    (p.act = .cvadv → Completes .resultWrite s fun t => same t ∧ t.core.flow = { c.flow with cur := c.flow.nxt, nxt := 0#32, cursor := 0#5 }) ∧
    (∀ m, p.act = .condNext m → Completes .resultWrite s fun t => same t ∧ t.core.flow = { c.flow with nxt := m }) ∧
    (∀ f, p.act = .flags f → Completes .resultWrite s fun t => same t ∧
      t.core.ctl = { c.ctl with flags := t.core.ctl.flags } ∧
      ∀ i < 8, t.core.ctl.flags.getLsbD i = (c.ctl.flags.getLsbD i || f.getLsbD i)) ∧
    (∀ v, p.act = .ctl 0x00E#12 v → Completes .resultWrite s fun t => same t ∧
      t.core.ctl = { c.ctl with flags := t.core.ctl.flags } ∧
      ∀ i < 8, t.core.ctl.flags.getLsbD i = (c.ctl.flags.getLsbD i && !v.getLsbD i)) ∧
    (∀ v, p.act = .ctl 0x00F#12 v → Completes .resultWrite s fun t => same t ∧
      t.core.ctl = { c.ctl with latch := c.ctl.latch && !v.getLsbD 0 }) ∧
    (∀ v, p.act = .ctl 0x00A#12 v → Completes .resultWrite s fun t => same t ∧
      t.core.flow = { c.flow with cur := t.core.flow.cur, cursor := t.core.flow.cursor } ∧
      t.core.flow.cur.toNat = v.toNat % 2 ^ 32 ∧ t.core.flow.cursor.toNat = v.toNat / 2 ^ 32 % 32) ∧
    (∀ v, p.act = .ctl 0x203#12 v → Completes .resultWrite s fun t => same t ∧ t.core.ctl = c.ctl ∧
      t.keyctl = if s.keyctl.getLsbD 0 then s.keyctl else v) ∧
    (∀ side bf, p.act = .latch side bf → Completes .scaleLatchWrite s fun t => same t ∧ t.core.mtx = { c.mtx with latch := some (side, bf) }) ∧
    -- results of the engines
    (∀ zs, p.act = .scratch zs → (zs.map Prod.fst).Nodup → (∀ z ∈ zs, z.1 < 4096) → cwf 0#32 c.spe.z = true →
      Completes .resultWrite s fun t => same t ∧ t.core.spe.shapes = c.spe.shapes ∧ (∀ z ∈ zs, cget 0#32 t.core.spe.z z.1 = z.2) ∧
        ∀ j, j ∉ zs.map Prod.fst → cget 0#32 t.core.spe.z j = cget 0#32 c.spe.z j) ∧
    (∀ zs, p.act = .tile zs → (zs.map Prod.fst).Nodup → cwf 0#32 s.tiles = true → Completes .resultWrite s fun t => same t ∧
      (∀ z ∈ zs, cget 0#32 t.tiles z.1 = z.2) ∧ ∀ j, j ∉ zs.map Prod.fst → cget 0#32 t.tiles j = cget 0#32 s.tiles j) ∧
    (∀ n, p.act = .zeroTile n → Completes .resultWrite s fun t => same t ∧
      ∀ j, cget 0#32 t.tiles j = if j / 4096 = n then 0#32 else cget 0#32 s.tiles j) ∧
    (∀ n o, p.act = .bind n o → Completes .resultWrite s fun t => same t ∧ t.core.mtx.nest = c.mtx.nest ∧
      ∀ m : RegNo, t.core.mtx.streams.get m = if m = n then ⟨(c.mtx.streams.get n).bits, o⟩ else c.mtx.streams.get m) ∧
    (∀ es, p.act = .defer es → Completes .resultWrite s fun t => same t ∧ t.core.dq = c.dq ++ es) ∧
    (∀ e f fs, p.act = .fork e → c.tasks.frames = f :: fs → Completes .resultWrite s fun t => same t ∧
      t.core.tasks = { c.tasks with deque := e :: c.tasks.deque, frames := { f with count := f.count + 1 } :: fs }) ∧
    (∀ n, p.act = .freeze n → Completes .resultWrite s fun t => same t ∧ t.core.owed = max c.owed n)

/-- R103: the transfer of a plain header. -/
def Obligations.HeaderTransferChoosesTheNextWord : Prop :=
  ∀ (s : State) (l : Bool) (stall : BitVec 4) (xc : Xc) (tb : Sys2Proof.Small) (ext : BitVec 14),
    let c := s.core
    let holds := fun n : Fin 7 => c.regs.p.get n.succ = true
    let bit := c.flow.cur.getLsbD c.flow.cursor.toNat = true
    let take : Prop := match xc with
      | .never => False
      | .always => True
      | .pred n => holds n
      | .notPred n => ¬ holds n
      | .cv => bit
      | .notCv => ¬ bit
    let cv : Prop := xc = .cv ∨ xc = .notCv
    let i := Instr.headerTransfer l stall xc tb ext
    let e := c.flow.tb.get tb
    let ret := (c.flow.pc.toNat + 1 + (if l then 1 else 0)) % 4096
    (c.urg = true ∧ cv → TrapsIllop i s) ∧
    (take ∧ e.st = .empty → TrapsIllop i s) ∧
    (¬ (c.urg = true ∧ cv) → ¬ take → Completes i s fun t => OnlyFlow s t ∧
      t.core.flow.nextPc.toNat = ret ∧ (t.core.flow.advance = true ↔ cv) ∧
      t.core.flow = { c.flow with nextPc := t.core.flow.nextPc, advance := t.core.flow.advance }) ∧
    (¬ (c.urg = true ∧ cv) → take → e.st ≠ .empty → Completes i s fun t =>
      t.core.flow = { c.flow with nextPc := e.target, prefetch := e.words, advance := t.core.flow.advance } ∧
      (t.core.flow.advance = true ↔ cv) ∧
      t.core.port = { c.port with pend := t.core.port.pend } ∧
      t.core.port.pend = c.port.pend ++ (if e.lk then [⟨c.unf + 1, c.unf, c.flow.slot, .link (.ofNat 64 ret)⟩] else []) ∧
      t.core.lost = max c.lost (e.readyAt - c.clock) ∧
      t = { s with core := { c with flow := t.core.flow, port := t.core.port, lost := t.core.lost } })

/-- R102, R107: the target buffer. That the `TRAPINFO` of a monitor word (R382) holds the word is the model's choice (log entry 155). -/
def Obligations.TargetPreparationAndRefill : Prop :=
  ∀ (s : State) (tb : Sys2Proof.Small) (lk : Bool) (off : BitVec 22) (a : Src),
    let c := s.core
    let fills := fun (i : Instr) (target : Nat) => Completes i s fun t => OnlyFlow s t ∧
      t.core.flow = { c.flow with tb := t.core.flow.tb } ∧
      (∀ m, m ≠ tb → t.core.flow.tb.get m = c.flow.tb.get m) ∧
      (let e := t.core.flow.tb.get tb
       e.st = .filling ∧ e.target.toNat = target ∧ e.lk = lk ∧ e.readyAt = c.clock + 4 ∧
       ∀ j < 8, cget none e.words ((target + j) % 4096) = some (cget 0#128 c.imem ((target + j) % 4096)))
    let rel := (c.flow.pc.toNat : Int) + off.toInt
    -- words 0 to 2,047 of a firmware core are the monitor's
    let monitors := fun (n : Nat) => c.fw = true ∧ c.exc.level = 1#2 ∧ n < 2048
    (∀ n : Nat, n < 4096 → rel = n →
      (¬ monitors n → fills (.ptb tb lk off) n) ∧ (monitors n → Traps (.ptb tb lk off) s 5 (.ofNat 64 n))) ∧
    (rel < 0 ∨ 4096 ≤ rel → TrapsIllop (.ptb tb lk off) s) ∧
    ((s.gS a).toNat < 4096 → (¬ monitors (s.gS a).toNat → fills (.ptbReg tb lk a) (s.gS a).toNat) ∧
      (monitors (s.gS a).toNat → Traps (.ptbReg tb lk a) s 5 (s.gS a))) ∧
    (4096 ≤ (s.gS a).toNat → TrapsIllop (.ptbReg tb lk a) s) ∧
    ((c.flow.tb.get tb).st = .filling → (c.flow.tb.get tb).readyAt ≤ c.clock → Completes (.tbReady tb) s fun t => OnlyFlow s t ∧
      t.core.flow = { c.flow with tb := t.core.flow.tb } ∧
      ∀ m, t.core.flow.tb.get m = if m = tb then { c.flow.tb.get tb with st := .ready } else c.flow.tb.get m) ∧
    Completes .isync s fun t => OnlyFlow s t ∧ t.core.flow = { c.flow with tb := t.core.flow.tb, prefetch := [] } ∧
      ∀ m, let e := c.flow.tb.get m
        let e' := t.core.flow.tb.get m
        if e.st = .empty then e' = e else
          e'.st = .filling ∧ e'.target = e.target ∧ e'.lk = e.lk ∧ e'.readyAt = c.clock + 4 ∧
          ∀ j < 8, cget none e'.words ((e.target.toNat + j) % 4096) = some (cget 0#128 c.imem ((e.target.toNat + j) % 4096))

/-- R48, R58, R105, R108, R224: lock spans, split cycles, NOP, CVADV, the drift of pts. The model's choices: that the banks of a hold that has
not ended stay held beside those of the next header (log entry 42), and that a header waits for the hold of another context of its core (log
entry 146). -/
def Obligations.LockHeadersAndSmallEffects : Prop :=
  ∀ (s : State) (l : Bool) (stall : BitVec 4) (cnt : BitVec 3) (banks : BitVec 16),
    let c := s.core
    let f := c.flow
    let i := Instr.lockHeader l stall cnt banks
    let taken := ∃ x ∈ s.others, x.id = c.id ∧ ∃ h, x.flow.hold = some h ∧ h.banks &&& banks ≠ 0#16
    (f.lock ≠ none → Traps i s 7 (.ofNat 64 (f.pc.toNat + f.slot * 4096))) ∧
    (f.lock = none → taken → WaitsFor i s .lockBanks) ∧
    (f.lock = none → ¬ taken → Completes i s fun t => OnlyFlow s t ∧
      ∃ held, t.core.flow = { f with lock := some ⟨cnt.toNat + 2, banks⟩, hold := some held } ∧
        held.issues = c.unf :: (match f.hold with | some h => h.issues | none => []) ∧
        ∀ j < 16, held.banks.getLsbD j = (banks.getLsbD j || (match f.hold with | some h => h.banks.getLsbD j | none => false))) ∧
    (∀ h, f.hold = some h → f.lock = none → (∀ a ∈ c.port.sched, a.issue ∉ h.issues) →
      Completes .lockHoldEnd s fun t => (s.held = [] → t.core.flow.hold = none) ∧
        (s.held = [] → t = { s with core := { c with flow := { f with hold := none } } })) ∧
    exec .nop s = .next s ∧
    (Completes .splitCycle s fun t => t = { s with core := { c with lost := max c.lost 1 } }) ∧
    (c.urg = false → exec .cvadv s = .next (s.post 1 .cvadv)) ∧ (c.urg = true → TrapsIllop .cvadv s) ∧
    (c.port.drift ≤ c.clock → Completes .ptsDrift s fun t => OnlyPort s t ∧
      t.core.port = { c.port with pts := c.port.pts + 1, drift := c.port.drift + 64 })

/-- R41, R106, R350, R368: what CTLR reads, and who may. -/
def Obligations.ControlRegisterReads : Prop :=
  ∀ (s : State) (d : Dst) (idx : BitVec 12),
    let c := s.core
    let lvl := c.exc.level.toNat
    let n := idx.toNat
    let gives := fun (k : Nat) (x : Nat) => n = k → GivesScalar (.ctlr d idx) s 1 d fun v => v.toNat = x
    let b := fun (x : Bool) => if x then 1 else 0
    let barred := c.urg = true ∧ n ∈ [0x001, 0x008, 0x00A, 0x00B, 0x00C, 0x00D, 0x010, 0x011]
    (¬ barred →
      gives 0x000 (b c.ctl.chk + 2 * b c.urg) ∧ gives 0x001 (b c.ctl.solo + 2 * b c.ctl.own) ∧
      gives 0x002 ((c.clock - c.ctl.releasedAt) % 2 ^ 64) ∧ gives 0x003 (c.id % 2048) ∧ gives 0x004 c.ctl.vcore.toNat ∧
      gives 0x005 c.ctl.gang.toNat ∧ gives 0x006 c.ctl.inst.toNat ∧ gives 0x007 c.ctl.extent.toNat ∧
      gives 0x008 (c.dq.length % 2 ^ 64) ∧ gives 0x009 c.ctl.slotmap.toNat ∧
      gives 0x00A (c.flow.cur.toNat + c.flow.cursor.toNat * 2 ^ 32) ∧ gives 0x00B (b c.ctl.spemode) ∧ gives 0x00C c.ctl.speqs.toNat ∧
      gives 0x00D c.ctl.adjoff.toNat ∧ gives 0x00E c.ctl.flags.toNat ∧
      gives 0x00F (b c.ctl.latch + 2 * b (!c.port.rollback.isEmpty)) ∧ gives 0x010 c.ctl.lrfirst.toNat ∧ gives 0x011 c.ctl.lrlast.toNat) ∧
    (1 ≤ lvl →
      gives 0x100 c.exc.trapvec.toNat ∧ gives 0x101 c.exc.trappc.toNat ∧ gives 0x102 (c.exc.cause.toNat + c.exc.plvl.toNat * 256) ∧
      gives 0x103 c.exc.info.toNat ∧ gives 0x104 (c.exc.asid.toNat + c.exc.ttlo.toNat * 2 ^ 16 + c.exc.tthi.toNat * 2 ^ 28) ∧
      gives 0x105 (c.exc.ptroot.toNat * 4096) ∧ gives 0x106 lvl ∧
      gives 0x107 (b c.exc.allow + 2 * b c.exc.pend + 4 * b c.exc.active)) ∧
    (2 ≤ lvl → gives 0x200 s.partmap.toNat ∧ gives 0x201 s.depthtab.toNat ∧ gives 0x202 s.fwslot.toNat ∧ gives 0x203 s.keyctl.toNat) ∧
    (barred → TrapsIllop (.ctlr d idx) s) ∧
    (lvl = 0 ∧ 0x100 ≤ n ∧ n < 0x200 → TrapsPriv (.ctlr d idx) s n) ∧
    (lvl < 2 ∧ 0x200 ≤ n ∧ n < 0x300 → TrapsPriv (.ctlr d idx) s n) ∧
    (0x011 < n ∧ n < 0x100 ∨ 0x107 < n ∧ n < 0x200 ∧ 1 ≤ lvl ∨ 0x203 < n ∧ n < 0x300 ∧ 2 ≤ lvl ∨ 0x300 ≤ n → TrapsIllop (.ctlr d idx) s)

/-- R106, R350, R363, R368: CTLW. The registers with a row of their own are listed with their index. -/
def Obligations.ControlRegisterWrites : Prop :=
  ∀ (s : State) (a : Src),
    let c := s.core
    let lvl := c.exc.level.toNat
    let v := s.gS a
    let n := v.toNat
    let part := s.partOf c.id
    let lo := n / 2 ^ 16 % 4096
    let hi := n / 2 ^ 28 % 4096
    let badAsid := hi < lo ∨ s.split = true ∧ (n / 2 ^ 14 % 4 ≠ part ∨ lo < 1024 * part ∨ 1024 * part + 1023 < hi)
    let busy := (∃ y ∈ s.cores, y.launch ≠ none) ∨ ∃ q ∈ s.queues, q.res = true
    let badMap := n % 2 = 1 ∧ (n / 2 % 16 = 0 ∨ n / 2 ^ 8 % 256 < 20 ∨ 40 < n / 2 ^ 8 % 256)
    -- a register with a least level, a value that it does not take, and what of it is reserved
    let writes := fun (i : Instr) (idx : BitVec 12) (least : Nat) (bad : Prop) =>
      let x := idx.toNat
      let barred := c.urg = true ∧ x ∈ [0x001, 0x008, 0x00A, 0x00B, 0x00C, 0x00D, 0x010, 0x011]
      let reserved := n &&& ctlRz x ≠ 0
      (lvl < least → TrapsPriv i s x) ∧
      (least ≤ lvl → barred ∨ reserved ∨ bad → TrapsIllop i s) ∧
      (least ≤ lvl → ¬ barred → ¬ reserved → ¬ bad → exec i s = .next (s.post 1 (.ctl idx v)))
    (∀ idx : BitVec 12, let x := idx.toNat
      (x ≤ 0x011 ∨ 0x100 ≤ x ∧ x ≤ 0x107 ∨ 0x200 ≤ x ∧ x ≤ 0x203) → x ∉ [0x001, 0x00A, 0x00F, 0x104, 0x105, 0x200, 0x203] →
      writes (.ctlw idx a) idx (if x ≤ 0x011 then 0 else if 0x200 ≤ x then 2 else 1) False) ∧
    writes (.ctlwCvcur a) 0x00A#12 0 False ∧ writes (.ctlwEvt a) 0x00F#12 0 False ∧ writes (.ctlwAsid a) 0x104#12 2 badAsid ∧
    writes (.ctlwPtroot a) 0x105#12 2 False ∧ writes (.ctlwPartmap a) 0x200#12 2 (busy ∨ badMap) ∧
    writes (.ctlwKeyctl a) 0x203#12 2 False

/-- R142: CTLW of `ARRMODE`. That a write which leaves the mode as it is waits too is the model's reading of R142 (log entry 47). -/
def Obligations.ArrayModeWrites : Prop :=
  ∀ (s : State) (a : Src), s.core.urg = false → (s.gS a).toNat < 4 →
    let c := s.core
    let solo := (s.gS a).getLsbD 0
    let i := Instr.ctlwArrmode a
    let foreign := solo ≠ c.ctl.solo ∧ s.partnerForeign = true
    let notOwner := solo = false ∧ c.ctl.solo = true ∧ c.ctl.own = false
    let earlier := fun (x : Core) => ∃ j ∈ x.mtx.arrQ, match j with | .mgo n => n.issue ≠ x.unf | .mepi e => e.issue ≠ x.unf
    let busy := earlier c ∨ ∃ x, s.coreAt (c.id ^^^ 1) = some x ∧ earlier x
    (foreign ∨ notOwner → TrapsIllop i s) ∧
    (¬ foreign → ¬ notOwner → busy → WaitsFor i s .arrayWork) ∧
    (¬ foreign → ¬ notOwner → ¬ busy → exec i s = .next (s.post 1 (.solo solo)))

/-- R406, R411, R412: trap entry of a core with nothing pending, the trap instructions, and ERET. The report of the array's or a `.com` error
(R408 ORIGIN 2, 3, 8) also clears what it reports; the causes named here carry none. -/
def Obligations.TrapEntryAndReturn : Prop :=
  ∀ (s : State) (code : BitVec 17) (a : Src),
    let c := s.core
    let next := c.flow.pc + .ofNat 12 c.flow.len
    let level : BitVec 2 := if c.fw then 2#2 else 1#2
    let enters := fun (t : State) (cause : BitVec 8) (info : Word) (pc : BitVec 12) =>
      let e := t.core.exc
      e.cause = cause ∧ e.plvl = c.exc.level ∧ e.info = info ∧ e.trappc = pc ∧ e.level = level ∧ e.entering = none ∧
      t.core.flow.pc = c.exc.trapvec ∧ t.core.resumeAt = some (c.clock + 4) ∧
      (∃ sh, e.shadow = some sh ∧ sh.q = c.regs.q ∧ sh.vq = c.regs.vq ∧ sh.tb = c.flow.tb ∧ sh.cur = c.flow.cur ∧ sh.nxt = c.flow.nxt ∧
        sh.cursor = c.flow.cursor ∧ sh.latch = c.mtx.latch ∧
        (c.exc.shadow = none → sh.unf = c.unf - c.exc.drains ∧ sh.chunks = c.port.chunks ∧ sh.events = c.port.events) ∧
        ∀ o, c.exc.shadow = some o → sh.unf = o.unf) ∧
      t.core.regs = c.regs ∧ t.core.ctl = c.ctl ∧ t.mem = s.mem ∧ e.trapvec = c.exc.trapvec
    ((c.fw = true ∨ c.exc.level ≠ 1#2) → c.prov = false → c.port.pend = [] → c.port.landings = [] → c.port.sched = [] → c.owed = 0 → c.lost = 0 →
      (Completes (.trap code) s fun t => enters t 0x0B#8 (.ofNat 64 code.toNat) next) ∧
      (c.exc.level ≠ 2#2 → Completes (.sysc a) s fun t => enters t 0x0C#8 (s.gS a) next) ∧
      (c.exc.level = 2#2 → Completes (.sysc a) s fun t => enters t 1#8 (.ofNat 64 (c.flow.pc.toNat + c.flow.slot * 4096)) c.flow.pc) ∧
      (Completes .bkpt s fun t => enters t 0x0D#8 (.ofNat 64 c.flow.pc.toNat) next)) ∧
    (c.exc.level = 0#2 → TrapsPriv .eret s 0) ∧
    (1 ≤ c.exc.level.toNat → c.exc.level.toNat < c.exc.plvl.toNat → TrapsIllop .eret s) ∧
    (1 ≤ c.exc.level.toNat → c.exc.plvl.toNat ≤ c.exc.level.toNat → c.drained = false → WaitsFor .eret s .drain) ∧
    (1 ≤ c.exc.level.toNat → c.exc.plvl.toNat ≤ c.exc.level.toNat → c.drained = true → ∀ sh, c.exc.shadow = some sh →
      Completes .eret s fun t => OnlyCore s t ∧
        t.core.exc = { c.exc with level := c.exc.plvl, shadow := none } ∧ t.core.flow.nextPc = c.exc.trappc ∧
        t.core.regs = { c.regs with q := sh.q, vq := sh.vq } ∧ t.core.mtx.latch = sh.latch ∧ t.core.unf = sh.unf ∧
        t.core.flow.cur = sh.cur ∧ t.core.flow.nxt = sh.nxt ∧ t.core.flow.cursor = sh.cursor ∧ t.core.trapFrozen = true ∧
        ∀ m, let e := sh.tb.get m
          t.core.flow.tb.get m = if e.st = .empty then e else { e with st := .filling, readyAt := c.clock + 4 })

/-- R406, R409, R412, R431: TRAP_ENTRY, TRAP_FORWARD, TRAP_RESUME, and the monitor's service of a SYSC. That the monitor handles a trap in one
event, and no instruction of it is executed, is the model's choice (log entry 45); so is the coding of the requests (log entry 154). -/
def Obligations.TrapDrainForwardResume : Prop :=
  ∀ (s : State) (q : TrapReq) (code : BitVec 17),
    let c := s.core
    let forwarded := c.fw = false ∧ c.exc.level = 1#2
    let pends := c.port.pend ≠ [] ∨ c.port.landings ≠ [] ∨ c.port.sched ≠ [] ∨ c.owed ≠ 0 ∨ c.lost ≠ 0
    -- the record that the monitor of the core's die keeps
    let recorded := fun (t : State) => s.logV.length + 2 ≤ 4096 → s.logD.length + 2 ≤ 4096 →
      ∃ r ∈ (if c.die then t.logD else t.logV), r.cls = 2#4 ∧ r.cause = q.code ∧ r.detail = q.info ∧
        r.src = .ofNat 16 (11 * 4096 + if c.die then 1 else 0)
    (c.prov = false → pends ∨ forwarded → Completes (.trap code) s fun t =>
      t.core.exc = { c.exc with entering := some ⟨0x0B#8, c.flow.slot, .ofNat 64 code.toNat, true, false⟩ } ∧ t.core.regs = c.regs ∧
      t.mem = s.mem ∧ t.core.flow.pc = c.flow.pc ∧ t.core.port.pend = c.port.pend ∧ t.core.port.landings = c.port.landings ∧
      t.core.port.sched = c.port.sched ∧ t.core.lost = c.lost) ∧
    (c.exc.entering = some q → pends → exec .trapEntry s = .next s ∧ ∀ g, exec (.trapForward g) s = .next s) ∧
    (c.exc.entering = some q → c.prov = false → c.stopped = false → ¬ forwarded → ¬ pends →
      Completes .trapEntry s fun t => OnlyCore s t ∧ t.core.exc.cause = q.code ∧ t.core.exc.info = q.info ∧ t.core.exc.plvl = c.exc.level ∧
        t.core.exc.entering = none ∧ t.core.exc.shadow ≠ none ∧ t.core.flow.pc = c.exc.trapvec ∧ t.core.regs = c.regs ∧
        t.core.exc.trappc = (if q.next then c.flow.pc + .ofNat 12 c.flow.len else c.flow.pc)) ∧
    (c.exc.entering = some q → c.prov = false → forwarded → ¬ pends →
      (q.code = 0x0C#8 →
        let resumes := fun (t : State) => t.core.regs = c.regs ∧ t.core.flow.pc = c.flow.pc + .ofNat 12 c.flow.len ∧
          t.core.resumeAt = some (c.clock + 4) ∧ t.core.exc.entering = none ∧ t.core.exc.level = c.exc.level ∧ t.mem = s.mem ∧ recorded t
        Completes (.trapForward true) s fun t =>
          match Config.request q.info with
          | .other => resumes t ∧ t.core.exc = { c.exc with entering := none, drains := 0 } ∧ t.others = s.others ∧ t.boot = s.boot
          | .raiseSvn v => resumes t ∧ t.others = s.others ∧ t.boot = if s.mayRaise v then { s.boot with svn := v } else s.boot
          | .context n asid lo hi root => n ≠ c.name → resumes t ∧ ∀ k, s.coreAt n = some k →
            t.coreAt n = some { k with exc := { k.exc with asid := asid, ttlo := lo, tthi := hi, ptroot := root } }
          | _ => True) ∧
      (c.launch = none → c.port.chunks = [] → s.held = [] → Completes (.trapForward false) s fun t =>
        recorded t ∧ t.core.tasks.wait = .exited ∧ t.core.exc.entering = none ∧ t.core.regs = c.regs ∧ t.mem = s.mem)) ∧
    (c.trapFrozen = true → (∀ n ∈ s.gang, ∀ x, s.coreAt n = some x → x.exc.shadow = none ∧ x.exc.entering = none) →
      c.name ∈ s.gang → Completes .trapResume s fun t =>
        t.core.trapFrozen = false ∧ t.core.resumeAt = none ∧ c.clock ≤ t.core.clock ∧ c.resumeAt.getD 0 ≤ t.core.clock ∧
        t.core.regs = c.regs ∧ t.mem = s.mem) ∧
    (c.fw = true → c.exc.level = 2#2 → c.exc.plvl = 1#2 → c.exc.cause = 0x0C#8 → c.exc.shadow ≠ none →
      let returns := fun (t : State) => t.core.exc.level = 1#2 ∧ t.core.exc.shadow = none ∧
        t.core.flow.pc = c.exc.trappc ∧ t.core.regs.g = c.regs.g
      Completes .monitorTrapHandle s fun t =>
        match Config.request c.exc.info with
        | .other => OnlyCore s t ∧ returns t
        | .depthtab v => returns t ∧ t.mem = s.mem ∧ t.depthtab = v
        | .raiseSvn v => returns t ∧ t.mem = s.mem ∧ t.boot = if s.mayRaise v then { s.boot with svn := v } else s.boot
        | .context n asid lo hi root => n ≠ c.name → returns t ∧ t.mem = s.mem ∧
          (hi < lo ∨ asid = 0#16 ∨ (s.split = true ∧ (asid.toNat / 2 ^ 14 ≠ s.partOf n ∨ lo.toNat < 1024 * s.partOf n)) →
            t.others = s.others) ∧
          (s.contextOk n asid lo hi root = true → ∀ k, s.coreAt n = some k →
            t.coreAt n = some { k with exc := { k.exc with asid := asid, ttlo := lo, tthi := hi, ptroot := root } })
        | _ => True)

/-- R98, R100, R212: the request of a scalar load; with MODE.CHK a bank conflict with an earlier access is CHKSTALL (R215). That the
landing-buffer limit is judged after the window and before translation, and that a load with D = 0 lands in the next cycle, are the model's
choices (log entries 24, 29). -/
def Obligations.LoadRequests : Prop :=
  ∀ (s : State) (d : Dst) (a : Src) (sz : BitVec 2) (sx : Bool) (off : BitVec 6) (dl : Delay),
    let n := 2 ^ sz.toNat
    let addr := (((s.gS a).toNat + off.toInt * n) % 2 ^ 64).toNat
    let c := s.core
    let delay := dl.lat.toNat * 4 ^ dl.e.toNat
    let lands := fun (need : Nat) => c.port.landings ++
      [(⟨c.unf + max delay 1, c.unf, c.flow.slot, .scalar d n sx, none, true, none, false, true, need - delay⟩ : Landing)]
    let loads := fun (i : Instr) (acq : Bool) =>
      (addr % n ≠ 0 → Traps i s 6 (.ofNat 64 addr)) ∧
      (addr % n = 0 → s.window c addr n = none → Traps i s 5 (.ofNat 64 addr)) ∧
      (addr % n = 0 → ∀ w o, s.window c addr n = some (w, o) →
        ((acq = true ∧ w.scheduled = true) ∨ s.landingRoom = false → TrapsIllop i s) ∧
        (w.scheduled = true → acq = false → s.landingRoom = true →
          let k := SchedKind.load 0#1024 [⟨0, s.keyOf c w o, n⟩] (.ofNat 64 addr)
          let miss := if c.ctl.chk then s.missedBank (c.unf + min delay w.offset) k else none
          (∀ b, miss = some b → Traps i s 3 (.ofNat 64 (c.flow.pc.toNat + c.flow.slot * 4096 + 2 ^ 15 + b * 2 ^ 16))) ∧
          (miss = none → Completes i s fun t => OnlyPort s t ∧ t.core.port = { c.port with
            landings := lands w.latency, sched := c.port.sched ++ [⟨c.unf + min delay w.offset, c.unf, c.flow.slot, k⟩] })) ∧
        (w.scheduled = false → s.landingRoom = true → ∀ key, s.checkKey w o false false = .ok key → Completes i s fun t => OnlyPort s t ∧
          t.core.port = { c.port with landings := lands 0, seq := c.port.seq + 1, cohQ := c.port.cohQ ++
            [⟨c.port.seq, c.unf, c.flow.slot, .load 0#1024 [⟨0, key, n⟩] (.ofNat 64 addr) acq⟩] }) ∧
        (w.scheduled = false → s.landingRoom = true → ∀ q, s.checkKey w o false false = .miss q → Completes i s fun t =>
          t.core.flow.verdict = .waits .tlbMiss ∧ t.core.port = { c.port with walk := some q, walkOwn := s.bundleStores } ∧ t.core.regs = c.regs ∧ t.mem = s.mem) ∧
        (w.scheduled = false → s.landingRoom = true → ∀ code info late, s.checkKey w o false false = .bad code info late →
          exec i s = .next (s.takeTrap ⟨.ofNat 8 code, c.flow.slot, info, false, late⟩)))
    loads (.ld d a sz sx off dl) false ∧ loads (.ldAcq d a sz sx off dl) true

/-- R99 to R101: the request of a scalar store; R312 holds some stores of a provisional instance: to a host-mapped page, and past the room
of the provisional store buffer. -/
def Obligations.StoreRequests : Prop :=
  ∀ (s : State) (b a : Src) (sz : BitVec 2) (off : BitVec 15),
    let n := 2 ^ sz.toNat
    let addr := s.storeAddr a sz off
    let c := s.core
    let piece := fun (key : Nat) (p : StorePiece) => p.key = key ∧ p.data.length = n ∧
      ∀ j < n, p.data[j]? = some (.ofNat 8 ((s.gS b).toNat / 256 ^ j))
    (addr : Int) = ((s.gS a).toNat + off.toInt * n) % 2 ^ 64 ∧
    let stores := fun (i : Instr) (rel : Bool) =>
      (addr % n ≠ 0 → Traps i s 6 (.ofNat 64 addr)) ∧
      (addr % n = 0 → s.window c addr n = none → Traps i s 5 (.ofNat 64 addr)) ∧
      (addr % n = 0 → ∀ w o, s.window c addr n = some (w, o) →
        (rel = true → w.scheduled = true → TrapsIllop i s) ∧
        (w.scheduled = true → rel = false → ∃ p, piece (s.keyOf c w o) p ∧
          let miss := if c.ctl.chk then s.missedBank (c.unf + w.offset) (.store [p]) else none
          (∀ b, miss = some b → Traps i s 3 (.ofNat 64 (c.flow.pc.toNat + c.flow.slot * 4096 + 2 ^ 15 + b * 2 ^ 16))) ∧
          (miss = none → Completes i s fun t => OnlyPort s t ∧
            t.core.port = { c.port with sched := c.port.sched ++ [⟨c.unf + w.offset, c.unf, c.flow.slot, .store [p]⟩] })) ∧
        (w.scheduled = false → ∀ key, s.checkKey w o true false = .ok key →
          (s.heldHost [(key, n)] = true → WaitsFor i s .provisional) ∧
          (c.prov = false → s.heldHost [(key, n)] = false) ∧
          (∀ x, c.prov = true → s.instOf c = some x → isHostKey key = true → s.heldHost [(key, n)] = true) ∧
          (s.heldHost [(key, n)] = false → Completes i s fun t => OnlyPort s t ∧ ∃ p, piece key p ∧
            t.core.port = { c.port with seq := c.port.seq + 1, cohQ := c.port.cohQ ++ [⟨c.port.seq, c.unf, c.flow.slot, .store [p] rel⟩] })))
    stores (.st b a sz off) false ∧ stores (.stRel b a sz off) true

/-- R214, R224: stores as they are performed, with the memory frame; (F, G) words, which only the Scruple writes, are left out (R331). -/
def Obligations.StoresPerformTheirBytesOnly : Prop :=
  ∀ (s : State) (p : StorePiece), s.mem.wf = true → (∀ j < p.data.length, s.fgByte (p.key + j) = false) →
    let c := s.core
    let stored := fun (t : State) => OnlyBytes s.mem t.mem p.key p.data.length ∧
      (∀ j < p.data.length, p.data[j]? = some (memGet t.mem (p.key + j))) ∧ t.mem.wf = true ∧ t.core.regs = c.regs ∧ t.core.ctl = c.ctl
    (∀ a, s.domain = [c.name] → c.port.sched = [a] → a.kind = .store [p] → a.due ≤ c.unf →
      Completes .scheduledAccessPerform s fun t => stored t ∧ t.core.port.sched = [] ∧ t.core.port.pts = c.port.pts) ∧
    (∀ a r rel, c.port.cohQ = a :: r → a.kind = .store [p] rel → c.prov = false →
      (rel = true → ∀ j ∈ c.port.cq0 ++ c.port.cq1, a.seq ≤ j.seq) →
      let line := cget (0, 0) s.lines (p.key / 256)
      let before := if rel then max c.port.pts c.port.stamp else c.port.pts
      let ts := max before (line.2 + 1)
      Completes (if rel then .stRelPerform else .coherentAccessPerform) s fun t => stored t ∧ t.core.port.cohQ = r ∧
        (isHostKey p.key = false → t.core.port.pts = ts ∧ cget (0, 0) t.lines (p.key / 256) = (ts, ts)) ∧
        (isHostKey p.key = true → t.core.port.pts = before ∧ t.lines = s.lines)) ∧
    (∀ a r rel, c.port.cohQ = a :: r → a.kind = .store [p] rel → rel = true →
      (∃ j ∈ c.port.cq0 ++ c.port.cq1, j.seq < a.seq) → exec .stRelPerform s = .next s) ∧
    -- a provisional core's store enters no memory but the buffer of its instance (R236)
    (∀ a r rel slot idx l, c.port.cohQ = a :: r → a.kind = .store [p] rel → c.prov = true → c.launch = some (slot, idx) →
      (rel = true → ∀ j ∈ c.port.cq0 ++ c.port.cq1, a.seq ≤ j.seq) → s.launchAt slot = some l →
      Completes (if rel then .stRelPerform else .coherentAccessPerform) s fun t => t.mem = s.mem ∧ t.lines = s.lines ∧ t.core.regs = c.regs ∧
        t.core.port.cohQ = r ∧ t.core.port.pts = c.port.pts ∧
        t.launchAt slot = some { l with insts := l.insts.map fun i => if i.idx = idx then { i with buf := i.buf ++ [p] } else i })

/-- R212, R214, R224: what a load obtains. -/
def Obligations.LoadsObtainMemorysBytes : Prop :=
  ∀ (s : State) (a : Sched) (q : Coh) (r : List Coh) (l : Landing) (key n : Nat) (addr : Word) (acq : Bool),
    s.flips = [] → s.bad = [] →
    let c := s.core
    let v := some (BitVec.ofNat 1024 (memNat s.mem key n))
    -- what the core sees at a coherent key (R236)
    let own := fun (k : Nat) => if c.prov then (s.instOf c).bind fun i => bufByte i.buf k else none
    let seen := some (BitVec.ofNat 1024 (bytesNat ((List.range n).map fun j => (own (key + j)).getD (memGet s.mem (key + j)))))
    (s.domain = [c.name] → c.port.sched = [a] → a.kind = .load 0#1024 [⟨0, key, n⟩] addr → a.due ≤ c.unf →
      c.port.landings = [l] → l.issue = a.issue → l.slot = a.slot → l.val = none →
      Completes .scheduledAccessPerform s fun t => t.mem = s.mem ∧ t.core.regs = c.regs ∧ t.core.port.sched = [] ∧
        t.core.port.landings = [{ l with val := v, valid := true, bad := none, arrived := true }]) ∧
    (c.port.cohQ = q :: r → q.kind = .load 0#1024 [⟨0, key, n⟩] addr acq → isHostKey key = false → c.port.region = [] → c.port.comQ = [] →
      (∀ x ∈ c.port.l1 ++ s.l2d, x.line ≠ key / 256) → c.port.landings = [l] → l.issue = q.issue → l.slot = q.slot → l.val = none →
      let line := cget (0, 0) s.lines (key / 256)
      Completes .coherentAccessPerform s fun t => t.mem = s.mem ∧ t.core.regs = c.regs ∧ t.core.port.cohQ = r ∧
        t.core.port.landings = [{ l with val := seen, valid := true, bad := none, arrived := false }] ∧
        t.core.port.pts = max c.port.pts line.1 ∧
        cget (0, 0) t.lines (key / 256) = (line.1, max line.2 (c.port.pts + 32)) ∧
        ∃ x ∈ t.core.port.l1, x.line = key / 256 ∧ x.wts = line.1 ∧ x.rts = max line.2 (c.port.pts + 32)) ∧
    (c.port.landings = [l] → l.val ≠ none → Completes (.landingDataArrival l.issue l.slot) s fun t => OnlyPort s t ∧
      t.core.port = { c.port with landings := [{ l with arrived := true }] })

/-- R36, R98, R400: landings. -/
def Obligations.LandingsWriteTheirDestination : Prop :=
  ∀ (s : State) (l : Landing) (v : Vec), s.core.nextLanding = some l → l.val = some v → l.due ≤ s.core.unf → l.arrived = true →
    let c := s.core
    let r := c.regs
    Completes .landing s fun t =>
      let r' := t.core.regs
      t.mem = s.mem ∧ t.core.owed = max c.owed l.need ∧ t.core.ctl = c.ctl ∧ t.core.exc = c.exc ∧ t.core.flow = c.flow ∧
      t.core.port.landings = c.port.landings.filter (fun x => !(x.issue == l.issue && x.slot == l.slot)) ∧
      (l.bad ≠ none → r' = r ∧ (l.dst ≠ .mepi → t.core.port.mcheck ≠ none)) ∧
      (l.bad = none → t.core.port = { c.port with landings := t.core.port.landings, pts := t.core.port.pts } ∧
        ((∀ d, l.dst ≠ .notice d) → t.core.port.pts = c.port.pts) ∧
        match l.dst with
        | .scalar d n sx => ∃ w : Word, (if sx then w.toInt = signed (8 * n) v.toNat ∨ 8 < n else w.toNat = v.toNat % 2 ^ (8 * n) % 2 ^ 64) ∧
            (∀ m : RegNo, r'.g.get m = if d = .reg m then w else r.g.get m) ∧ r'.q = (w :: r.q).take 16 ∧ r' = { r with g := r'.g, q := r'.q }
        | .vector d => (∀ m : RegNo, r'.v.get m = if d = .reg m then v else r.v.get m) ∧ r'.vq = (v :: r.vq).take 16 ∧
            r' = { r with v := r'.v, vq := r'.vq }
        | .vldv d k => (∀ m : RegNo, r'.v.get m = if d = .reg m then (if l.valid then v else 0#1024) else r.v.get m) ∧
            (∀ m : Sys2Proof.Small, r'.k.get m = if m = k ∧ k ≠ 0 then (if l.valid then 0xFFFFFFFF#32 else 0#32) else r.k.get m)
        | .stream n => r' = r ∧ ∀ m : RegNo, t.core.mtx.streams.get m = if m = n then ⟨v.setWidth 256, none⟩ else c.mtx.streams.get m
        | .nest => r' = r ∧ t.core.mtx = { c.mtx with nest := v.setWidth 256 }
        | .notice d =>
            let w : Word := .ofNat 64 v.toNat
            (∀ m : RegNo, r'.g.get m = if d = .reg m then w else r.g.get m) ∧ r'.q = (w :: r.q).take 16 ∧ r' = { r with g := r'.g, q := r'.q } ∧
            t.core.port.pts = max c.port.pts (v.toNat / 2 ^ 64)
        | .shape n => r' = r ∧ t.core.spe.z = c.spe.z ∧ (cwf 0#256 c.spe.shapes = true →
            (∀ i < 256, (cget 0#256 t.core.spe.shapes n).getLsbD i =
              (v.getLsbD i && decide (i < 30 ∨ (32 ≤ i ∧ i < 55) ∨ (64 ≤ i ∧ i < 176)))) ∧
            ∀ m, m ≠ n → cget 0#256 t.core.spe.shapes m = cget 0#256 c.spe.shapes m)
        | .mepi => r' = r ∧ t.core.mtx = { c.mtx with arrQ := t.core.mtx.arrQ } ∧
            ∀ before e after, c.mtx.arrQ = before ++ .mepi e :: after → e.desc = none →
              (∀ e', ArrJob.mepi e' ∈ before → e'.desc ≠ none) →
              t.core.mtx.arrQ = before ++ .mepi { e with desc := some (.ofNat 512 v.toNat), bad := false } :: after)

/-- R353, R355 to R362: the end of a walk. Levels count from 0 at the root. -/
def Obligations.PageWalksFillTheTlbs : Prop :=
  ∀ (s : State) (q : WalkReq) (table : Nat → Nat) (d : Nat), s.core.port.walk = some q →
    let c := s.core
    let entry := fun (i : Nat) => memNat s.mem (table i + 8 * walkIndex q.va i) 8
    let frame := fun (i : Nat) => entry i / 2 ^ 8 % 2 ^ 48 * 256
    let bit := fun (i j : Nat) => (entry i).testBit j = true
    let tables := fun (i : Nat) => if i < 3 then 4096 else 256
    let page := if d = 1 then 2 ^ 30 else if d = 2 then 2 ^ 21 else 2 ^ 16
    let leaf := bit d 1
    -- an entry whose reserved fields are zero, of a next table and of a page
    let clean := fun (i : Nat) => entry i / 2 ^ 6 % 4 = 0 ∧ entry i / 2 ^ 56 = 0
    let points := fun (i : Nat) => bit i 0 ∧ ¬ bit i 1 ∧ i < 3 ∧ clean i ∧ entry i / 4 % 16 = 0 ∧ frame i % tables (i + 1) = 0
    let maps := clean d ∧ d ≠ 0 ∧ frame d % page = 0
    let inRange := if bit d 4 then s.hostRange c (frame d) page = true else s.walkRange c (frame d) page = true
    let waits := c.stopped = true ∨ ∃ a ∈ c.port.cohQ, ∃ ps rel, a.kind = .store ps rel
    let found := s.ctlb.find? fun e => e.1 == clusterOf c.id && e.2.hits c.exc.asid q.va && (e.2.denies c.exc.level.toNat q.write q.atomic).isNone
    let ends := fun (P : State → Prop) => Completes .pageWalkComplete s fun t => t.core.port.walk = none ∧ t.core.regs = c.regs ∧
      t.core.exc = c.exc ∧ t.mem = s.mem ∧ P t
    let faults := fun (sub : BitVec 3) => ends fun t => t.core.port.walkFault = c.port.walkFault ++ [(q, sub)] ∧
      t.core.port.walkBad = c.port.walkBad ∧ ∀ e ∈ t.core.port.tlb, e ∈ c.port.tlb
    (waits → exec .pageWalkComplete s = .next s) ∧
    (¬ waits → ends fun _ => True) ∧
    (¬ waits → ∀ z, found = some z → ends fun t => z.2 ∈ t.core.port.tlb ∧ t.ctlb = s.ctlb ∧ t.core.port.walkFault = c.port.walkFault) ∧
    (¬ waits → found = none → s.walkRange c (c.exc.ptroot.toNat * 4096) 4096 = false → faults 5) ∧
    (¬ waits → found = none → s.walkRange c (c.exc.ptroot.toNat * 4096) 4096 = true →
      s.badBytes (c.exc.ptroot.toNat * 4096 + 8 * walkIndex q.va 0) 8 = true →
      ends fun t => t.core.port.walkBad = c.port.walkBad ++ [q] ∧ t.core.port.walkFault = c.port.walkFault) ∧
    (¬ waits → found = none → c.prov = false → s.bad = [] → s.flips = [] → c.port.walkOwn = [] →
      (∀ x ∈ c.port.l1 ++ s.l2d, x.data = lineData s.mem x.line) →
      -- the tables on the way to level d
      d ≤ 3 → table 0 = c.exc.ptroot.toNat * 4096 → (∀ i < d, points i ∧ table (i + 1) = frame i) →
      (∀ i ≤ d, s.walkRange c (table i) (tables i) = true) →
      (¬ bit d 0 → faults 1) ∧
      (bit d 0 → ¬ (if leaf then maps else points d) → faults 2) ∧
      (points d → s.walkRange c (frame d) (tables (d + 1)) = false → faults 5) ∧
      (bit d 0 → leaf → maps → ¬ inRange → faults 5) ∧
      (bit d 0 → leaf → maps → inRange →
        let low := c.exc.level = 0#2 ∧ ¬ bit d 3
        let ro := (q.write = true ∨ q.atomic = true) ∧ ¬ bit d 2
        (low → faults 4) ∧ (¬ low → ro → faults 3) ∧ (¬ low → ¬ ro → q.atomic = true → bit d 4 → faults 6) ∧
        (¬ low → ¬ ro → ¬ (q.atomic = true ∧ bit d 4) → ends fun t =>
          let e : TlbEntry := ⟨c.exc.asid, (entry d).testBit 5, q.va / page * page, page, frame d, (entry d).testBit 2, (entry d).testBit 3,
            (entry d).testBit 4⟩
          e ∈ t.core.port.tlb ∧ (clusterOf c.id, e) ∈ t.ctlb ∧ t.core.port.walkFault = c.port.walkFault ∧
          (c.exc.level.toNat < 2 → (∀ f ∈ c.port.walkFault, f.1 ≠ q) → q ∉ c.port.walkBad →
            t.translate q.va q.write q.atomic =
              .ok (if (entry d).testBit 4 then keyHost (frame d + q.va % page) else frame d + q.va % page)))))

/-- R247 to R251: the request of an AMO and of a CAS. Only the forms that have an encoding are asked about: SWAP and CAS have no `.com`.
That the landing-buffer limit is judged after the window and before translation (log entry 24), and which
admissible value a `.qua` or `.spc` atomic returns (10), are the model's choices. -/
def Obligations.AtomicRequests : Prop :=
  ∀ (s : State) (a b c' : Src) (ty : AtTy) (use : AtUse) (dl : Delay) (w : Bool),
    let c := s.core
    let addr := (s.gS a).toNat
    let delay := dl.lat.toNat * 4 ^ dl.e.toNat
    let landing : Landing := ⟨c.unf + max delay 1, c.unf, c.flow.slot, .scalar .queue 8 false, none, true, none, false, true, 0⟩
    let refuses := fun (i : Instr) (n : Nat) (com : Bool) =>
      (addr % n ≠ 0 → Traps i s 6 (.ofNat 64 addr)) ∧
      (addr % n = 0 → s.window c addr n = none → Traps i s 5 (.ofNat 64 addr)) ∧
      (addr % n = 0 → ∀ x o, s.window c addr n = some (x, o) →
        (x.scheduled = true → TrapsIllop i s) ∧ (com = false → s.landingRoom = false → TrapsIllop i s) ∧
        (x.scheduled = false → (com = true ∨ s.landingRoom = true) → c.prov = true → WaitsFor i s .provisional))
    let request := fun (i : Instr) (n : Nat) (kind : Nat → CohKind) =>
      ∀ x o key, addr % n = 0 → s.window c addr n = some (x, o) → x.scheduled = false → s.landingRoom = true → c.prov = false →
        s.checkKey x o true true = .ok key → Completes i s fun t => OnlyPort s t ∧
          t.core.port = { c.port with landings := c.port.landings ++ [landing], seq := c.port.seq + 1,
                                      cohQ := c.port.cohQ ++ [⟨c.port.seq, c.unf, c.flow.slot, kind key⟩] }
    let n := match ty with | .i64 | .n64 => 8 | _ => 4
    let early := fun (key m : Nat) => if c.port.cohQ = [] ∧ c.port.comQ = [] then some (memNat s.mem key m) else none
    let returns := fun (op : AtOp) (i : Instr) =>
      use ≠ .com → refuses i n false ∧ request i n fun key => .atomic op ty use key (s.gS b) (.ofNat 64 addr) (early key n)
    let combines := fun (op : AtOp) (i : Instr) =>
      use = .com → refuses i n true ∧ ∀ y o key, addr % n = 0 → s.window c addr n = some (y, o) → y.scheduled = false → c.prov = false →
        s.checkKey y o true true = .ok key → Completes i s fun t => OnlyPort s t ∧
          t.core.port = { c.port with comQ := c.port.comQ ++ [⟨c.port.seq, c.unf, op, ty, key, s.gS b, .ofNat 64 addr⟩], seq := c.port.seq + 1 }
    let both := fun (op : AtOp) (i : Instr) => returns op i ∧ combines op i
    both .add (.amoAdd a b ty use dl) ∧ both .and (.amoAnd a b ty use dl) ∧ both .or (.amoOr a b ty use dl) ∧
    both .xor (.amoXor a b ty use dl) ∧ both .min (.amoMin a b ty use dl) ∧ both .max (.amoMax a b ty use dl) ∧
    returns .swap (.amoSwap a b ty use dl) ∧
    (use ≠ .com → let m := if w then 4 else 8
      refuses (.cas a b c' w use dl) m false ∧
      request (.cas a b c' w use dl) m fun key => .cas use key m (s.gS b) (s.gS c') (.ofNat 64 addr) (early key m))

/-- R248, R249, R251: the values that atomics store and return; (F, G) words are left out (R331). Which admissible value a `.qua` or `.spc`
atomic returns is the model's choice (log entry 10). -/
def Obligations.AtomicsUpdateTheirLocation : Prop :=
  ∀ (s : State) (q : Coh) (r : List Coh) (l : Landing) (op : AtOp) (ty : AtTy) (key : Nat) (b e : Word) (addr : Word) (early : Option Nat),
    s.mem.wf = true → s.bad = [] → s.flips = [] →
    let c := s.core
    let n := match ty with | .i64 | .n64 => 8 | _ => 4
    let x := memNat s.mem key n
    let y := b.toNat % 2 ^ (8 * n)
    let result := match op with
      | .add => (x + y) % 2 ^ (8 * n)
      | .and => x &&& y
      | .or => x ||| y
      | .xor => x ^^^ y
      | .swap => y
      | .min => if (signed (8 * n) x ≤ signed (8 * n) y ∧ (ty = .i64 ∨ ty = .i32)) ∨ (x ≤ y ∧ (ty = .n64 ∨ ty = .n32)) then x else y
      | .max => if (signed (8 * n) x ≤ signed (8 * n) y ∧ (ty = .i64 ∨ ty = .i32)) ∨ (x ≤ y ∧ (ty = .n64 ∨ ty = .n32)) then y else x
    let ret : Vec := if ty = .i32 then (BitVec.ofInt 64 (signed 32 x)).setWidth 1024 else BitVec.ofNat 1024 x
    let line := cget (0, 0) s.lines (key / 256)
    let ts := max c.port.pts (line.2 + 1)
    let mine := c.port.landings = [l] ∧ l.issue = q.issue ∧ l.slot = q.slot ∧ l.val = none ∧ c.port.comQ = []
    (∀ j < n, s.fgByte (key + j) = false) → isHostKey key = false →
    (c.port.cohQ = q :: r → q.kind = .atomic op ty .sc key b addr early → mine →
      Completes .coherentAccessPerform s fun t => memNat t.mem key n = result ∧ OnlyBytes s.mem t.mem key n ∧ t.mem.wf = true ∧
        t.core.port.landings = [{ l with val := some ret, valid := true, bad := none, arrived := false }] ∧
        t.core.port.cohQ = r ∧ t.core.port.pts = ts ∧ cget (0, 0) t.lines (key / 256) = (ts, ts) ∧ t.core.regs = c.regs) ∧
    (c.port.cohQ = q :: r → q.kind = .cas .sc key n b e addr early → mine →
      Completes .coherentAccessPerform s fun t =>
        memNat t.mem key n = (if x = y then e.toNat % 2 ^ (8 * n) else x) ∧ OnlyBytes s.mem t.mem key n ∧
        t.core.port.landings = [{ l with val := some (BitVec.ofNat 1024 x), valid := true, bad := none, arrived := false }] ∧
        t.core.port.pts = ts ∧ t.core.regs = c.regs) ∧
    (∀ seq issue rest, c.port.comQ = ⟨seq, issue, op, ty, key, b, addr⟩ :: rest →
      (∀ a ∈ c.port.cohQ, ∀ ps, a.kind = .store ps true → seq ≤ a.seq) →
      Completes .comAtomicApply s fun t => memNat t.mem key n = result ∧ OnlyBytes s.mem t.mem key n ∧ t.core.port.comQ = rest ∧
        t.core.port.landings = c.port.landings ∧ t.core.regs = c.regs)

/-- R228, R233, R252, R433: FENCE and FENCE.X. That FENCE.X also takes the clocks of the scopes that its scope holds is the model's reading
(log entry 126). What a fence counts, and when a relaxed atomic becomes visible, are the model's readings (log entries 30, 31). -/
def Obligations.FencesWaitAndMergeClocks : Prop :=
  ∀ (s : State) (sc : Scope),
    let c := s.core
    let wide := sc = .package ∨ sc = .system
    let old := fun (n : Nat) => n < c.unf
    let relaxed := (∃ a ∈ c.port.cohQ, old a.issue ∧
        ((∃ op ty use k b ad e, a.kind = .atomic op ty use k b ad e ∧ use ≠ .sc) ∨ (∃ use k n b d ad e, a.kind = .cas use k n b d ad e ∧ use ≠ .sc))) ∨
      (∃ a ∈ c.port.comQ, old a.issue) ∨ ∃ a ∈ c.port.cacheOps, old a.issue
    let access := (∃ a ∈ c.port.cohQ, old a.issue) ∨
      (∃ o ∈ c.port.region, match o with | .vstv j .. | .vldv j .. => old j) ∨
      ∃ a ∈ c.port.sched, old a.issue
    let copies := ∃ j ∈ c.port.cq0 ++ c.port.cq1, old j.issue
    let pending := fun (x : Bool) => relaxed ∨ (x = true ∧ access) ∨ (wide ∧ copies)
    let gang := cget 0 s.scopeGang c.gangKey
    let ens := cget 0 s.scopeEns c.ensKey
    let ts := match sc with
      | .core => c.port.pts
      | .gang => max c.port.pts gang
      | .ensemble => max (max c.port.pts gang) ens
      | _ => max (max (max c.port.pts gang) ens) s.scopePkg
    let fences := fun (i : Instr) (x : Bool) =>
      (c.prov = true ∧ wide → WaitsFor i s .provisional) ∧
      (¬ (c.prov = true ∧ wide) → pending x → WaitsFor i s .fence) ∧
      (¬ (c.prov = true ∧ wide) → ¬ pending x → ∀ info, c.port.comErr = some info →
        exec i s = .next (s.takeTrap ⟨0x0A#8, c.flow.slot, info, false, true⟩)) ∧
      (¬ (c.prov = true ∧ wide) → ¬ pending x → c.port.comErr = none → Completes i s fun t =>
        t.core.regs = c.regs ∧ t.mem = s.mem ∧ t.lines = s.lines ∧ t.core.port.relaxed = [] ∧
        (∀ y ∈ t.core :: t.others, ∀ l ∈ y.port.l1, l.line ∉ c.port.relaxed) ∧ (∀ l ∈ t.l2d, l.line ∉ c.port.relaxed) ∧
        (x = false → t.core.port.pts = c.port.pts ∧ t.scopeGang = s.scopeGang ∧ t.scopeEns = s.scopeEns ∧ t.scopePkg = s.scopePkg) ∧
        (x = true → t.core.port.pts = ts ∧
          (sc = .gang → cwf 0 s.scopeGang = true → cget 0 t.scopeGang c.gangKey = ts) ∧
          (sc = .ensemble → cwf 0 s.scopeEns = true → cget 0 t.scopeEns c.ensKey = ts) ∧
          (wide → t.scopePkg = ts)))
    fences (.fence sc) false ∧ fences (.fenceX sc) true

/-- R244, R245: the barrier-object instructions of a core that is not provisional. That BOINIT, BOARM and BOWAIT stand in the core's own
order is the model's reading (log entry 32). -/
def Obligations.BarrierObjectInstructions : Prop :=
  ∀ (s : State) (a b : Src), s.core.prov = false →
    let c := s.core
    let addr := (s.gS a).toNat
    let n := (s.gS b).toNat
    let trap := fun (t : Instr → State → Prop) => t (.boinit a b) s ∧ t (.boarm a b) s ∧ t (.bowait a) s
    (addr % 16 ≠ 0 → trap fun i s => Traps i s 6 (.ofNat 64 addr)) ∧
    (addr % 16 = 0 → s.window c addr 16 = none → trap fun i s => Traps i s 5 (.ofNat 64 addr)) ∧
    (addr % 16 = 0 → ∀ w o, s.window c addr 16 = some (w, o) →
      (w = .global ∨ w = .lane → trap TrapsIllop) ∧
      (w = .chip ∨ w = .shared ∨ w = .spad →
        let key := s.keyOf c w o
        let updates := fun (i : Instr) (arm : Bool) =>
          (2 ^ 28 ≤ n → TrapsIllop i s) ∧
          (n < 2 ^ 28 → w ≠ .chip → Completes i s fun t => OnlyPort s t ∧ t.core.port = { c.port with
            sched := c.port.sched ++ [⟨c.unf + w.offset, c.unf, c.flow.slot, .bo key n arm⟩] }) ∧
          (n < 2 ^ 28 → w = .chip → Completes i s fun t => OnlyPort s t ∧ t.core.port = { c.port with
            seq := c.port.seq + 1, cohQ := c.port.cohQ ++ [⟨c.port.seq, c.unf, c.flow.slot, .bo key n arm⟩] })
        updates (.boinit a b) false ∧ updates (.boarm a b) true ∧
        (s.objPending key = true → WaitsFor (.bowait a) s (.barrierObject key)) ∧
        (s.objPending key = false → s.bad = [] → s.flips = [] →
          let obj := memNat s.mem key 16
          let armed := obj / 2 ^ 58 % 2 = 1
          let fault := obj / 2 ^ 57 % 2 = 1
          let cause := obj / 2 ^ 59 % 16
          (fault → exec (.bowait a) s = .next (s.takeTrap
            ⟨if cause = 0xA then 0xA#8 else 9#8, c.flow.slot, s.codeAddr c 1 addr, false, true⟩)) ∧
          (¬ fault → armed → WaitsFor (.bowait a) s (.barrierObject key)) ∧
          (¬ fault → ¬ armed → Completes (.bowait a) s fun t => OnlyPort s t ∧
            t.core.port = { c.port with pts := max c.port.pts (obj / 2 ^ 64 % 2 ^ 64) }))))

/-- R239 to R242: BO_ADDITION, field by field; (F, G) words are left out (R331). -/
def Obligations.BarrierObjectAdditions : Prop :=
  ∀ (s : State) (key n stamp : Nat), s.mem.wf = true → (∀ j < 16, s.fgByte (key + j) = false) → stamp < 2 ^ 64 →
    let o := memNat s.mem key 16
    let f := fun (x lo w : Nat) => x / 2 ^ lo % 2 ^ w
    let arr := f o 28 28 + n
    let sum := min arr (2 ^ 28 - 1)
    let remote := fun (j : CommJob) => j.obj = key ∧ ∃ p w l, j.op = .sendRemote p w l n
    ((∀ j ∈ s.core.port.nq, ¬ remote j) → s.lockedRuns [(key, 16)] = true → exec (.boAddition key n stamp) s = .next s) ∧
    (∀ j r, s.core.port.nq = j :: r → remote j → (∀ x ∈ r, x.seq ≠ j.seq ∧ ∀ m k, x.op ≠ .report m k) →
      s.core.port.objBefore key j.toIssued = true → Completes (.boAddition key n stamp) s fun t => OnlyPort s t ∧
        t.core.port = { s.core.port with nq := { j with op := .report n 0 } :: r }) ∧
    -- a provisional instance's own update of a coherent object
    (∀ slot idx, s.core.prov = true → isCohKey key = true → s.core.launch = some (slot, idx) → (∀ j ∈ s.core.port.nq, ¬ remote j) →
      s.lockedRuns [(key, 16)] = false → exec (.boAddition key n stamp) s = .next (s.modInst slot idx fun i =>
        { i with buf := i.buf ++ [⟨key, natBytes (boAdd (s.viewNat s.core (memGet s.mem) key 16) n stamp) 16⟩] })) ∧
    (s.core.prov = false → (∀ j ∈ s.core.port.nq, ¬ remote j) → s.lockedRuns [(key, 16)] = false → Completes (.boAddition key n stamp) s fun t =>
      let o' := memNat t.mem key 16
      OnlyBytes s.mem t.mem key 16 ∧ t.mem.wf = true ∧ t.core.regs = s.core.regs ∧
      f o' 64 64 = max (f o 64 64) stamp ∧ f o' 0 28 = f o 0 28 ∧
      (if f o 58 1 = 1 ∧ f o 0 28 ≤ sum then f o' 56 1 ≠ f o 56 1 ∧ f o' 58 1 = 0 ∧ f o' 28 28 = sum - f o 0 28
       else f o' 56 1 = f o 56 1 ∧ f o' 58 1 = f o 58 1 ∧ f o' 28 28 = sum) ∧
      (arr < 2 ^ 28 → f o' 57 1 = f o 57 1 ∧ f o' 59 4 = f o 59 4) ∧
      (2 ^ 28 ≤ arr → f o' 57 1 = 1 ∧ f o' 59 4 = if f o 57 1 = 0 then 9 else f o 59 4))

/-- R246: the cache operations. That pages without a translation are skipped is the model's reading (log entry 35). -/
def Obligations.CacheOperations : Prop :=
  ∀ (s : State) (a b : Src),
    let c := s.core
    let addr := (s.gS a).toNat
    let n := (s.gS b).toNat
    let queued := fun (drop : Bool) (t : State) => OnlyPort s t ∧
      t.core.port = { c.port with cacheOps := c.port.cacheOps ++ [⟨c.unf, addr, n, drop⟩] }
    (n = 0 → exec (.cwb a b) s = .next s ∧ exec (.cinv a b) s = .next s) ∧
    (n ≠ 0 → s.window c addr n = none → 
      ((s.window c addr 1 = none → s.spanFault addr = addr) ∧ addr ≤ s.spanFault addr ∧
        Traps (.cwb a b) s 5 (.ofNat 64 (s.spanFault addr)) ∧ Traps (.cinv a b) s 5 (.ofNat 64 (s.spanFault addr)))) ∧
    (n ≠ 0 → ∀ w o, s.window c addr n = some (w, o) → w.scheduled = true →
      exec (.cwb a b) s = .next s ∧ exec (.cinv a b) s = .next s) ∧
    (n ≠ 0 → ∀ w o, s.window c addr n = some (w, o) → w.scheduled = false →
      Completes (.cwb a b) s (queued false) ∧ Completes (.cinv a b) s (queued true)) ∧
    (∀ o r, c.port.cacheOps = o :: r → Completes .cacheOpComplete s fun t =>
      t.mem = s.mem ∧ t.others = s.others ∧ t.core = { c with port := t.core.port } ∧
      t.core.port = { c.port with cacheOps := r, l1 := t.core.port.l1 } ∧ (o.drop = false → t.core.port.l1 = c.port.l1) ∧
      (∀ l, l ∈ t.core.port.l1 ↔ l ∈ c.port.l1 ∧ (o.drop = true → s.reaches o l.line = false)) ∧
      (∀ x ∈ s.l2v, s.reaches o x.line = false → (∀ y ∈ s.owned, y.2 = c.name + 1 → s.reaches o y.1 = false) → x ∈ t.l2v) ∧
      (cwf 0 s.owned = true → ∀ line, s.reaches o line = false → cget 0 t.owned line = cget 0 s.owned line) ∧
      (∀ x ∈ t.l2v, s.reaches o x.line = true → x.dirty = false) ∧
      (cwf 0 s.owned = true → ∀ line, s.reaches o line = true → cget 0 t.owned line ≠ c.name + 1))

/-- R113, R116: integer lanes. -/
def Obligations.VectorIntegerLanes : Prop :=
  ∀ (s : State) (d : Dst) (a b : Src) (k : Sys2Proof.Small) (ty : Ty),
    let w := ty.lane
    let x := fun j => laneGet w (s.gV a) j
    let y := fun j => laneGet w (s.gV b) j
    let gives := fun (i : Instr) (lat : Nat) (f : Nat → Nat) => GivesLanes i s lat d k w ty.lanes fun j => (f j, 0#8)
    let le := fun p q : Nat => if ty = .i32 ∨ ty = .i64 then signed w p ≤ signed w q else p ≤ q
    (ty ∈ [Ty.i32, .n32, .i64, .n64] →
      gives (.vadd d a b k ty) 3 (fun j => (x j + y j) % 2 ^ w) ∧
      gives (.vsub d a b k ty) 3 (fun j => (x j + 2 ^ w - y j) % 2 ^ w) ∧
      gives (.vmul d a b k ty) 4 (fun j => x j * y j % 2 ^ w) ∧
      (∃ f, gives (.vmin d a b k ty) 3 f ∧ ∀ j, (f j = x j ∨ f j = y j) ∧ le (f j) (x j) ∧ le (f j) (y j)) ∧
      (∃ f, gives (.vmax d a b k ty) 3 f ∧ ∀ j, (f j = x j ∨ f j = y j) ∧ le (x j) (f j) ∧ le (y j) (f j))) ∧
    (ty ∈ [Ty.i32, .i64] →
      gives (.vneg d a k ty) 3 (fun j => (2 ^ w - x j) % 2 ^ w) ∧
      gives (.vabs d a k ty) 3 (fun j => if x j < 2 ^ (w - 1) then x j else 2 ^ w - x j)) ∧
    (ty ∈ [Ty.f64, .f32, .i32, .n32, .i64, .n64] →
      gives (.vand d a b k ty) 3 (fun j => x j &&& y j) ∧ gives (.vor d a b k ty) 3 (fun j => x j ||| y j) ∧
      gives (.vxor d a b k ty) 3 (fun j => x j ^^^ y j) ∧
      gives (.vshl d a b k ty) 3 (fun j => x j * 2 ^ (y j % w) % 2 ^ w) ∧ gives (.vshr d a b k ty) 3 (fun j => x j / 2 ^ (y j % w)) ∧
      gives (.vsra d a b k ty) 3 (fun j => (signed w (x j) / (2 ^ (y j % w) : Nat) % (2 ^ w : Nat)).toNat))

/-- R113 to R115: floating-point lanes; the exact operations and the one rounding are those of Flags.lean, whose rounding RoundingIsCorrect
states by its defining property. That an inactive lane of a 16-bit type keeps its whole 32-bit lane is the model's reading (log entry 139).
-/
def Obligations.VectorFloatLanes : Prop :=
  ∀ (s : State) (d : Dst) (a b c : Src) (k : Sys2Proof.Small) (tf : FTy) (f : Fmt), tf.ty.fmt? = some f →
    let ty := tf.ty
    let w := ty.lane
    let code := fun (r : Src) j => laneGet w (s.gV r) j % 2 ^ ty.bits
    let v := fun (r : Src) j => f.dec (code r j)
    let rounded := fun (i : Instr) (lat : Nat) (g : Nat → Fp × Fl) => GivesLanes i s lat d k w ty.lanes fun j => f.enc .rne (g j).1 (g j).2
    rounded (.vadd d a b k ty) 3 (fun j => (v a j).add (v b j)) ∧
    rounded (.vsub d a b k ty) 3 (fun j => (v a j).add (v b j).negate) ∧
    rounded (.vmul d a b k ty) 4 (fun j => (v a j).mul (v b j)) ∧
    rounded (.vmin d a b k ty) 3 (fun j => (v a j).least false (v b j)) ∧
    rounded (.vmax d a b k ty) 3 (fun j => (v a j).least true (v b j)) ∧
    rounded (.vfma d a b c tf k) 4 (fun j => (v a j).fma (v b j) (v c j)) ∧
    rounded (.vfms d a b c tf k) 4 (fun j => (v a j).fma (v b j) (v c j).negate) ∧
    rounded (.vfnma d a b c tf k) 4 (fun j => (v a j).negate.fma (v b j) (v c j)) ∧
    (tf = .f64 ∨ tf = .f32 →
      let lat := if tf = .f64 then 36 else 20
      rounded (.vdiv d a b k ty) lat (fun j => (v a j).div (v b j)) ∧ rounded (.vsqrt d a k ty) lat (fun j => (v a j).sqrt)) ∧
    (let sign := 2 ^ (ty.bits - 1)
     let kept := fun (g : Nat → Nat) j => if (v a j).isNan then (f.nanCode, (v a j).sigFl) else (g (code a j), 0#8)
     GivesLanes (.vabs d a k ty) s 3 d k w ty.lanes (kept fun x => x % sign) ∧
     GivesLanes (.vneg d a k ty) s 3 d k w ty.lanes (kept fun x => if x < sign then x + sign else x - sign))

/-- R85, R86: the one rounding of every floating-point result, by its defining property; values are compared in units of a common 2^q. -/
def Obligations.RoundingIsCorrect : Prop :=
  ∀ f ∈ [fF64, fF32, fBf16, fF16, fE5m2, fE4m3, fE2m3, fE3m2, fE2m1], ∀ (rm : Rm) (neg : Bool) (m : Nat) (e : Int), m ≠ 0 →
    let c := (f.round rm neg m e).1
    let sign : Nat := if neg then 2 ^ (f.eb + f.mb) else 0
    -- the largest finite magnitude is maxM × 2^maxE
    let maxM : Nat := 2 ^ f.mb + (if f.top = .oneNan then 2 ^ f.mb - 2 else 2 ^ f.mb - 1)
    let maxF : Nat := if f.top = .ieee then 2 ^ f.eb - 2 else 2 ^ f.eb - 1
    let maxE : Int := (maxF : Int) - f.bias - f.mb
    let maxC : Nat := sign + maxF * 2 ^ f.mb + (maxM - 2 ^ f.mb)
    -- rounded to multiples of 2^p, the magnitude exceeds k × 2^p
    let passes := fun (k : Nat) (p q : Int) =>
      let x := signedAt false m e q
      let u := signedAt false 1 p q
      match rm with
      | .rne => (2 * k + 1) * u < 2 * x ∨ ((2 * k + 1) * u = 2 * x ∧ k % 2 = 1)
      | .rna => (2 * k + 1) * u ≤ 2 * x
      | .rtz => (k + 1) * u ≤ x
      | .rup => if neg then (k + 1) * u ≤ x else k * u < x
      | .rdn => if neg then k * u < x else (k + 1) * u ≤ x
    let low : Int := -(f.bias : Int) - f.mb
    c < 2 ^ (1 + f.eb + f.mb) ∧
    (∀ q ≤ min e low,
      (passes maxM maxE q → f.round rm neg m e =
        if f.top = .ieee then
          ((match rm with
            | .rne | .rna => maxC + 1
            | .rtz => maxC
            | .rup => if neg then maxC else maxC + 1
            | .rdn => if neg then maxC + 1 else maxC), 0x14#8)
        else (maxC, 0x90#8)) ∧
      (¬ passes maxM maxE q → ∃ m1 e1, f.dec c = .fin neg m1 e1 ∧ q ≤ e1 ∧
        (signedAt neg m1 e1 q = signedAt neg m e q → (f.round rm neg m e).2 = 0#8) ∧
        (signedAt neg m1 e1 q ≠ signedAt neg m e q → passes (2 ^ (f.mb + 1) - 1) low q → (f.round rm neg m e).2 = 0x10#8) ∧
        (signedAt neg m1 e1 q ≠ signedAt neg m e q → ¬ passes (2 ^ (f.mb + 1) - 1) low q → (f.round rm neg m e).2 = 0x18#8))) ∧
    ∀ n1 m1 e1, f.dec c = .fin n1 m1 e1 → ∀ c2 < 2 ^ (1 + f.eb + f.mb), ∀ n2 m2 e2, f.dec c2 = .fin n2 m2 e2 →
      ∀ q ≤ min (min e low) (min e1 e2), (f.top = .ieee ∨ ¬ passes maxM maxE q) →
        let x := signedAt neg m e q
        let y := signedAt n1 m1 e1 q
        let z := signedAt n2 m2 e2 q
        match rm with
        | .rne => (x - y).natAbs ≤ (x - z).natAbs ∧ ((x - y).natAbs = (x - z).natAbs → y ≠ z → c % 2 = 0)
        | .rna => (x - y).natAbs ≤ (x - z).natAbs ∧ ((x - y).natAbs = (x - z).natAbs → z.natAbs ≤ y.natAbs)
        | .rtz => y.natAbs ≤ x.natAbs ∧ (0 ≤ z * x → z.natAbs ≤ x.natAbs → z.natAbs ≤ y.natAbs)
        | .rup => x ≤ y ∧ (x ≤ z → y ≤ z)
        | .rdn => y ≤ x ∧ (z ≤ x → z ≤ y)

/-- R117 to R121: the FP32 and FP64 lane functions, on ordinary and on special operands. -/
def Obligations.VectorSpecialOperands : Prop :=
  ∀ (s : State) (d : Dst) (a b : Src) (k : Sys2Proof.Small) (rm : Rm), ∀ q ∈ [(Ty.f32, fF32), (Ty.f64, fF64)],
    let ty := q.1
    let f := q.2
    let w := ty.lane
    let x := fun j => laneGet w (s.gV a) j
    let one := f.bias * 2 ^ f.mb
    let sign := 2 ^ (f.eb + f.mb)
    let inf := f.infCode false
    let isNan := fun c => inf < c % sign
    let negative := fun c => sign < c ∧ c ≤ sign + inf
    let gives := fun (i : Instr) (lat : Nat) (P : Nat → Nat → Prop) => GivesLanesThat i s lat d k w ty.lanes fun j v =>
      (isNan (x j) → v = f.nanCode) ∧ P (x j) v
    -- one step, rounded RNE
    let r := fun (p : Fp × Fl) => f.dec (f.enc .rne p.1 0#8).1
    let pick := fun (t32 t64 : List Nat) => if ty = .f32 then t32 else t64
    let val := fun (t : List Nat) (j : Nat) => f.dec (t.getD j 0)
    let poly := fun (cs : List Nat) (z : Fp) => r ((cs.reverse.tail.foldl (fun t c => r (t.fma z (f.dec c))) (f.dec (cs.getLastD 0))).mul z)
    let T := pick tabExp32 tabExp64
    let L := pick tabLog32 tabLog64
    let Q := pick tabQuot32 tabQuot64
    let RC := pick tabRcp32 tabRcp64
    let RS := pick tabRsq32 tabRsq64
    let quotient := fun (n e : Nat) => r ((Fp.fin false n 0).div (.fin false e 0))
    gives (.vfex2 d a k ty) 8 (fun c v => (c % sign = 0 → v = one) ∧ (c = inf → v = inf) ∧ (c = sign + inf → v = 0) ∧
      ∀ neg m e, f.dec c = .fin neg m e →
        let n := (toInt .rne neg m (e + 6)).1
        let z := r ((Fp.fin neg m e).add (Fp.fin (decide (n < 0)) n.natAbs (-6)).negate)
        ∀ s1 m1 e1, r ((val T (n % 64).toNat).fma (poly (pick tabExpC32 tabExpC64) z) (val T (n % 64).toNat)) = .fin s1 m1 e1 →
          v = (f.round .rne s1 m1 (e1 + n / 64)).1) ∧
    gives (.vlg2 d a k ty) 8 (fun c v => (c = one → v = 0) ∧ (c % sign = 0 → v = sign + inf) ∧ (negative c → v = f.nanCode) ∧
      (c = inf → v = inf) ∧
      ∀ m e, f.dec c = .fin false m e → m ≠ 0 →
        -- x = m × 2^(e − g) × 2^g with a significand of at least 0.75 and below 1.5
        let g : Int := if 2 * m < 3 * 2 ^ m.log2 then m.log2 + e else m.log2 + e + 1
        let n := (toInt .rne false m (e - g + 6)).1.toNat
        let z := r ((Fp.fin false m (e - g)).fma (val Q (n - 48)) (.fin true 1 0))
        let h := r ((Fp.fin (decide (g < 0)) g.natAbs 0).add (val L (n - 48)))
        v = (f.enc .rne (h.add (poly (pick tabLogC32 tabLogC64) z)).1 0#8).1) ∧
    gives (.vrcp d a k ty) 8 (fun c v => (c = 0 → v = inf) ∧ (c = sign → v = sign + inf) ∧ (c = inf → v = 0) ∧ (c = sign + inf → v = sign) ∧
      ∀ neg m e, f.dec c = .fin neg m e → m ≠ 0 →
        let step := fun y : Fp => r (y.fma (r ((Fp.fin true m (-(m.log2 : Int))).fma y (.fin false 1 0))) y)
        ∀ s1 m1 e1, Nat.repeat step (if ty = .f32 then 2 else 3) (val RC (m * 64 / 2 ^ m.log2 - 64)) = .fin s1 m1 e1 →
          v = (f.round .rne neg m1 (e1 - (m.log2 + e))).1) ∧
    gives (.vrsq d a k ty) 8 (fun c v => (c = 0 → v = inf) ∧ (c = sign → v = sign + inf) ∧ (negative c → v = f.nanCode) ∧ (c = inf → v = 0) ∧
      ∀ m e, f.dec c = .fin false m e → m ≠ 0 →
        -- x = m × 2^(e − 2 h) × 2^(2 h) with a significand of at least 1 and below 4
        let h : Int := (m.log2 + e) / 2
        let step := fun y : Fp =>
          r ((y.mul (.fin false 1 (-1))).1.fma (r ((Fp.fin true m (e - 2 * h)).fma (r (y.mul y)) (.fin false 1 0))) y)
        ∀ s1 m1 e1, Nat.repeat step (if ty = .f32 then 3 else 4) (val RS ((toInt .rtz false m (e - 2 * h + 4)).1.toNat - 16)) = .fin s1 m1 e1 →
          v = (f.round .rne s1 m1 (e1 - h)).1) ∧
    (∀ j < 64, val RC j = quotient 128 (129 + 2 * j)) ∧ (∀ j < 49, val Q j = quotient 64 (48 + j)) ∧
    (∀ j < 64, ∃ n e, val T j = .fin false n (-e) ∧ 2 ^ f.mb ≤ n ∧ n < 2 ^ (f.mb + 1) ∧
      (2 * n - 1) ^ 64 ≤ 2 ^ (j + 64 * (e + 1).toNat) ∧ 2 ^ (j + 64 * (e + 1).toNat) ≤ (2 * n + 1) ^ 64) ∧
    (∀ j < 48, ∃ n e, val RS j = .fin false n (-e) ∧ 2 ^ f.mb ≤ n ∧ n < 2 ^ (f.mb + 1) ∧
      (2 * n - 1) ^ 2 * (33 + 2 * j) ≤ 2 ^ (5 + 2 * (e + 1).toNat) ∧ 2 ^ (5 + 2 * (e + 1).toNat) ≤ (2 * n + 1) ^ 2 * (33 + 2 * j)) ∧
    gives (.vgetx d a k ty) 3 (fun c v => (c % sign = 0 → v = sign + inf) ∧ (c = one → v = 0) ∧ (c % sign = inf → v = inf) ∧
      ∀ neg m e, f.dec c = .fin neg m e → m ≠ 0 →
        v = (f.round .rne (decide (m.log2 + e < 0)) (m.log2 + e).natAbs 0).1) ∧
    gives (.vrndi d a rm k ty) 3 (fun c v => (c % sign = inf → v = c) ∧
      (∀ n m e, f.dec c = .fin n m e → 0 ≤ e → v = c) ∧
      ∀ n m e, f.dec c = .fin n m e → v = (f.round .rne n (toInt rm n m e).1.natAbs 0).1) ∧
    GivesLanesThat (.vinsx d a b k ty) s 3 d k w ty.lanes (fun j v =>
      let y := laneGet w (s.gV b) j
      (isNan (x j) ∨ isNan y → v = f.nanCode) ∧
      (¬ isNan (x j) → y % sign = 0 → v = x j) ∧
      (∀ neg m e n1 m1 e1, f.dec (x j) = .fin neg m e → f.dec y = .fin n1 m1 e1 → m ≠ 0 →
        v = (f.round .rne neg m (e + (toInt .rtz n1 m1 e1).1)).1) ∧
      (x j % sign < inf → x j % sign ≠ 0 → (y = inf → v = x j / sign * sign + inf) ∧ (y = sign + inf → v = x j / sign * sign)))

/-- R122: conversions, by the kinds of the two types. That an inactive lane keeps its whole lane is the model's reading (log entry 139). -/
def Obligations.VectorConversions : Prop :=
  ∀ (s : State) (d : Dst) (a : Src) (td ts : Ty) (rm : Rm) (k : Sys2Proof.Small) (sat : Bool),
    let wide := td.bits = 64 ∨ ts.bits = 64
    let w := if wide then 64 else 32
    let n := if wide then 16 else 32
    let x := fun j => laneGet w (s.gV a) j % 2 ^ ts.bits
    let mod := fun v : Int => (v % (2 ^ td.bits : Nat)).toNat
    (sat = true → td.fmt? ≠ none → TrapsIllop (.vcvt d a td ts rm k sat) s) ∧
    (td.fmt? = none → ts.fmt? = none → GivesLanes (.vcvt d a td ts rm k sat) s 3 d k w n fun j =>
      let v := ts.toInt (x j)
      if sat then (mod (max td.lo (min td.hi v)), if td.lo ≤ v ∧ v ≤ td.hi then 0#8 else 0x80#8) else (mod v, 0#8)) ∧
    (∀ f, td.fmt? = some f → ts.fmt? = none → sat = false → GivesLanes (.vcvt d a td ts rm k sat) s 3 d k w n fun j =>
      let v := ts.toInt (x j)
      f.enc rm (.fin (decide (v < 0)) v.natAbs 0) 0#8) ∧
    (∀ f g, td.fmt? = some f → ts.fmt? = some g → td ≠ ts → sat = false → GivesLanes (.vcvt d a td ts rm k sat) s 3 d k w n fun j =>
      f.enc rm (g.dec (x j)) (g.dec (x j)).sigFl) ∧
    (∀ f, td = ts → td.fmt? = some f → sat = false → GivesLanesThat (.vcvt d a td ts rm k sat) s 3 d k w n fun j v =>
      v = if (f.dec (x j)).isNan then f.nanCode else x j) ∧
    (∀ g, td.fmt? = none → ts.fmt? = some g → GivesLanes (.vcvt d a td ts rm k sat) s 3 d k w n fun j =>
      match g.dec (x j) with
      | .nan _ => (0, 0x01#8)
      | .inf neg => if sat then (mod (if neg then td.lo else td.hi), 0x80#8) else (0, 0x01#8)
      | .fin neg m e =>
        let r := toInt rm neg m e
        let inx := if r.2 then 0x10#8 else 0#8
        if td.lo ≤ r.1 ∧ r.1 ≤ td.hi then (mod r.1, inx)
        else if sat then (mod (if r.1 < td.lo then td.lo else td.hi), inx ||| 0x80#8) else (mod r.1, inx ||| 0x01#8)) ∧
    -- the integer that R88 rounds to
    (∀ neg m e, ∀ q ≤ min e 0,
      let r := toInt rm neg m e
      let v := signedAt neg m e q
      let u : Int := (2 ^ (-q).toNat : Nat)
      let y := r.1 * u
      (r.2 = true ↔ y ≠ v) ∧
      match rm with
      | .rne => 2 * (v - y).natAbs ≤ u ∧ (2 * (v - y).natAbs = u → r.1 % 2 = 0)
      | .rna => 2 * (v - y).natAbs ≤ u ∧ (2 * (v - y).natAbs = u → v.natAbs ≤ y.natAbs)
      | .rtz => 0 ≤ v * y ∧ y.natAbs ≤ v.natAbs ∧ v.natAbs < y.natAbs + u
      | .rup => v ≤ y ∧ y < v + u
      | .rdn => y ≤ v ∧ v < y + u)

/-- R123, R124: compares and masks. -/
def Obligations.VectorComparesAndMasks : Prop :=
  ∀ (s : State) (kd ka kb k : Sys2Proof.Small) (d : Dst) (cc : VCond) (a b : Src) (ty : Ty),
    let w := ty.lane
    let x := fun j => laneGet w (s.gV a) j % 2 ^ ty.bits
    let y := fun j => laneGet w (s.gV b) j % 2 ^ ty.bits
    let m := fun (q : Sys2Proof.Small) (j : Nat) => q = 0 ∨ (s.core.regs.k.get q).getLsbD j = true
    let mask := fun (i : Instr) (P : Nat → Prop) => ∃ v fl,
      exec i s = .next (if fl = 0#8 then s.post 3 (.mask kd v) else (s.post 3 (.mask kd v)).post 3 (.flags fl)) ∧
      ∀ j < 32, v.getLsbD j = true ↔ P j
    (ty ∈ [Ty.i32, .n32, .i64, .n64] → mask (.vcmp kd cc a b k ty) fun j => j < ty.lanes ∧ m k j ∧
      let p := ty.toInt (x j)
      let q := ty.toInt (y j)
      match cc with
      | .eq => p = q | .ne => p ≠ q | .lt => p < q | .le => p ≤ q | .gt => q < p | .ge => q ≤ p | .un => False | .ord => True) ∧
    (∀ f, ty ∈ [Ty.f64, .f32, .bf16, .f16] → ty.fmt? = some f → mask (.vcmp kd cc a b k ty) fun j => j < ty.lanes ∧ m k j ∧
      let p := f.dec (x j)
      let q := f.dec (y j)
      if p.isNan = true ∨ q.isNan = true then cc = .ne ∨ cc = .un else
        match cc with
        | .eq => p.cmp q = .eq | .ne => p.cmp q ≠ .eq | .lt => p.cmp q = .lt | .le => p.cmp q ≠ .gt | .gt => p.cmp q = .gt
        | .ge => p.cmp q ≠ .lt | .un => False | .ord => True) ∧
    mask (.kand kd ka kb) (fun j => m ka j ∧ m kb j) ∧ mask (.kor kd ka kb) (fun j => m ka j ∨ m kb j) ∧
    mask (.knot kd ka) (fun j => ¬ m ka j) ∧
    GivesScalar (.kpopc d ka) s 3 d (fun v => v.toNat = ((List.range 32).filter fun j => (s.gK ka).getLsbD j).length) ∧
    (∃ v, exec (.vctw ka) s = .next (s.post 3 (.condNext v)) ∧ ∀ j < 32, v.getLsbD j = true ↔ m ka j)

/-- R116, R125, R126: lane movement. -/
def Obligations.LaneMovement : Prop :=
  ∀ (s : State) (d : Dst) (a b : Src) (k : Sys2Proof.Small) (ty : Ty), ty ∈ [Ty.f64, .f32, .i32, .n32, .i64, .n64] →
    let w := ty.lane
    let n := ty.lanes
    let x := fun j => laneGet w (s.gV a) j
    let y := fun j => laneGet w (s.gV b) j
    GivesVector (.vsel d a b k ty) s 3 d w n (fun j v => v = if (s.gK k).getLsbD j then x j else y j) ∧
    GivesVector (.vins d a b k ty) s 3 d w n (fun j v => v = if (s.gK k).getLsbD j then (s.gS b).toNat % 2 ^ w else x j) ∧
    GivesLanes (.vbcast d a k ty) s 3 d k w n (fun _ => ((s.gS a).toNat % 2 ^ w, 0#8)) ∧
    GivesLanes (.vperm d a b k ty) s 4 d k w n (fun j => (x (y j % n), 0#8)) ∧
    (ty.fmt? = none → GivesLanes (.viota d k ty) s 3 d k w n fun j => (j, 0#8)) ∧
    (∀ f, ty.fmt? = some f → GivesLanesThat (.viota d k ty) s 3 d k w n fun j v =>
      ∃ m e, f.dec v = .fin false m e ∧ (if 0 ≤ e then m * 2 ^ e.toNat = j else m = j * 2 ^ (-e).toNat)) ∧
    GivesScalar (.vext d a b ty) s 3 d (fun v =>
      let q := x ((s.gS b).toNat % n)
      if ty = .i32 then v.toInt = signed 32 q else v.toNat = q)

/-- R127: reductions, the floating-point ones by the levels of their tree. -/
def Obligations.LaneReductions : Prop :=
  ∀ (s : State) (d : Dst) (a : Src) (k : Sys2Proof.Small) (ty : Ty),
    let w := ty.lane
    let x := fun j => laneGet w (s.gV a) j
    let act := (List.range ty.lanes).filter fun j => (s.gK k).getLsbD j
    let isCode := fun (v : Word) (c : Nat) => if ty = .i32 then v.toInt = signed 32 c else v.toNat = c
    (ty ∈ [Ty.i32, .n32, .i64, .n64] →
      GivesScalar (.vredadd d a k ty) s 8 d (fun v => isCode v ((act.map x).sum % 2 ^ w)) ∧
      GivesScalar (.vredmax d a k ty) s 8 d (fun v => ∃ c, isCode v c ∧ ((act = [] ∧ ty.toInt c = ty.lo) ∨ ∃ j ∈ act, x j = c) ∧
        ∀ j ∈ act, ty.toInt (x j) ≤ ty.toInt c) ∧
      GivesScalar (.vredmin d a k ty) s 8 d (fun v => ∃ c, isCode v c ∧ ((act = [] ∧ ty.toInt c = ty.hi) ∨ ∃ j ∈ act, x j = c) ∧
        ∀ j ∈ act, ty.toInt c ≤ ty.toInt (x j))) ∧
    (∀ f j, ty ∈ [Ty.f32, .f64] → ty.fmt? = some f → act = [j] → (f.dec (x j)).isNan = false →
      ∀ i ∈ [Instr.vredadd d a k ty, .vredmax d a k ty, .vredmin d a k ty], GivesScalar i s 8 d fun v => v.toNat = x j) ∧
    (∀ f, ty ∈ [Ty.f32, .f64] → ty.fmt? = some f →
      let trees := fun (i : Instr) (ident : Nat) (node : Fp → Fp → Fp × Fl) =>
        let level := fun (l : Nat → Nat × Fl) (j : Nat) =>
          let p := l (2 * j)
          let q := l (2 * j + 1)
          let r := node (f.dec p.1) (f.dec q.1)
          let e := f.enc .rne r.1 r.2
          (e.1, p.2 ||| q.2 ||| e.2)
        let r := Nat.repeat level (if ty = .f64 then 4 else 5) (fun j => (if (s.gK k).getLsbD j then x j else ident, 0#8)) 0
        let t := s.post 8 (.scalar d (.ofNat 64 r.1))
        exec i s = .next (if r.2 = 0#8 then t else t.post 8 (.flags r.2))
      trees (.vredadd d a k ty) (2 ^ (f.eb + f.mb)) Fp.add ∧
      trees (.vredmax d a k ty) (f.infCode true) (Fp.least true) ∧
      trees (.vredmin d a k ty) (f.infCode false) (Fp.least false))

/-- R128 to R132. The flags under a NaN scale and of infinities in dead blocks, and the place of the second VMAXB's fault, are the model's
choices (log entries 94, 144). -/
def Obligations.BlockQuantisation : Prop :=
  ∀ (s : State) (d : Dst) (a b : Src) (bf : Bf),
    let c := s.core
    let second := ∃ p ∈ c.port.pend, p.issue = c.unf ∧ ∃ v f, p.act = .latch v f
    let val := fun (j : Nat) => fF32.dec (laneGet 32 (s.gV a) j)
    -- a magnitude in units of 2^(-200), and the exponent of its leading bit; an infinity counts as the largest finite value
    let mag := fun (j : Nat) => match val j with
      | .fin _ m e => signedAt false m e (-200)
      | .inf _ => signedAt false (2 ^ 24 - 1) 104 (-200)
      | .nan _ => 0
    let high := fun (j : Nat) => match val j with
      | .fin _ m e => m.log2 + e
      | _ => 127
    (second → TrapsIllop (.vmaxb d a bf) s) ∧
    (¬ second → ∃ side, exec (.vmaxb d a bf) s = .next ((s.post 3 (.vector d side)).post 4 (.latch side bf)) ∧
      (∀ j, 2 ≤ j → j < 32 → laneGet 32 side j = 0) ∧
      ((∀ j < 32, laneGet 32 (s.gV a) j = 0) → laneGet 32 side 0 = (if bf ∈ [Bf.px2, .px4, .px7] then 0xC00 else 0)) ∧
      (bf.px? = none → laneGet 32 side 1 = 0 ∧
        ((∃ j < 32, (val j).isNan = true) → laneGet 32 side 0 = 255) ∧
        ((∀ j < 32, (val j).isNan = false) → ∀ t, (∃ j < 32, mag j ≠ 0 ∧ high j = t) → (∀ j < 32, mag j ≠ 0 → high j ≤ t) →
          (laneGet 32 side 0 : Int) = max 0 (min 254 (t - bf.emax + 127)))) ∧
      ∀ n, bf.px? = some n → ∀ h < 2,
        let part := fun j : Nat => 16 * h ≤ j ∧ j < 16 * h + 16
        ((∃ j, part j ∧ (val j).isNan = true) → laneGet 32 side h = bf.tag * 2 ^ 10 + 255 * 4) ∧
        ((∀ j, part j → (val j).isNan = false) → (∀ j, part j → mag j = 0) → laneGet 32 side h = 0xC00) ∧
        ((∀ j, part j → (val j).isNan = false) → (∃ j, part j ∧ mag j ≠ 0) → ∃ e m, ∃ sh : Nat → Nat, e ≤ 254 ∧ m ≤ 3 ∧
          laneGet 32 side h = m + e * 4 + bf.tag * 2 ^ 10 + (sh 0 + sh 1 * 4 + sh 2 * 16 + sh 3 * 64) * 2 ^ 12 ∧
          -- a scale (e, m) with the quad shift z reaches element j
          let fits := fun (e m z j : Nat) => mag j ≤ signedAt false ((4 + m) * (2 ^ n - 1)) ((e : Int) - 128 - n - z) (-200)
          ((∀ j, part j → fits e m 0 j) ∨ (e = 254 ∧ m = 3)) ∧
          (∀ e1 m1, m1 ≤ 3 → 4 * e1 + m1 < 4 * e + m → ∃ j, part j ∧ ¬ fits e1 m1 0 j) ∧
          ∀ q < 4, sh q ≤ 3 ∧
            let inQuad := fun j : Nat => 16 * h + 4 * q ≤ j ∧ j < 16 * h + 4 * q + 4
            ((∀ j, inQuad j → mag j = 0) → sh q = 0) ∧
            ((∃ j, inQuad j ∧ mag j ≠ 0) → (∀ j, inQuad j → fits e m (sh q) j) ∧
              ∀ z ≤ 3, (∀ j, inQuad j → fits e m z j) → z ≤ sh q))) ∧
    (c.mtx.latch = none → TrapsIllop (.vqnt d a bf) s) ∧
    (∀ side f, c.mtx.latch = some (side, f) →
      (f ≠ bf → TrapsIllop (.vqnt d a bf) s) ∧
      (f = bf → ∃ v fl, exec (.vqnt d a bf) s = .next (if fl = 0#8 then s.post 3 (.vector d v) else (s.post 3 (.vector d v)).post 3 (.flags fl)) ∧
        ((∀ j < 32, laneGet 32 (s.gV a) j = 0) → laneGet 32 side 0 % 256 ≠ 255 → v = 0#1024) ∧
        ∃ r : Nat → Nat × Fl,
          (∀ i < 32, v.toNat / 2 ^ codePos bf i % 2 ^ bf.width = (r i).1) ∧
          (∀ b < 8, fl.getLsbD b = true ↔ ∃ i < 32, (r i).2.getLsbD b = true) ∧
          -- an MX element under the scale x
          (bf.px? = none → ∀ i < 32,
            let x := laneGet 32 side 0 % 256
            let hidden := if bf = .mx8e4 then 0x7F else if bf = .mx8e5 then 0x7E else 0
            match val i with
            | .nan sig => r i = (hidden, if sig ∨ (hidden = 0 ∧ x ≠ 255) then 0x01#8 else 0#8)
            | .inf neg => (x = 255 → r i = (hidden, 0#8)) ∧
              (x ≠ 255 → r i = (match bf.elem? with | some g => g.maxCode neg | none => if neg then 129 else 127, 0x80#8))
            | .fin neg m e => (x = 255 → r i = (hidden, 0#8)) ∧
              (x ≠ 255 → match bf.elem? with
                | some g =>
                  let p := g.round .rne neg m (e - (x - 127))
                  r i = if p.2 &&& 0x84#8 = 0#8 then p else (g.maxCode neg, 0x90#8)
                | none =>
                  let n := toInt .rne false m (e - (x - 127) + 6)
                  let k := min n.1.toNat 127
                  r i = (if neg then (256 - k) % 256 else k, if 127 < n.1 then 0x90#8 else if n.2 then 0x10#8 else 0#8))) ∧
          -- a PX element under its side container and the shift of its quad
          ∀ n, bf.px? = some n → ∀ i < 32,
            let c := laneGet 32 side (i / 16)
            let dead := c / 2 ^ 10 % 4 = 3 ∨ c / 4 % 256 = 255
            match val i with
            | .nan sig => r i = (0, if sig ∨ c / 4 % 256 ≠ 255 then 0x01#8 else 0#8)
            | .inf neg => (dead → r i = (0, 0#8)) ∧ (¬ dead → r i = ((if neg then 2 ^ n else 0) + 2 ^ n - 1, 0x80#8))
            | .fin neg m e =>
              (dead → r i = (0, if c / 2 ^ 10 % 4 = 3 ∧ m ≠ 0 then 0x10#8 else 0#8)) ∧
              (¬ dead → ∃ k : Nat,
                let unit : Int := signedAt false (4 + c % 4) (((c / 4 % 256 : Nat) : Int) - 128 - n - (c / 2 ^ (12 + 2 * (i % 16 / 4)) % 4 : Nat)) (-200)
                let y : Int := signedAt false m e (-200)
                2 * (y - k * unit).natAbs ≤ unit ∧ (2 * (y - k * unit).natAbs = unit → k % 2 = 0) ∧
                r i = ((if neg = true ∧ k ≠ 0 then 2 ^ n else 0) + min k (2 ^ n - 1),
                  if 2 ^ n - 1 < k then 0x90#8 else if y ≠ k * unit then 0x10#8 else 0#8)))) ∧
    (let x := laneGet 32 (s.gV b)
     let px := bf ∈ [Bf.px2, .px4, .px7]
     (3 ≤ x 2 ∨ 2 ^ 20 ≤ x 0 ∨ (¬ px ∧ 256 ≤ x 0) → TrapsIllop (.vdqnt d a b bf) s) ∧
     let elem := fun (f : Fmt) (i : Nat) =>
       let e := elemValue bf (x 0) (x 1) i ((s.gV a).toNat / 2 ^ codePos bf i % 2 ^ bf.width)
       f.enc .rne e e.sigFl
     (badSide bf (s.gV b) = true → TrapsIllop (.vdqnt d a b bf) s) ∧
     (badSide bf (s.gV b) = false → x 2 = 0 → GivesLanes (.vdqnt d a b bf) s 3 d 0 32 32 fun j => elem fF32 j) ∧
     (badSide bf (s.gV b) = false → x 2 = 1 ∨ x 2 = 2 →
       GivesLanes (.vdqnt d a b bf) s 3 d 0 64 16 fun j => elem fF64 (16 * (x 2 - 1) + j)) ∧
     (¬ px → x 2 = 0 → x 0 < 255 → s.gV a = 0#1024 → exec (.vdqnt d a b bf) s = .next (s.post 3 (.vector d 0#1024))))

/-- R133 to R135: the deferral queue. Which of several VDEFERs of a bundle raises DQOVF is the model's choice (log entry 144). -/
def Obligations.DeferralQueue : Prop :=
  ∀ (s : State) (v : RegNo) (n : BitVec 2) (b : Src) (k : Sys2Proof.Small),
    let c := s.core
    let tag : BitVec 27 := .ofNat 27 (s.gS b).toNat
    let act := (List.range 32).filter fun j => (s.gK k).getLsbD j
    let flying := fun (p : Pending) => match p.act with | .defer es => es.length | _ => 0
    let held := c.dq.length + (c.port.pend.map flying).sum
    let before := c.dq.length + ((c.port.pend.filter fun p => p.issue ≠ c.unf).map flying).sum
    let word := fun (r j : Nat) => if r ≤ n.toNat then laneGet 32 (c.regs.v.get (Fin.ofNat 16 (v.val + r))) j else 0
    (15 < v.val + n.toNat → TrapsIllop (.vdefer v n b k) s ∧ TrapsIllop (.vdrain v n b) s) ∧
    (v.val + n.toNat ≤ 15 → 256 < held + act.length → Traps (.vdefer v n b k) s 8 (.ofNat 64 (before * 2))) ∧
    (v.val + n.toNat ≤ 15 → held + act.length ≤ 256 → ∃ es, exec (.vdefer v n b k) s = .next (s.post 2 (.defer es)) ∧
      es.map (fun e => (e.lane.toNat, e.tag, e.w0.toNat, e.w1.toNat, e.w2.toNat, e.w3.toNat)) =
        act.map fun j => (j, tag, word 0 j, word 1 j, word 2 j, word 3 j)) ∧
    (v.val + n.toNat ≤ 15 →
      let took := (c.dq.filter fun e => e.tag == tag).take 32
      Completes (.vdrain v n b) s fun t =>
        t.core.dq.filter (fun e => e.tag != tag) = c.dq.filter (fun e => e.tag != tag) ∧
        t.core.dq.filter (fun e => e.tag == tag) = (c.dq.filter fun e => e.tag == tag).drop 32 ∧
        t = { s with core := { c with dq := t.core.dq, port := { c.port with pend := t.core.port.pend } } } ∧
        ∃ vs o, t.core.port.pend = c.port.pend ++ vs ++ [⟨c.unf + 4, c.unf, c.flow.slot, .vector .queue o⟩] ∧ vs.length = n.toNat + 1 ∧
          (∀ r ≤ n.toNat, ∃ x, vs[r]? = some ⟨c.unf + 4, c.unf, c.flow.slot, .vector (.reg (Fin.ofNat 16 (v.val + r))) x⟩ ∧
            ∀ j < 32, laneGet 32 x j = ((took[j]?).map fun e => (match r with | 0 => e.w0 | 1 => e.w1 | 2 => e.w2 | _ => e.w3).toNat).getD 0) ∧
          ∀ j < 32, laneGet 32 o j = ((took[j]?).map fun e => e.lane.toNat + 32 * e.tag.toNat).getD 0xFFFFFFFF)

/-- R136 to R138: the requests of vector loads. Pieces are resolved by the same window and translation checks as every access. The place of
the landing-buffer limit, and that no check is made without an active lane, are the model's choices (log entries 24, 93). -/
def Obligations.VectorLoadRequests : Prop :=
  ∀ (s : State) (d : Dst) (a b : Src) (off : BitVec 6) (k : Sys2Proof.Small) (dl : Delay) (w64 : Bool),
    let c := s.core
    let delay := dl.lat.toNat * 4 ^ dl.e.toNat
    let A : Int := (s.gS a).toNat
    let gw := if w64 then 64 else 32
    let gn := if w64 then 16 else 32
    let base := ((A + off.toInt * 128) % 2 ^ 64).toNat
    let active := fun (n : Nat) => (List.range n).filter fun j => (s.gK k).getLsbD j
    let old := fun (w n : Nat) => laneJoin w ((List.range n).map fun j => if (active n).contains j then 0 else
      match d with | .reg m => laneGet w (c.regs.v.get m) j | .queue => 0)
    let landing := fun (need : Nat) (val : Option Vec) =>
      (⟨c.unf + max delay 1, c.unf, c.flow.slot, .vector d, val, true, none, val.isSome, true, need - delay⟩ : Landing)
    -- a load without an active lane, and one whose pieces lie in a scheduled window
    let lands := fun (v : Vec) (t : State) => OnlyPort s t ∧ t.core.port.landings.getLast? = some (landing 0 (some v)) ∧
      t.core.port.sched = c.port.sched ∧ t.core.port.cohQ = c.port.cohQ
    let miss := fun (w : Win) (q : SchedKind) => if c.ctl.chk then s.missedBank (c.unf + min delay w.offset) q else none
    let stall := fun (m : Nat) => BitVec.ofNat 64 (c.flow.pc.toNat + c.flow.slot * 4096 + 2 ^ 15 + m * 2 ^ 16)
    let reads := fun (w : Win) (q : SchedKind) (t : State) => OnlyPort s t ∧ t.core.port = { c.port with
      landings := c.port.landings ++ [landing w.latency none]
      sched := c.port.sched ++ [⟨c.unf + min delay w.offset, c.unf, c.flow.slot, q⟩] }
    let loads := fun (i : Instr) (w n al : Nat) (addr : Nat → Nat) (one : Option Nat) =>
      let act := active n
      let judged := match one with | some x => if act = [] then [] else [x] | none => act.map addr
      (∀ x, judged.find? (fun x => x % al != 0) = some x → Traps i s 6 (.ofNat 64 x)) ∧
      ((∀ x ∈ judged, x % al = 0) →
        (act = [] → s.landingRoom = false → TrapsIllop i s) ∧
        (act = [] → s.landingRoom = true → Completes i s (lands (old w n))) ∧
        (∀ j rest, act = j :: rest → s.window c (addr j) (w / 8) = none → Traps i s 5 (.ofNat 64 (addr j))) ∧
        (∀ j rest win o, act = j :: rest → s.window c (addr j) (w / 8) = some (win, o) → ∀ pre x post, act = pre ++ x :: post →
          (∀ y ∈ pre, ∃ o, s.window c (addr y) (w / 8) = some (win, o)) → (∀ o, s.window c (addr x) (w / 8) ≠ some (win, o)) →
          Traps i s 5 (.ofNat 64 (addr x))) ∧
        ∀ win os, s.laneWindow (w / 8) (act.map fun j => (j, addr j)) = .ok (some win, os) →
          (s.landingRoom = false → TrapsIllop i s) ∧
          (s.landingRoom = true → ∀ ks, s.laneKeys win os false = .ok ks →
            let ps := ks.map fun p => (⟨w * p.1, p.2, w / 8⟩ : LoadPiece)
            let ad : Word := .ofNat 64 ((act.head?.map addr).getD 0)
            (win.scheduled = true → ∀ m, miss win (.load (old w n) ps ad) = some m → Traps i s 3 (stall m)) ∧
            (win.scheduled = true → miss win (.load (old w n) ps ad) = none → Completes i s (reads win (.load (old w n) ps ad))) ∧
            (win.scheduled = false → Completes i s fun t => OnlyPort s t ∧ t.core.port = { c.port with
              landings := c.port.landings ++ [landing 0 none]
              seq := c.port.seq + 1
              cohQ := c.port.cohQ ++ [⟨c.port.seq, c.unf, c.flow.slot, .load (old w n) ps ad false⟩] })))
    loads (.vld d a off k dl) 32 32 64 (fun j => (((base : Int) + 4 * j) % 2 ^ 64).toNat) (some base) ∧
    loads (.vlds d a b k dl) 32 32 4 (fun j => ((A + j * (s.gS b).toInt) % 2 ^ 64).toNat) none ∧
    loads (.vgath d a b w64 k dl) gw gn (gw / 8) (fun j => ((A + laneGet gw (s.gV b) j * (gw / 8)) % 2 ^ 64).toNat) (some (s.gS a).toNat) ∧
    (let act := active 32
     let addr := ((A + off.toInt * 4) % 2 ^ 64).toNat
     let q := fun (o : Nat) => SchedKind.load (old 32 32) (act.map fun j => ⟨32 * j, keyLane c.id (j * 1024 + o), 4⟩) (.ofNat 64 (Win.lane.base + o))
     (act = [] → s.landingRoom = true → Completes (.vldl d a off k dl) s (lands (old 32 32))) ∧
     (act ≠ [] → addr % 4 ≠ 0 → Traps (.vldl d a off k dl) s 6 (.ofNat 64 addr)) ∧
     (act ≠ [] → addr % 4 = 0 → ∀ o, s.window c addr 4 = some (.lane, o) → o < 1024 → s.landingRoom = true →
       (∀ m, miss .lane (q o) = some m → Traps (.vldl d a off k dl) s 3 (stall m)) ∧
       (miss .lane (q o) = none → Completes (.vldl d a off k dl) s (reads .lane (q o)))) ∧
     (act ≠ [] → addr % 4 = 0 → ∀ w o, s.window c addr 4 = some (w, o) → w ≠ .lane → TrapsIllop (.vldl d a off k dl) s))

/-- R136 to R140: the requests of vector stores. That no check is made without an active lane is the model's choice (log entry 93). -/
def Obligations.VectorStoreRequests : Prop :=
  ∀ (s : State) (b a vi : Src) (off : BitVec 14) (k : Sys2Proof.Small) (w64 : Bool),
    let c := s.core
    let A : Int := (s.gS a).toNat
    let gw := if w64 then 64 else 32
    let gn := if w64 then 16 else 32
    let base := ((A + off.toInt * 128) % 2 ^ 64).toNat
    let active := fun (n : Nat) => (List.range n).filter fun j => (s.gK k).getLsbD j
    let miss := fun (w : Win) (q : SchedKind) => if c.ctl.chk then s.missedBank (c.unf + w.offset) q else none
    let stall := fun (m : Nat) => BitVec.ofNat 64 (c.flow.pc.toNat + c.flow.slot * 4096 + 2 ^ 15 + m * 2 ^ 16)
    let writes := fun (w : Win) (q : SchedKind) (t : State) => OnlyPort s t ∧
      t.core.port = { c.port with sched := c.port.sched ++ [⟨c.unf + w.offset, c.unf, c.flow.slot, q⟩] }
    let stores := fun (i : Instr) (w n al : Nat) (addr : Nat → Nat) (one : Option Nat) =>
      let act := active n
      let judged := match one with | some x => if act = [] then [] else [x] | none => act.map addr
      (∀ x, judged.find? (fun x => x % al != 0) = some x → Traps i s 6 (.ofNat 64 x)) ∧
      (act = [] → exec i s = .next s) ∧
      ((∀ x ∈ judged, x % al = 0) → ∀ j rest, act = j :: rest → s.window c (addr j) (w / 8) = none → Traps i s 5 (.ofNat 64 (addr j))) ∧
      ((∀ x ∈ judged, x % al = 0) → ∀ j rest win o, act = j :: rest → s.window c (addr j) (w / 8) = some (win, o) →
        ∀ pre x post, act = pre ++ x :: post →
          (∀ y ∈ pre, ∃ o, s.window c (addr y) (w / 8) = some (win, o)) → (∀ o, s.window c (addr x) (w / 8) ≠ some (win, o)) →
          Traps i s 5 (.ofNat 64 (addr x))) ∧
      ((∀ x ∈ judged, x % al = 0) → ∀ win os, s.laneWindow (w / 8) (act.map fun j => (j, addr j)) = .ok (some win, os) →
        ∀ ks, s.laneKeys win os true = .ok ks →
          let ps := ks.map fun p => (⟨p.2, natBytes (laneGet w (s.gV b) p.1) (w / 8)⟩ : StorePiece)
          let held := s.heldHost (ks.map fun p => (p.2, w / 8))
          (c.prov = false → held = false) ∧
          (held = true → exec i s = .next (s.wait .provisional)) ∧
          (held = false → win.scheduled = true → ∀ m, miss win (.store ps) = some m → Traps i s 3 (stall m)) ∧
          (held = false → win.scheduled = true → miss win (.store ps) = none → Completes i s (writes win (.store ps))) ∧
          (held = false → win.scheduled = false → Completes i s fun t => OnlyPort s t ∧ t.core.port = { c.port with
            seq := c.port.seq + 1, cohQ := c.port.cohQ ++ [⟨c.port.seq, c.unf, c.flow.slot, .store ps false⟩] }))
    stores (.vst b a off k) 32 32 64 (fun j => (((base : Int) + 4 * j) % 2 ^ 64).toNat) (some base) ∧
    stores (.vsts b a vi k) 32 32 4 (fun j => ((A + j * (s.gS vi).toInt) % 2 ^ 64).toNat) none ∧
    stores (.vscat b a vi w64 k) gw gn (gw / 8) (fun j => ((A + laneGet gw (s.gV vi) j * (gw / 8)) % 2 ^ 64).toNat) (some (s.gS a).toNat) ∧
    (let act := active 32
     let addr := ((A + off.toInt * 4) % 2 ^ 64).toNat
     let q := fun (o : Nat) => SchedKind.store (act.map fun j => ⟨keyLane c.id (j * 1024 + o), natBytes (laneGet 32 (s.gV b) j) 4⟩)
     (act = [] → exec (.vstl b a off k) s = .next s) ∧
     (act ≠ [] → addr % 4 ≠ 0 → Traps (.vstl b a off k) s 6 (.ofNat 64 addr)) ∧
     (act ≠ [] → addr % 4 = 0 → ∀ o, s.window c addr 4 = some (.lane, o) → o < 1024 →
       (∀ m, miss .lane (q o) = some m → Traps (.vstl b a off k) s 3 (stall m)) ∧
       (miss .lane (q o) = none → Completes (.vstl b a off k) s (writes .lane (q o)))))

/-- R142 to R160: the instructions that configure and feed the array. The model's choices: which format state an MGO, CPYS or MEPI is judged
by (log entry 81), the names an epilogue may take (82), the checks of an MGO without a step (123), and that an MGO which completes at once
takes no place of the queue (140). -/
def Obligations.ArrayConfigurationAndQueue : Prop :=
  ∀ (s : State) (r sb : RegNo) (a : Src) (acc : Sys2Proof.Small) (accum ser : Bool),
    let c := s.core
    let p := c.port
    let addr := (s.gS a).toNat
    let barred := c.ctl.solo = true ∧ c.ctl.own = false
    let job : Issued := ⟨p.seq, c.unf, c.clock, c.exc.level, c.exc.asid, c.exc.ptroot, p.clockFor p.seq none⟩
    let n : Nest := ⟨job, c.mtx.streams.get r, c.mtx.streams.get sb, c.mtx.nest, acc.val, accum, ser, 0, none, []⟩
    let w := c.mtx.nest.toNat
    let bad := badStream n.sa.bits.toNat = true ∨ badStream n.sb.bits.toNat = true ∨ badNest w = true ∨ n.pair = none
    let limit := if c.ctl.solo then 8 else 4
    let empty := nestDim w 1 = 0 ∨ nestDim w 2 = 0
    let xs := if empty then [acc.val] else reach w acc.val
    let beyond := ∃ x ∈ xs, limit ≤ x ∨ (n.fmt = .fp64 ∧ (x % 2 = 1 ∨ limit ≤ x + 1))
    let formats := accum = true → ∀ t ∈ (accNames n.fmt xs).map c.tileOf, s.nextFmt t = n.fmt
    let queues := fun (t : State) =>
      t = { s with core := { c with mtx := { c.mtx with arrQ := c.mtx.arrQ ++ [.mgo n] }, port := { p with seq := p.seq + 1 } } }
    let miss := fun (o size : Nat) =>
      if c.ctl.chk then s.missedBank (c.unf + 3) (.load 0#1024 [⟨0, s.keyOf c .spad o, size⟩] (.ofNat 64 addr)) else none
    let stall := fun (m : Nat) => BitVec.ofNat 64 (c.flow.pc.toNat + c.flow.slot * 4096 + 2 ^ 15 + m * 2 ^ 16)
    let configures := fun (i : Instr) (dst : LandDst) =>
      (addr % 32 ≠ 0 → Traps i s 6 (.ofNat 64 addr)) ∧
      (addr % 32 = 0 → (∀ o, s.window c addr 32 ≠ some (.spad, o)) → TrapsIllop i s) ∧
      (addr % 32 = 0 → ∀ o, s.window c addr 32 = some (.spad, o) →
        (∀ m, miss o 32 = some m → Traps i s 3 (stall m)) ∧
        (miss o 32 = none → Completes i s fun t => OnlyPort s t ∧ t.core.port = { p with
          landings := p.landings ++ [(⟨c.unf + 6, c.unf, c.flow.slot, dst, none, true, none, false, false, 0⟩ : Landing)]
          sched := p.sched ++ [⟨c.unf + 3, c.unf, c.flow.slot, .load 0#1024 [⟨0, s.keyOf c .spad o, 32⟩] (.ofNat 64 addr)⟩] }))
    (barred → ∀ i ∈ [Instr.mstrm r a, .mnest a, .mgo r sb acc accum ser, .mza acc, .mepi acc a, .msync], TrapsIllop i s) ∧
    (¬ barred →
      configures (.mstrm r a) (.stream r) ∧ configures (.mnest a) .nest ∧
      (bad → TrapsIllop (.mgo r sb acc accum ser) s) ∧ (¬ bad → beyond → TrapsIllop (.mgo r sb acc accum ser) s) ∧
      (¬ bad → ¬ beyond → formats →
        (empty ∨ (nestDim w 0 = 0 ∧ accum = true) → exec (.mgo r sb acc accum ser) s = .next s) ∧
        (¬ empty → nestDim w 0 = 0 → accum = false → s.cpysReads p.seq (c.nestTiles n) = false → c.mtx.arrQ = [] →
          Completes (.mgo r sb acc accum ser) s fun t => t.core = c ∧ t.mem = s.mem ∧
            (∀ k, k / 4096 ∈ c.nestTiles n → cget 0#32 t.tiles k = 0#32) ∧
            ∀ k, k / 4096 ∉ c.nestTiles n → cget 0#32 t.tiles k = cget 0#32 s.tiles k) ∧
        (¬ empty → nestDim w 0 = 0 → accum = false → c.mtx.arrQ ≠ [] ∨ s.cpysReads p.seq (c.nestTiles n) = true →
          (4 ≤ c.mtx.arrQ.length → WaitsFor (.mgo r sb acc accum ser) s .arrayQueue) ∧
          (c.mtx.arrQ.length < 4 → Completes (.mgo r sb acc accum ser) s queues)) ∧
        (¬ empty → nestDim w 0 ≠ 0 → s.checkStreams w [n.sa.bits.toNat, n.sb.bits.toNat] = .ok () →
          (4 ≤ c.mtx.arrQ.length → WaitsFor (.mgo r sb acc accum ser) s .arrayQueue) ∧
          (c.mtx.arrQ.length < 4 → Completes (.mgo r sb acc accum ser) s queues))) ∧
      (limit ≤ acc.val ∨ (s.nextFmt (c.tileOf acc.val) = .fp64 ∧ acc.val % 2 = 1) → TrapsIllop (.mepi acc a) s) ∧
      (acc.val < limit → (s.nextFmt (c.tileOf acc.val) = .fp64 → acc.val % 2 = 0) → addr % 64 = 0 →
        ∀ o, s.window c addr 64 = some (.spad, o) → miss o 64 = none →
          (4 ≤ c.mtx.arrQ.length → WaitsFor (.mepi acc a) s .arrayQueue) ∧
          (c.mtx.arrQ.length < 4 → Completes (.mepi acc a) s fun t => t = { s with core := { c with
            port := { p with
              landings := p.landings ++ [(⟨c.unf + 6, c.unf, c.flow.slot, .mepi, none, true, none, false, false, 0⟩ : Landing)]
              sched := p.sched ++ [⟨c.unf + 3, c.unf, c.flow.slot, .load 0#1024 [⟨0, s.keyOf c .spad o, 64⟩] (.ofNat 64 addr)⟩]
              seq := p.seq + 1 }
            mtx := { c.mtx with arrQ := c.mtx.arrQ ++ [.mepi ⟨job, acc.val, none, s.gS a, false, none, false, 0⟩] } } })) ∧
      (c.mtx.arrQ ≠ [] → WaitsFor .msync s .arrayWork) ∧
      (c.mtx.arrQ = [] → ∀ code info, c.mtx.fault = some (code, info) →
        exec .msync s = .next (s.takeTrap ⟨code, c.flow.slot, info, false, true⟩)) ∧
      (c.mtx.arrQ = [] → c.mtx.fault = none → Completes .msync s fun t => t.core.mtx = { c.mtx with flags := 0#8 } ∧ t.mem = s.mem ∧
        t.core.regs = c.regs ∧ t.core.port = { p with pend := t.core.port.pend } ∧
        t.core.port.pend = p.pend ++ (if c.mtx.flags = 0#8 then [] else [⟨c.unf + 1, c.unf, c.flow.slot, .flags c.mtx.flags⟩])))

/-- R148 to R167: the array's events. The sums themselves are IntegerBlockSums' and the shared functions'. The model's choices: the limits
of an epilogue's descriptor (log entry 82), and an exact zero for an absent bias (144). -/
def Obligations.ArrayStepsAndEpilogues : Prop :=
  ∀ (s : State) (n : Nest) (e : Epi) (r : List ArrJob) (clock : Nat) (ra rb : List (List Run)),
    let c := s.core
    let w := n.nest.toNat
    let cs := counters w n.done
    let acc := stepAcc w n.acc cs
    -- the core as it was at the operation's issue (R350)
    let u := s.asIssued n.toIssued
    let v := s.asIssued e.toIssued
    let ended := ∀ d, n.due = some d → d ≤ s.now
    let A := n.sa.bits.toNat
    let B := n.sb.bits.toNat
    let cost := (if n.ser = false ∨ stPlanes A ≤ stPlanes B then stPlanes A * stChunks B else stPlanes B * stChunks A) *
      (if c.ctl.solo then 1 else 2)
    (c.stopped = true → ∀ i ∈ [Instr.arrayStep, .mgoComplete, .epilogueRun], exec i s = .next s) ∧
    (c.mtx.arrQ = .mgo n :: r → n.clock = some clock → c.stopped = false → n.done < nestSteps w →
      c.engineFree n.seq n.issue = true → s.cpysReads n.seq (c.nestTiles n) = false → ended → n.sa.bind = none → n.sb.bind = none →
      u.extentsRuns (unitAddrs n.sa.bits.toNat cs) false = .ok ra → u.extentsRuns (unitAddrs n.sb.bits.toNat cs) false = .ok rb →
      (u.engineGate 0 n.toIssued (ra ++ rb).flatten).2 = true → s.bad = [] → s.flips = [] →
      (∀ x ∈ ra, badUnit (stFmt n.sa.bits.toNat) (stMixed n.sa.bits.toNat) (stPtag n.sa.bits.toNat) (bytesNat (s.readRuns x)) = false) →
      (∀ x ∈ rb, badUnit (stFmt n.sb.bits.toNat) (stMixed n.sb.bits.toNat) (stPtag n.sb.bits.toNat) (bytesNat (s.readRuns x)) = false) →
      Completes .arrayStep s fun t => t.mem = s.mem ∧ t.core.regs = c.regs ∧
        t.core.exc = c.exc ∧ t.core.port = { c.port with grants := t.core.port.grants } ∧
        (∃ n', t.core.mtx.arrQ = .mgo n' :: r ∧ n'.done = n.done + 1 ∧ n'.due = some (s.now + cost) ∧ n'.nest = n.nest ∧ n'.sa = n.sa ∧ n'.sb = n.sb ∧ n'.acc = n.acc) ∧
        ∀ k, (∀ x ∈ accNames n.fmt [acc], k / 4096 ≠ c.tileOf x) → cget 0#32 t.tiles k = cget 0#32 s.tiles k) ∧
    (c.mtx.arrQ = .mgo n :: r → c.stopped = false → nestSteps w ≤ n.done → ended → nestSteps w ≠ 0 → Completes .mgoComplete s fun t => OnlyMtx s t ∧
      t.core.mtx = { c.mtx with arrQ := r }) ∧
    (c.mtx.arrQ = .mgo n :: r → c.stopped = false → nestSteps w = 0 → ended → s.cpysReads n.seq (c.nestTiles n) = false → Completes .mgoComplete s fun t =>
      t.core.mtx = { c.mtx with arrQ := r } ∧ t.mem = s.mem ∧ t.core.regs = c.regs ∧
      (∀ k, k / 4096 ∈ c.nestTiles n → cget 0#32 t.tiles k = 0#32) ∧
      ∀ k, k / 4096 ∉ c.nestTiles n → cget 0#32 t.tiles k = cget 0#32 s.tiles k) ∧
    (∀ d, c.mtx.arrQ = .mepi e :: r → e.desc = some d → e.clock = some clock → c.stopped = false →
      c.engineFree e.seq e.issue = true →
      let info := v.codeAddr v.core 3 e.addr.toNat
      let x := d.toNat
      let f := s.tileFmt (c.tileOf e.acc)
      (e.bad = true → c.mtx.fault = none → Completes .epilogueRun s fun t =>
        t.core.mtx = { c.mtx with arrQ := r, fault := some (0xA#8, info) } ∧ t.mem = s.mem) ∧
      (e.bad = false → c.mtx.fault = none → v.epiObj x = none → Completes .epilogueRun s fun t =>
        t.core.mtx = { c.mtx with arrQ := r, fault := some (9#8, info) } ∧ t.mem = s.mem) ∧
      (∀ obj, e.bad = false → v.epiObj x = some obj → c.prov = false → s.bad = [] → s.flips = [] →
        -- it begins: its tile and its bias are read
        (∀ rows bias, e.left = none → s.badEpi x (f == .fp64) = false → v.extentsRuns (epRowsAt x) true = .ok rows →
          (if x.testBit 119 then v.extentRuns (epBias x) (if f = .fp64 then 512 else 256) false else .ok []) = .ok bias →
          (v.engineGate 1 e.toIssued bias).2 = true → Completes .epilogueRun s fun t => t.mem = s.mem ∧ t.core.regs = c.regs ∧ t.tiles = s.tiles ∧
            ∃ e' ps, t.core.mtx.arrQ = .mepi e' :: r ∧ e'.left = some ps ∧ e'.stuck = false ∧ e'.acc = e.acc ∧ e'.desc = e.desc ∧
              e'.toIssued = { e.toIssued with clock := e'.clock } ∧ (∀ p ∈ ps, p.data.length ≤ 64) ∧
              runKeys (ps.map fun p => (p.key, p.data.length)) = runKeys rows.flatten ∧
              let bs := elems (if f = .fp64 then 8 else 4) (bytesAt s.mem (runKeys bias))
              (ps.map StorePiece.data).flatten = ((epOut x f (s.accVals f e.acc) bs).1.map fun row => elemBytes (epSize x) row).flatten) ∧
        -- one write of it
        (∀ p ps, e.left = some (p :: ps) → p.data ≠ [] → s.mem.wf = true → (∀ j < p.data.length, s.fgByte (p.key + j) = false) →
          (v.engineGate 1 (e.toIssued.part (ps.length + 1)) [(p.key, p.data.length)]).2 = true → Completes .epilogueRun s fun t =>
            OnlyBytes s.mem t.mem p.key p.data.length ∧ (∀ j < p.data.length, p.data[j]? = some (memGet t.mem (p.key + j))) ∧
            t.core.regs = c.regs ∧ t.tiles = s.tiles ∧
            ∃ e', t.core.mtx.arrQ = .mepi e' :: r ∧ e'.left = some ps ∧ e'.stuck = e.stuck ∧ e'.acc = e.acc ∧ e'.desc = e.desc ∧ e.stamp ≤ e'.stamp) ∧
        -- the end: its count, or an uncorrectable unit that its last write met
        (e.left = some [] → s.mem.wf = true → (∀ j < 16, s.fgByte (obj + j) = false) → (v.engineGate 1 e.toIssued [(obj, 16)]).2 = true →
          Completes .epilogueRun s fun t => t.core.mtx.arrQ = r ∧ t.core.regs = c.regs ∧ t.tiles = s.tiles ∧ OnlyBytes s.mem t.mem obj 16 ∧
            memNat t.mem obj 16 = (if e.stuck then boFault (memNat s.mem obj 16) 0xA
              else boAdd (memNat s.mem obj 16) (epRows x * epCols x * epSize x) e.stamp) % 2 ^ 128)))

/-- R153, R155: the INT32 accumulation of one output element, by integer arithmetic. -/
def Obligations.IntegerBlockSums : Prop :=
  ∀ (x : Nat) (as bs : List Int), x < 2 ^ 32 →
    let v := fun i : Int => Fp.fin (decide (i < 0)) i.natAbs 0
    let sum := signed 32 x + (List.zipWith (· * ·) as bs).sum
    let r := accumulate .int32 x (blockSum none (as.map v) (bs.map v))
    signed 32 r.1 = max (-2 ^ 31) (min (2 ^ 31 - 1) sum) ∧ r.1 < 2 ^ 32 ∧
      r.2 = if -2 ^ 31 ≤ sum ∧ sum < 2 ^ 31 then 0#8 else 0x80#8

/-- R161 to R163: tile moves; the halves of FP64 elements lie in the two tiles of the pair in an order that R156 leaves open (log entry 11),
so their MTOV and MFROMV are stated as completing. When the PART and the format of a tile move are judged is the model's reading (log entry
113). -/
def Obligations.TileMoves : Prop :=
  ∀ (s : State) (acc : Sys2Proof.Small) (d : Dst) (a : Src) (row : BitVec 6) (part : BitVec 2),
    let c := s.core
    let limit := if c.ctl.solo then 8 else 4
    let t0 := c.tileOf acc.val
    let wide := s.tileFmt t0 = .fp64
    let ts := if wide ∧ acc.val % 2 = 0 then [t0, c.tileOf (acc.val + 1)] else [t0]
    let writes := ∃ t ∈ ts, s.mgoWrites t = true
    let reads := ∃ t ∈ ts, s.mepiReads t = true
    let badPart := (wide ∧ acc.val % 2 = 1) ∨ (¬ wide ∧ 2 ≤ part.toNat)
    let at0 := 64 * row.toNat + 32 * part.toNat
    ¬ (c.ctl.solo = true ∧ c.ctl.own = false) →
    (limit ≤ acc.val → ∀ i ∈ [Instr.mza acc, .mtov d acc row part, .mfromv a acc row part], TrapsIllop i s) ∧
    (acc.val < limit →
      (writes → ∀ i ∈ [Instr.mza acc, .mtov d acc row part, .mfromv a acc row part], WaitsFor i s .arrayWork) ∧
      (reads → WaitsFor (.mza acc) s .arrayWork ∧ (¬ badPart → WaitsFor (.mfromv a acc row part) s .arrayWork)) ∧
      (¬ writes → badPart → TrapsIllop (.mtov d acc row part) s ∧ TrapsIllop (.mfromv a acc row part) s) ∧
      (¬ writes → ¬ badPart → s.badTile t0 = true ∨ (wide ∧ s.badTile (c.tileOf (acc.val + 1)) = true) →
        Traps (.mtov d acc row part) s 0xA (regInfo (5 * 4096 + acc.val))) ∧
      (¬ writes →
        (¬ reads → ¬ (wide ∧ acc.val % 2 = 0) → exec (.mza acc) s = .next (s.post 2 (.zeroTile t0))) ∧
        (¬ reads → wide → acc.val % 2 = 0 →
          exec (.mza acc) s = .next ((s.post 2 (.zeroTile t0)).post 2 (.zeroTile (c.tileOf (acc.val + 1))))) ∧
        (¬ wide → part.toNat < 2 →
          (s.badTile t0 = false → GivesVector (.mtov d acc row part) s 4 d 32 32 fun j v => v = s.tileAt t0 (at0 + j)) ∧
          (¬ reads → exec (.mfromv a acc row part) s = .next (s.post 4 (.tile
            ((List.range 32).map fun j => (t0 * 4096 + at0 + j, .ofNat 32 (laneGet 32 (s.gV a) j))))))) ∧
        (wide → acc.val % 2 = 0 →
          (s.badTile t0 = false → s.badTile (c.tileOf (acc.val + 1)) = false →
            GivesVector (.mtov d acc row part) s 4 d 64 16 fun j v =>
              let i := 64 * row.toNat + 16 * part.toNat + j
              let p := s.tileAt t0 i
              let q := s.tileAt (c.tileOf (acc.val + 1)) i
              v = p + q * 2 ^ 32 ∨ v = q + p * 2 ^ 32) ∧
          (¬ reads → ∃ ws, exec (.mfromv a acc row part) s = .next (s.post 4 (.tile ws)) ∧ ws.length = 32))))

/-- R172, R173, R175, R179: the passes, with their bank excesses, and SPESHP. -/
def Obligations.SumProductPasses : Prop :=
  ∀ (s : State) (sh : BitVec 6) (tm : BitVec 4) (z : BitVec 12) (a : Src), s.bad = [] →
    let c := s.core
    let p := c.port
    let barred := c.ctl.solo = true ∧ c.ctl.own = false
    let shp := s.shapeAt sh
    let sp := c.ctl.spemode
    let off := c.ctl.adjoff.toNat
    let base := fun t : Nat => z.toNat + t * c.ctl.speqs.toNat
    let on := (List.range 4).filter fun t => tm.getLsbD t
    let open' := (List.range 16).filter fun l => !shapeMasked shp l
    let leafAt := fun t l => base t + shapeLeaf shp l
    let rootAt := fun t => base t + shapeRoot shp
    let addr := (s.gS a).toNat
    -- the excess of reading some indexes at most twice in each bank and cycle, and of writing them `allow` times
    let readX := fun (P : Nat → Prop) (x : Nat) =>
      (∀ b < 32, ∀ l : List Nat, l.Nodup → (∀ i ∈ l, P i ∧ i % 32 = b) → l.length ≤ 2 * (x + 1)) ∧
      (x = 0 ∨ ∃ b < 32, ∃ l : List Nat, l.Nodup ∧ (∀ i ∈ l, P i ∧ i % 32 = b) ∧ 2 * x < l.length)
    let writeX := fun (l : List Nat) (allow x : Nat) =>
      (∀ b < 32, (l.filter fun i => i % 32 == b).length ≤ x + allow) ∧
      (x = 0 ∨ ∃ b < 32, (l.filter fun i => i % 32 == b).length = x + allow)
    let owes := fun (x lat y : Nat) =>
      let u := { s with core := { c with lost := max c.lost x } }
      if 0 < y then u.post lat (.freeze y) else u
    let values := fun (v : Nat → Nat → Nat) => ∀ t ∈ on,
      (∀ l < 16, v t (16 + l) = if shapeMasked shp l then nodeIdent sp (shapeNode shp (8 + l / 2)) else s.zAt (leafAt t l)) ∧
      ∀ n, 1 ≤ n → n < 16 → v t n = (nodeValue sp (shapeNode shp n) (v t (2 * n)) (v t (2 * n + 1))).1
    let adjoints := fun (v g : Nat → Nat → Nat) => ∀ t ∈ on, g t 1 = s.zAt (rootAt t + off) ∧ ∀ n, 1 ≤ n → n < 16 →
      let l := g t (2 * n)
      let r := g t (2 * n + 1)
      match shapeNode shp n with
      | 0 => l = g t n ∧ r = g t n
      | 1 => l = (modeMul sp (g t n) (v t (2 * n + 1))).1 ∧ r = (modeMul sp (g t n) (v t (2 * n))).1
      | 2 => if rightLarger sp (v t (2 * n)) (v t (2 * n + 1)) then l = 0 ∧ r = g t n else l = g t n ∧ r = 0
      | _ => l = g t n ∧ r = 0
    let upIn := fun i => i ≤ 4095
    let goodUp := ∀ t ∈ on, upIn (rootAt t) ∧ ∀ l ∈ open', upIn (leafAt t l)
    let goodDn := ∀ t ∈ on, upIn (rootAt t + off) ∧ ∀ l ∈ open', upIn (leafAt t l + off)
    let leaves := fun i => ∃ t ∈ on, ∃ l ∈ open', i = leafAt t l
    (barred → TrapsIllop (.speup sh tm z) s ∧ TrapsIllop (.spedn sh tm z) s ∧ TrapsIllop (.speshp sh a) s) ∧
    (¬ barred →
      (¬ goodUp → TrapsIllop (.speup sh tm z) s) ∧ (¬ goodDn → TrapsIllop (.spedn sh tm z) s) ∧
      (goodUp → ∃ x y, readX leaves x ∧ writeX (on.map rootAt) 1 y ∧
        (c.ctl.chk = true → 0 < x + y → ∃ info, Traps (.speup sh tm z) s 0xE info) ∧
        (c.ctl.chk = false ∨ x + y = 0 → ∃ v : Nat → Nat → Nat, ∃ fl : Fl, values v ∧
          (∀ b < 8, fl.getLsbD b = true ↔ ∃ t ∈ on, ∃ n, 1 ≤ n ∧ n < 16 ∧
            (nodeValue sp (shapeNode shp n) (v t (2 * n)) (v t (2 * n + 1))).2.getLsbD b = true) ∧
          let u := (owes x 12 y).post 12 (.scratch (on.map fun t => (rootAt t, .ofNat 32 (v t 1))))
          exec (.speup sh tm z) s = .next (if fl = 0#8 then u else u.post 12 (.flags fl)))) ∧
      (goodUp → goodDn → ∃ x y, readX (fun i => leaves i ∨ ∃ t ∈ on, i = rootAt t + off) x ∧
        writeX (on.map fun t => open'.map fun l => leafAt t l + off).flatten 2 y ∧
        (c.ctl.chk = true → 0 < x + y → ∃ info, Traps (.spedn sh tm z) s 0xE info) ∧
        (c.ctl.chk = false ∨ x + y = 0 → ∃ v g : Nat → Nat → Nat, ∃ fl : Fl, values v ∧ adjoints v g ∧
          (∀ b < 8, fl.getLsbD b = true ↔ ∃ t ∈ on, ∃ n, 1 ≤ n ∧ n < 16 ∧ shapeNode shp n = 1 ∧
            ((modeMul sp (g t n) (v t (2 * n + 1))).2.getLsbD b = true ∨ (modeMul sp (g t n) (v t (2 * n))).2.getLsbD b = true)) ∧
          exec (.spedn sh tm z) s = .next ((owes x 16 y).post 16 (.adjoints sp
            (on.map fun t => open'.map fun l => (leafAt t l + off, BitVec.ofNat 32 (g t (16 + l)))).flatten fl)))) ∧
      (addr % 32 ≠ 0 → Traps (.speshp sh a) s 6 (.ofNat 64 addr)) ∧
      (addr % 32 = 0 → (∀ o, s.window c addr 32 ≠ some (.spad, o)) → TrapsIllop (.speshp sh a) s) ∧
      (addr % 32 = 0 → ∀ o, s.window c addr 32 = some (.spad, o) →
        (if c.ctl.chk then s.missedBank (c.unf + 3) (.load 0#1024 [⟨0, s.keyOf c .spad o, 32⟩] (.ofNat 64 addr)) else none) = none →
        Completes (.speshp sh a) s fun t => OnlyPort s t ∧ t.core.port = { p with
          landings := p.landings ++ [⟨c.unf + 6, c.unf, c.flow.slot, .shape sh.toNat, none, true, none, false, false, 0⟩]
          sched := p.sched ++ [⟨c.unf + 3, c.unf, c.flow.slot, .load 0#1024 [⟨0, s.keyOf c .spad o, 32⟩] (.ofNat 64 addr)⟩] }))

/-- R180: the moves between vectors and scratch registers. -/
def Obligations.SumProductMoves : Prop :=
  ∀ (s : State) (a : Src) (d : Dst) (z : BitVec 12),
    ¬ (s.core.ctl.solo = true ∧ s.core.ctl.own = false) →
    let writes := fun (zs : List (Nat × BitVec 32)) (f : Nat → Nat) =>
      zs.length = 32 ∧ ∀ i < 32, zs[i]? = some (z.toNat + i, .ofNat 32 (f i))
    let converts := fun (i : Instr) (f : Nat → Nat × Fl) => ∃ zs fl, writes zs (fun j => (f (s.zAt (z.toNat + j))).1) ∧
      (∀ b < 8, fl.getLsbD b = true ↔ ∃ j < 32, (f (s.zAt (z.toNat + j))).2.getLsbD b = true) ∧
      exec i s = .next (if fl = 0#8 then s.post 3 (.scratch zs) else (s.post 3 (.scratch zs)).post 3 (.flags fl))
    (4064 < z.toNat → ∀ i ∈ [Instr.speld a z, .spest d z, .specvtF32Sp32 z, .specvtSp32F32 z, .speza z], TrapsIllop i s) ∧
    (z.toNat ≤ 4064 →
      (∃ zs, writes zs (fun j => laneGet 32 (s.gV a) j) ∧ exec (.speld a z) s = .next (s.post 3 (.scratch zs))) ∧
      (∃ zs, writes zs (fun _ => 0) ∧ exec (.speza z) s = .next (s.post 2 (.scratch zs))) ∧
      (s.bad = [] → GivesVector (.spest d z) s 3 d 32 32 (fun j v => v = s.zAt (z.toNat + j)) ∧
        converts (.specvtF32Sp32 z) toSp ∧ converts (.specvtSp32F32 z) fromSp))

/-- R253, R262, R263, R274: engine operations at issue. -/
def Obligations.EngineOperationsAreQueued : Prop :=
  ∀ (s : State) (o a b c : Src) (n : RegNo),
    let k := s.core
    let p := k.port
    let x := s.gS a
    let y := s.gS b
    let z := s.gS c
    let eng := s.engineOf
    let job : Issued := ⟨p.seq, k.unf, k.clock, k.exc.level, k.exc.asid, k.exc.ptroot, p.clockFor p.seq none⟩
    let all : List Instr := [.cpy o a b c, .cpyp o a b c, .cpyg o a b c, .cpys o a b c, .smrg o a b, .stbind o n c, .send o a b c,
      .recvadd o a b c, .ttset o a b]
    let full := 8 ≤ (p.cq eng ++ s.victimJobs eng).length
    let rd := z.toNat
    let ix := y.toNat
    let w := y.toNat
    (eng = if k.ctl.slotmap.getLsbD (6 + s.cIssued % 2) then 1 else 0) ∧
    (∀ code info late, s.checkObj (s.gS o).toNat = .bad code info late → ∀ i ∈ all,
      exec i s = .next (s.takeTrap ⟨.ofNat 8 code, k.flow.slot, info, false, late⟩)) ∧
    (∀ win obj, s.checkObj (s.gS o).toNat = .ok (win, obj) →
      let comm := fun (op : CommOp) => p.nq ++ [(⟨job, obj, op⟩ : CommJob)]
      let queued := fun (op : CopyOp) (t : State) => OnlyPort s t ∧
        let q := p.cq eng ++ [(⟨job, obj, op, 0, 0⟩ : CopyJob)]
        t.core.port = if eng = 0 then { p with cq0 := q, seq := p.seq + 1 } else { p with cq1 := q, seq := p.seq + 1 }
      let copies := fun (i : Instr) (bad : Prop) (op : CopyOp) =>
        (bad → TrapsIllop i s) ∧ (¬ bad → full → WaitsFor i s .engineQueue) ∧ (¬ bad → ¬ full → Completes i s (queued op))
      copies (.cpy o a b c) (2 ^ 28 ≤ z.toNat) (.cpy x y z) ∧ copies (.cpyp o a b c) (badConv z.toNat = true) (.cpyp x y z) ∧
      (if s.badGather z.toNat = false ∧ ¬ full ∧ 0 < bits z.toNat 22 16 ∧ bits z.toNat 0 22 < k.floor .spad
        then Traps (.cpyg o a b c) s 5 (.ofNat 64 (Win.spad.base + bits z.toNat 0 22))
        else copies (.cpyg o a b c) (s.badGather z.toNat = true) (.cpyg x y z)) ∧
      copies (.cpys o a b c) (s.badCpys y.toNat z.toNat = true) (.cpys x y z (k.tileOf (y.toNat % 8))) ∧
      copies (.smrg o a b) False (.smrg x y) ∧
      ((2 ^ 28 ≤ z.toNat → TrapsIllop (.stbind o n c) s) ∧ (z.toNat < 2 ^ 28 → full → WaitsFor (.stbind o n c) s .engineQueue) ∧
        (z.toNat < 2 ^ 28 → ¬ full → exec (.stbind o n c) s = .next (s.post 1 (.bind n (if z = 0#64 then none else some (obj, z.toNat)))))) ∧
      (rd % 64 ≠ 0 ∨ rd < 64 ∨ 4096 < rd → TrapsIllop (.send o a b c) s) ∧
      (rd % 64 = 0 → 64 ≤ rd → rd ≤ 4096 →
        (x.toNat % 64 ≠ 0 → Traps (.send o a b c) s 6 x) ∧
        (x.toNat % 64 = 0 → s.window k x.toNat rd = none → Traps (.send o a b c) s 5 (.ofNat 64 (s.spanFault x.toNat))) ∧
        (x.toNat % 64 = 0 → ∀ u off, s.window k x.toNat rd = some (u, off) → u ≠ .spad → TrapsIllop (.send o a b c) s) ∧
        (x.toNat % 64 = 0 → ∀ off, s.window k x.toNat rd = some (.spad, off) →
          (s.badPeer w rd = true → TrapsIllop (.send o a b c) s) ∧
          (s.badPeer w rd = false → k.prov = true → WaitsFor (.send o a b c) s .provisional) ∧
          (s.badPeer w rd = false → k.prov = false → ∀ dest, s.peerCore w = some dest →
            let goal := fun (j : Nat) => if pwRemote w then SendTo.there (pwPkg w) (pwGang w) (pwVc w) (pwSlice w) (pwOff w + 64 * j)
              else .here dest ((if pwSlice w then keySlice (dest % 65536) (pwOff w) else keySpad (dest % 65536) (pwOff w)) + 64 * j)
            let reads : List Sched := (List.range (rd / 64)).map fun j => ⟨k.unf + 3 + j, k.unf, k.flow.slot,
              .send (s.keyOf k .spad off + 64 * j) (crossDelay k.id (dest % 65536)) (goal j) (pwCtr w) p.seq⟩
            let miss := if k.ctl.chk then s.sendConflict reads else none
            (∀ m, miss = some m → Traps (.send o a b c) s 3 (.ofNat 64 (k.flow.pc.toNat + k.flow.slot * 4096 + 2 ^ 15 + m * 2 ^ 16))) ∧
            (miss = none → 8 ≤ p.nq.length → WaitsFor (.send o a b c) s .engineQueue) ∧
            (miss = none → p.nq.length < 8 → Completes (.send o a b c) s fun t => OnlyPort s t ∧ t.core.port = { p with
              nq := comm (if pwRemote w then .sendRemote (pwPkg w) (sendFlow (pwGang w) (pwVc w)) (rd / 64) rd else .send (rd / 64) rd), seq := p.seq + 1
              sched := p.sched ++ reads })))) ∧
      (bits rd 21 43 ≠ 0 ∨ raLen rd % 64 ≠ 0 ∨ raLen rd < 64 ∨ 4096 < raLen rd → TrapsIllop (.recvadd o a b c) s) ∧
      (bits rd 21 43 = 0 → raLen rd % 64 = 0 → 64 ≤ raLen rd → raLen rd ≤ 4096 →
        (x.toNat % 64 ≠ 0 → Traps (.recvadd o a b c) s 6 x) ∧
        (x.toNat % 64 = 0 → s.window k x.toNat (raLen rd) = none → Traps (.recvadd o a b c) s 5 (.ofNat 64 (s.spanFault x.toNat))) ∧
        (∀ u v, x.toNat % 64 = 0 → y.toNat % 64 = 0 → s.window k x.toNat (raLen rd) = some (.spad, u) →
          s.window k y.toNat (raN rd * raLen rd) = some (.spad, v) →
          (8 ≤ p.nq.length → WaitsFor (.recvadd o a b c) s .engineQueue) ∧
          (p.nq.length < 8 → Completes (.recvadd o a b c) s fun t => OnlyPort s t ∧
            t.core.port = { p with nq := comm (.recvadd x y z false), seq := p.seq + 1 }))) ∧
      let inside := ix ≤ 4095 ∧ k.exc.ttlo.toNat ≤ ix ∧ ix ≤ k.exc.tthi.toNat
      (¬ inside → TrapsIllop (.ttset o a b) s) ∧
      (inside → x.toNat % 64 ≠ 0 → Traps (.ttset o a b) s 6 x) ∧
      (inside → x.toNat % 64 = 0 → (∀ u, s.window k x.toNat 64 ≠ some (.spad, u)) → TrapsIllop (.ttset o a b) s) ∧
      (inside → x.toNat % 64 = 0 → ∀ u, s.window k x.toNat 64 = some (.spad, u) →
        (8 ≤ p.nq.length → WaitsFor (.ttset o a b) s .engineQueue) ∧
        (p.nq.length < 8 → Completes (.ttset o a b) s fun t => OnlyPort s t ∧
          t.core.port = { p with nq := comm (.ttset x.toNat ix), seq := p.seq + 1 })))

/-- R254 to R257, R192, R193, R264, R267: engines as they run; every key is stated through the model's own extents. What a chunk does that
finds its bank taken is the model's reading (log entry 121). -/
def Obligations.EnginesMoveTheirBytes : Prop :=
  ∀ (s : State) (eng : Fin 2) (j : CopyJob) (clock : Nat),
    let c := s.core
    let p := c.port
    let obj := memNat s.mem j.obj 16
    -- the core as it was at the operation's issue (R350)
    let u := s.asIssued j.toIssued
    let gate := fun (rs : List Run) => (u.engineGate (2 + eng.val) j.toIssued rs).2 = true
    let rest := fun (q : List CopyJob) (t : State) => t.core.port =
      if eng.val = 0 then { p with cq0 := q, stamp := t.core.port.stamp, grants := t.core.port.grants }
      else { p with cq1 := q, stamp := t.core.port.stamp, grants := t.core.port.grants }
    let leaves := fun (t : State) => rest (p.cq eng.val).tail t ∧ t.core.regs = c.regs ∧ t.core.ctl = c.ctl ∧ t.core.exc = c.exc
    -- the cycles by which a chunk waits for its banks, and a counter raised by it
    let lateOf := fun (s : State) (k : Nat) (data : List Byte) =>
      let need := bankNeeds [.store [⟨k, data⟩]]
      (s.takeBanks s.now need).banksLate s.now need
    let counted := fun (r : RegNo) (n : Nat) => p.counters.set r (.ofNat 32 (min ((p.counters.get r).toNat + n) (2 ^ 32 - 1)))
    let srcKeys := fun (ps : List Piece) => runKeys (ps.map Piece.src).flatten
    let dstKeys := fun (ps : List Piece) => runKeys (ps.map Piece.dst).flatten
    -- a copy of a provisional core reads what its instance wrote, and writes the instance's buffer (R236, R313)
    (∀ slot idx l i ps, s.bad = [] → s.flips = [] → c.prov = true → c.launch = some (slot, idx) → s.launchAt slot = some l →
      (l.insts.find? fun x => x.idx == idx) = some i → s.copyReady eng.val = some (j, clock) →
      (match j.op with | .cpys .. | .smrg .. => False | _ => True) → u.jobPieces j = .ok ps → u.unitNext j ps = none →
      s.heldHost ((j.obj, 16) :: (ps.map Piece.dst).flatten) = false → gate (u.touched j ps) → Apart s (dstKeys ps) j.obj →
      (∀ k ∈ dstKeys ps, isCohKey k = true) → isCohKey j.obj = true →
      let seen := fun (k : Nat) => if isCohKey k then (bufByte i.buf k).getD (memGet s.mem k) else memGet s.mem k
      let data := (ps.map fun x => x.f ((runKeys x.src).map seen)).flatten
      data.length = (dstKeys ps).length → Completes (.copyEngineRun eng) s fun t => leaves t ∧ t.mem = s.mem ∧
        (∀ line, (cget (0, 0) t.lines line).1 = (cget (0, 0) s.lines line).1) ∧
        ∃ add l', t.launchAt slot = some l' ∧ (l'.insts.find? fun x => x.idx == idx) = some { i with buf := i.buf ++ add } ∧
          (∀ n < data.length, data[n]? = bufByte add ((dstKeys ps).getD n 0)) ∧
          ∀ k, k ∉ dstKeys ps → (k < j.obj ∨ j.obj + 16 ≤ k) → bufByte add k = none) ∧
    (Sound s → s.copyReady eng.val = some (j, clock) →
      (∀ ps, (match j.op with | .cpys .. | .smrg .. => False | _ => True) → u.jobPieces j = .ok ps → u.unitNext j ps = none → gate (u.touched j ps) →
        Apart s (dstKeys ps) j.obj → Completes (.copyEngineRun eng) s fun t => leaves t ∧
          ∃ stamp, WritesAnd s.mem t.mem (dstKeys ps) (ps.map fun x => x.f (bytesAt s.mem (runKeys x.src))).flatten j.obj
            (boAdd obj j.op.count stamp)) ∧
      (∀ info, (match j.op with | .cpys .. | .smrg .. => False | _ => True) → u.jobPieces j = .fault info → gate ((j.obj, 16) :: u.listRuns j) → Apart s [] j.obj →
        Completes (.copyEngineRun eng) s fun t => leaves t ∧ WritesAnd s.mem t.mem [] [] j.obj (boFault obj 9)) ∧
      (∀ a b n, j.op = .cpy a b n → j.moved = 0 → ∀ ra rb, u.extentRuns b.toNat n.toNat false = .ok ra →
        u.extentRuns a.toNat n.toNat true = .ok rb → ∃ ps, u.jobPieces j = .ok ps ∧ srcKeys ps = runKeys ra ∧ dstKeys ps = runKeys rb ∧
          ∀ x ∈ ps, ∀ bs, x.f bs = bs) ∧
      (∀ a b n ra rb q ps, j.op = .cpy a b n → s.cpyBytes j = some (ra, rb) → runsMeet ra rb = false → u.jobPieces j = .ok (q :: ps) →
        ps ≠ [] → q.whole = true → schedRuns (q.src ++ q.dst) ≠ [] →
        (u.engineGate (2 + eng.val) (j.toIssued.part (j.moved + 1)) (q.src ++ q.dst)).2 = true → Apart s (runKeys q.dst) j.obj →
        Completes (.engineBankAccess eng) s fun t =>
          WritesAnd s.mem t.mem (runKeys q.dst) (bytesAt s.mem (runKeys q.src)) j.obj (memNat s.mem j.obj 16) ∧ t.core.regs = c.regs ∧
          ∃ j', rest (j' :: (p.cq eng.val).tail) t ∧ j'.moved = j.moved + (runKeys q.src).length ∧ j'.op = j.op ∧
            j'.obj = j.obj ∧ j'.seq = j.seq) ∧
      (∀ a b w tile rec src, j.op = .cpys a b w tile → (segKind w.toNat = 2 → c.mtx.arrQ = []) → u.recordRuns a.toNat true = .ok rec →
        u.segmentRuns b.toNat w.toNat = .ok src → gate ((j.obj, 16) :: src ++ rec) → Apart s (runKeys rec) j.obj →
        let r := bytesNat (bytesAt s.mem (runKeys rec))
        let ls := s.logits b.toNat w.toNat tile src
        (badSegment r w.toNat = true → Completes (.cpysRecordUpdate eng) s fun t => leaves t ∧
          WritesAnd s.mem t.mem [] [] j.obj (boFault obj 9)) ∧
        (badSegment r w.toNat = false → Completes (.cpysRecordUpdate eng) s fun t => leaves t ∧ ∃ stamp,
          WritesAnd s.mem t.mem (runKeys rec) (natBytes (addSegment r w.toNat ls) 1024) j.obj (boAdd obj 1024 stamp))) ∧
      (∀ a b ra rb, j.op = .smrg a b → u.recordRuns a.toNat true = .ok ra → u.recordRuns b.toNat false = .ok rb →
        gate ((j.obj, 16) :: rb ++ ra) → Apart s (runKeys ra) j.obj →
        let x := bytesNat (bytesAt s.mem (runKeys ra))
        let y := bytesNat (bytesAt s.mem (runKeys rb))
        (badMerge x y = true → Completes (.smrgRecordUpdate eng) s fun t => leaves t ∧
          WritesAnd s.mem t.mem [] [] j.obj (boFault obj 9)) ∧
        (badMerge x y = false → Completes (.smrgRecordUpdate eng) s fun t => leaves t ∧ ∃ stamp,
          WritesAnd s.mem t.mem (runKeys ra) (natBytes (merge x y) 1024) j.obj (boAdd obj 1024 stamp)))) ∧
    (Sound s → ∀ q a b w, p.nq.find? s.recvClaims = some q → q.op = .recvadd a b w false → raLen w.toNat % 64 = 0 →
      (p.nq.map fun x => x.seq).Nodup → (∀ x ∈ p.nq, ∀ a b w, x.op ≠ .recvadd a b w true) →
      let claimed := p.counters.set (raCtr w.toNat) (p.counters.get (raCtr w.toNat) - .ofNat 32 (raN w.toNat * raLen w.toNat))
      let dst := runKeys [s.spadRun a.toNat (raLen w.toNat)]
      let part := fun i => runKeys [((s.spadRun b.toNat (raN w.toNat * raLen w.toNat)).1 + i * raLen w.toNat, raLen w.toNat)]
      let sz := (raTy w.toNat).bits / 8
      let add := fun (u v : Nat) => (laneAdd (raTy w.toNat) u v).1
      let sums := combine add (elems sz (bytesAt s.mem dst)) ((List.range (raN w.toNat)).map fun i => elems sz (bytesAt s.mem (part i)))
      (c.engineFree q.seq q.issue = false → Completes .recvaddCombine s fun t => OnlyPort s t ∧ t.core.port = { p with
        counters := claimed, nq := p.nq.map fun x => if x.seq == q.seq then { x with op := .recvadd a b w true } else x }) ∧
      (c.engineFree q.seq q.issue = true → Apart s dst q.obj → (∀ i < raN w.toNat, ∀ k ∈ part i, k ∉ dst) →
        (s.engineGate 4 q.toIssued [s.spadRun a.toNat (raLen w.toNat), s.spadRun b.toNat (raN w.toNat * raLen w.toNat), (q.obj, 16)]).2 = true →
        Completes .recvaddCombine s fun t =>
        WritesAnd s.mem t.mem dst (elemBytes sz sums) q.obj (boAdd (memNat s.mem q.obj 16) (raLen w.toNat) 0) ∧ t.core.regs = c.regs ∧
        t.core.port = { p with nq := p.nq.filter fun x => x.seq != q.seq, counters := claimed, grants := t.core.port.grants })) ∧
    (Sound s → ∀ (ch : Chunk), p.chunks = [ch] → ch.due ≤ c.unf → ch.dest = c.name → s.bankLocked ch.key = false → s.arrived = [] →
      (∀ i < ch.data.length, s.fgByte (ch.key + i) = false) → ch.data.length < 2 ^ 32 →
      let late := lateOf { s with core := { c with port := { p with chunks := [] } } } ch.key ch.data
      let writes := fun (t : State) => OnlyBytes s.mem t.mem ch.key ch.data.length ∧
        (∀ i < ch.data.length, ch.data[i]? = some (memGet t.mem (ch.key + i))) ∧ t.core.regs = c.regs
      (ch.sender = none → Completes .sendChunkLanding s fun t => writes t ∧
        (late = 0 → t.core.port = { p with chunks := [], counters := counted ch.ctr ch.data.length }) ∧
        (late ≠ 0 → t.core.port = { p with chunks := [] } ∧ t.arrived.map Prod.snd = [ch])) ∧
      -- a chunk of the core's own SEND, which has more to come
      (∀ q left total, ch.sender = some (c.name, q.seq) → p.nq = [q] → q.op = .send left total → 2 ≤ left → late = 0 →
        Completes .sendChunkLanding s fun t => writes t ∧ t.core.port = { p with
          chunks := [], counters := counted ch.ctr ch.data.length, nq := [{ q with op := .send (left - 1) total }] })) ∧
    (∀ (ch : Chunk), p.chunks = [ch] → ch.due ≤ c.unf → ch.sender = none → s.bankLocked ch.key = true → s.arrived = [] →
      Completes .sendChunkLanding s fun t => t.held = s.held ++ [ch] ∧ t.mem = s.mem ∧ t.core.port = { p with chunks := [] }) ∧
    (∀ z r, s.arrived = z :: r → z.1 ≤ s.now → z.2.sender = none → z.2.dest = c.name → Completes .sendChunkLanding s fun t =>
      t.arrived = r ∧ t.mem = s.mem ∧ t.core.regs = c.regs ∧
      t.core.port = { p with counters := counted z.2.ctr z.2.data.length }) ∧
    -- chunks of another package wait for a free cycle of their bank (R216, R265)
    (∀ (win : Bool) (off : BitVec 22) (ctr : RegNo) (data : List Byte),
      (sliceSize c.die < off.toNat + data.length → exec (.remoteChunkArrival win off ctr data) s = .next s) ∧
      (off.toNat + data.length ≤ sliceSize c.die → exec (.remoteChunkArrival win off ctr data) s = .next { s with
        held := s.held ++ [⟨c.unf, c.name, if win then keySlice c.id off.toNat else keySpad c.id off.toNat, ctr, data, none⟩] })) ∧
    (Sound s → s.arrived = [] → p.chunks = [] →
      (∀ (ch : Chunk) r, s.held = ch :: r → ch.sender = none → ch.dest = c.name → s.bankLocked ch.key = false →
        (s.engineTurn 4 (2 ^ 128) [(ch.key, ch.data.length)]).2 = true → (∀ i < ch.data.length, s.fgByte (ch.key + i) = false) →
        ch.data.length < 2 ^ 32 → Completes .sendChunkLanding s fun t => t.held = r ∧ OnlyBytes s.mem t.mem ch.key ch.data.length ∧
          (∀ i < ch.data.length, ch.data[i]? = some (memGet t.mem (ch.key + i))) ∧ t.core.regs = c.regs ∧
          t.core.port = { p with counters := counted ch.ctr ch.data.length, grants := t.core.port.grants }) ∧
      -- a SEND that is over reports, after the core's earlier BOINITs and BOARMs of the object (R241)
      (∀ q n cause, s.held = [] → p.nq = [q] → q.op = .report n cause → p.objBefore q.obj q.toIssued = false →
        (s.engineGate 4 q.toIssued [(q.obj, 16)]).2 = true → Apart s [] q.obj → Completes .sendChunkLanding s fun t =>
          WritesAnd s.mem t.mem [] [] q.obj (if cause = 0 then boAdd (memNat s.mem q.obj 16) n 0 else boFault (memNat s.mem q.obj 16) cause) ∧
          t.core.regs = c.regs ∧ t.core.port = { p with nq := [], grants := t.core.port.grants }) ∧
      (∀ q n cause, s.held = [] → p.nq = [q] → q.op = .report n cause → p.objBefore q.obj q.toIssued = true →
        exec .sendChunkLanding s = .next s))

/-- R265 to R276: direct transfers and the tile table, in the context of the core that wrote the entry. The model's choices: units and slots
of entries (log entry 86), the records of refused and abandoned transfers (87), when a transfer times out (88). -/
def Obligations.TileTableInstructionsAndFirings : Prop :=
  ∀ (s : State) (a b : Src) (e : TileEntry) (f : Firing) (chunk : TileChunk),
    let c := s.core
    let p := c.port
    let x := (s.gS a).toNat
    let y := (s.gS b).toNat
    let inside := x ≤ 4095 ∧ c.exc.ttlo.toNat ≤ x ∧ x ≤ c.exc.tthi.toNat
    let w := e.image.toNat
    let len := teLen w
    let obj := fun k => memNat s.mem k 16
    -- the entry's own record becomes `g` of it
    let only := fun (t : State) (die : Bool) (idx : Nat) (g : TileEntry → TileEntry) =>
      t = { s with tileTab := s.tileTab.map fun z => if z.die = die ∧ z.idx = idx then g z else z }
    (16 ≤ x → TrapsIllop (.recv a b) s) ∧
    (∀ i : RegNo, i.val = x → ((p.counters.get i).toNat < y → WaitsFor (.recv a b) s .recv) ∧
      (y ≤ (p.counters.get i).toNat → Completes (.recv a b) s fun t => OnlyPort s t ∧
        t.core.port = { p with counters := t.core.port.counters } ∧ ∀ k : RegNo,
          (t.core.port.counters.get k).toNat = (p.counters.get k).toNat - (if k = i then y else 0))) ∧
    (¬ inside → TrapsIllop (.tready a) s ∧ TrapsIllop (.twait a) s) ∧
    (inside → c.prov = true → WaitsFor (.tready a) s .provisional) ∧
    (inside → c.prov = false → s.fencePending .package true = true → WaitsFor (.tready a) s .tile) ∧
    (inside → c.prov = false → s.fencePending .package true = false →
      (s.entryAt c.die x = none → exec (.tready a) s = .next s) ∧
      (∀ z, s.entryAt c.die x = some z → z.firing = none → Completes (.tready a) s fun t =>
        only t c.die x fun e => { e with firing := some ⟨p.pts, false, false, c.name, s.issuedNow⟩ }) ∧
      (∀ z, s.entryAt c.die x = some z → z.firing ≠ none → z.pending = none → Completes (.tready a) s fun t =>
        only t c.die x fun e => { e with pending := some ⟨p.pts, false, false, c.name, s.issuedNow⟩ }) ∧
      (∀ z k, Sound s → s.entryAt c.die x = some z → z.firing ≠ none → z.pending ≠ none → z.core = c.name → s.entryObj z = some k →
        s.bankLocked k = false → Apart s [] k → Completes (.tready a) s fun t => WritesAnd s.mem t.mem [] [] k (boFault (obj k) 9) ∧ t.tileTab = s.tileTab)) ∧
    (inside → (s.entryAt c.die x = none → exec (.twait a) s = .next s) ∧
      (∀ z, s.entryAt c.die x = some z →
        (z.pending ≠ none ∨ (∃ g, z.firing = some g ∧ g.sent = false) → WaitsFor (.twait a) s .tile) ∧
        (z.pending = none → (∀ g, z.firing = some g → g.sent = true) → exec (.twait a) s = .next s))) ∧
    (Sound s → ∀ die idx, s.entryAt die idx = none → s.tileSender die idx chunk = false → Completes (.tileChunkStage die idx chunk) s fun t =>
      t.mem = s.mem ∧ t.core = c ∧ t.tileTab = s.tileTab ∧ (
        s.logV.length + 2 ≤ 4096 → ∃ r ∈ t.logV, r.cls = 3#4 ∧ r.cause = 9#8 ∧ r.addr = noAddr idx ∧
          r.src = .ofNat 16 (match chunk.port with | some q => 4 * 4096 + q.val | none => 3 * 4096))) ∧
    (Sound s → s.entryAt e.die e.idx = some e → e.core = c.name →
      -- the context as it was when TTSET issued (R350), and bank cycles for its engine (R216)
      let u := s.asIssued e.job
      let gate := fun (rs : List Run) => (match e.firing with | some g => s.firingGate g.job g.setter rs | none => s.engineGate 4 e.job rs).2 = true
      -- a packet to the package at a position, by the port of its flow and to the address that the peer table gives it (R276, R422)
      let sends := fun (t : State) (part pos : Nat) (body : NetBody) => ∀ port pe,
        s.portFor part (peerPkg (tePeer w pos)) (tileFlow e.idx) = some port →
        s.peers.find? (fun z => z.1 == part * 8192 + peerPkg (tePeer w pos)) = some pe →
        (⟨peerPkg (tePeer w pos), port, pe.2.extractLsb' 64 128, body⟩ : NetPkt) ∈ t.netOut
      (e.firing = some f → f.fired = false → ∀ rs, u.extentRuns (teSrc w) len false = .ok rs →
        (∀ z ∈ teTargets w, ∃ ts, u.extentRuns z.2 len true = .ok ts) → (u.firingGate f.job f.setter rs).2 = true → Completes (.tileFiringStart e.die e.idx) s fun t =>
          let data := bytesAt s.mem (runKeys rs)
          let parts := teChunks w data
          t.mem = s.mem ∧ t.core = { c with port := { p with grants := t.core.port.grants } } ∧
          (∃ z, t.entryAt e.die e.idx = some z ∧ z.image = e.image ∧ z.pending = e.pending ∧ z.slots = e.slots ∧
            z.staged = (if teOp w = 0 then e.staged else e.staged ++ parts) ∧
            ∃ g, z.firing = some g ∧ g.fired = true ∧ g.sent = false ∧ f.clock ≤ g.clock ∧ g.setter = f.setter) ∧
          (∀ q ∈ teOthers w, peerRemote (tePeer w q) = false → ∀ d ∈ parts,
            (c.name, Instr.tileChunkStage (peerDie (tePeer w q)) e.idx d) ∈ t.agenda) ∧
          (∀ q ∈ teOthers w, peerRemote (tePeer w q) = true → ∀ d ∈ parts, sends t (s.partOf c.id) q (.tile (peerDie (tePeer w q)) e.idx d))) ∧
      (e.firing = some f → f.fired = false → ∀ info, u.extentRuns (teSrc w) len false = .fault info → ∀ k, u.entryObj e = some k →
        s.bankLocked k = false → Apart s [] k →
        Completes (.tileFiringStart e.die e.idx) s fun t => WritesAnd s.mem t.mem [] [] k (boFault (obj k) 9) ∧
          ∃ z, t.entryAt e.die e.idx = some z ∧ z.firing = none ∧ z.pending = none ∧ z.staged = []) ∧
      (e.accepts chunk = true → teOp w ≠ 0 → Completes (.tileChunkStage e.die e.idx chunk) s fun t =>
        only t e.die e.idx fun z => { z with staged := z.staged ++ [chunk] }) ∧
      (e.accepts chunk = true → teOp w = 0 → teParts w = 1 → e.staged = [] → chunk.pos ∉ e.written → ∀ k rs, s.entryObj e = some k →
        u.extentRuns (genAddr (teDst w) ((chunk.pos * len : Nat) : Int)) len true = .ok rs → gate ((k, 16) :: rs) →
        chunk.bad = false →
        Apart s (runKeys rs) k → Completes (.tileChunkStage e.die e.idx chunk) s fun t =>
          (∃ stamp, WritesAnd s.mem t.mem (runKeys rs) chunk.data k (boAdd (obj k) len stamp)) ∧ t.core.regs = c.regs ∧
          ∃ z, t.entryAt e.die e.idx = some z ∧ z.staged = [] ∧ z.written = e.written ++ [chunk.pos]) ∧
      (e.accepts chunk = false → s.tileSender e.die e.idx chunk = false → ∀ k, s.entryObj e = some k → s.bankLocked k = false → Apart s [] k →
        Completes (.tileChunkStage e.die e.idx chunk) s fun t => WritesAnd s.mem t.mem [] [] k (boFault (obj k) 9) ∧
          (chunk.pos < teNp w → peerRemote (tePeer w chunk.pos) = true →
            sends t (s.partOf (e.core % 65536)) chunk.pos (.refusal (peerDie (tePeer w chunk.pos)) e.idx)) ∧
          ∃ z, t.entryAt e.die e.idx = some z ∧ z.firing = none ∧ z.pending = none ∧ z.staged = []) ∧
      (e.firing = some f → f.fired = true → s.tileOnWay e = false → Completes (.sendPhaseEnd e.die (.received e.idx)) s fun t =>
        only t e.die e.idx fun z => { z with firing := some { f with sent := true } }) ∧
      -- another package refuses a chunk (R273)
      (∀ k, e.firing = some f → f.fired = true → f.sent = false → (∃ q ∈ teOthers w, peerRemote (tePeer w q) = true) → s.entryObj e = some k →
        s.bankLocked k = false → Apart s [] k → Completes (.sendPhaseEnd e.die (.refused e.idx)) s fun t =>
          WritesAnd s.mem t.mem [] [] k (boFault (obj k) 9) ∧ ∃ z, t.entryAt e.die e.idx = some z ∧ z.firing = none ∧ z.pending = none) ∧
      -- a fault that a lock hold has kept from the object's bank
      (∀ k cause info, e.owed = [(cause, info)] → s.entryObj e = some k → s.bankLocked k = false → Apart s [] k →
        Completes (.tileFiringComplete e.die e.idx) s fun t => WritesAnd s.mem t.mem [] [] k (boFault (obj k) cause) ∧
          ∃ z, t.entryAt e.die e.idx = some z ∧ z = { e with owed := [] }) ∧
      (∀ first others k rs, e.firing = some f → f.sent = true → e.owed = [] → teOp w ≠ 0 → len % 64 = 0 → 0 < len → 0 < teNp w →
        (List.range (teNp w)).map e.contribution = (first :: others).map (fun z => some (.ok z)) → (∀ z ∈ first :: others, z.length = len) →
        s.entryObj e = some k → u.extentRuns (teDst w) len true = .ok rs → gate ((k, 16) :: rs) → Apart s (runKeys rs) k →
        w.testBit 223 = false → Completes (.tileFiringComplete e.die e.idx) s fun t =>
          let sz := (teTy w).bits / 8
          let sums := combine (teFun w) (elems sz first) (others.map (elems sz))
          (∃ stamp, WritesAnd s.mem t.mem (runKeys rs) (elemBytes sz sums) k (boAdd (obj k) len stamp)) ∧ t.core.regs = c.regs ∧
          ∃ z, t.entryAt e.die e.idx = some z ∧ z.pending = none ∧ z.image = e.image ∧ z.firing.isSome = e.pending.isSome) ∧
      (∀ k pos, e.firing = some f → f.fired = true → f.sent = false → pos ∈ teOthers w → peerRemote (tePeer w pos) = true → s.entryObj e = some k →
        s.bankLocked k = false → Apart s [] k → Completes (.transportTimeout (.tile e.die e.idx pos)) s fun t => WritesAnd s.mem t.mem [] [] k (boFault (obj k) 9) ∧
          ∃ z, t.entryAt e.die e.idx = some z ∧ z.firing = none ∧ z.pending = none)) ∧
    (Sound s → ∀ j pkg flow l n, p.nq = [j] → j.op = .sendRemote pkg flow l n → p.sched = [] → p.chunks = [] →
      p.objBefore j.obj j.toIssued = false → (s.engineGate 4 j.toIssued [(j.obj, 16)]).2 = true → Apart s [] j.obj → Completes (.transportTimeout (.send c.name)) s fun t =>
      WritesAnd s.mem t.mem [] [] j.obj (boFault (obj j.obj) 9) ∧ t.core.port.nq = [] ∧ t.core.regs = c.regs) ∧
    (Sound s → ∀ j ad i, s.ttsetReady = some (j, ad, i) → (s.engineGate 4 j.toIssued [s.spadRun ad 64, (j.obj, 16)]).2 = true → Apart s [] j.obj →
      let image := bytesNat (bytesAt s.mem (runKeys [s.spadRun ad 64]))
      let free := s.freeSlots (c.die, i)
      let fails := badImage image = true ∨ free.length < teSlots image ∨
        ∃ q ∈ teOthers image, peerRemote (tePeer image q) = true ∧ s.knowsPeer (s.partOf c.id) (peerPkg (tePeer image q)) = false
      Completes .ttsetApply s fun t => t.core.regs = c.regs ∧ t.core.port = { p with nq := p.nq.filter (fun z => z.seq != j.seq), grants := t.core.port.grants } ∧
        WritesAnd s.mem t.mem [] [] j.obj (if fails then boFault (obj j.obj) 9 else boAdd (obj j.obj) 64 0) ∧
        (fails → t.tileTab = s.tileTab) ∧
        (¬ fails → ∀ z, z ∈ t.tileTab ↔ (z ∈ s.tileTab ∧ ¬ (z.die = c.die ∧ z.idx = i)) ∨ (0 < teNp image ∧
          z = ⟨c.die, i, c.name, j.toIssued, .ofNat 512 image, none, none, [], [], free.take (teSlots image), []⟩)))

/-- R281 to R294 and R366: waiting, events, forks and joins. The model's choices: nominal latencies (log entry 21), what a waiting
instruction waits for first (36), IDLE's wake-up (44), barriers beside tasks (118), how the clocks of scopes merge (126). -/
def Obligations.WaitingInstructionsAndTasks : Prop :=
  ∀ (s : State) (a b : Src) (task : BitVec 17),
    let c := s.core
    let k := c.tasks
    let free := c.flow.lock = none ∧ c.drained = true
    let idles := fun (i : Instr) (w : WaitState) => Completes i s fun t =>
      t = { s with core := { c with tasks := { k with wait := w }, flow := { c.flow with verdict := .waits .idle } } }
    let waiters := [Instr.wfe] ++ (if c.urg then [] else [Instr.bar, .ebar, .join]) ++
      (if 1 ≤ s.level then [Instr.idle] else []) ++ (if k.depth = 0 then [Instr.exit] else if c.urg then [] else [Instr.taskend])
    let joins := [Instr.exit, .taskend]
    (∀ i ∈ waiters, (c.flow.lock ≠ none → Traps i s 7 (.ofNat 64 (c.flow.pc.toNat + c.flow.slot * 4096))) ∧
      (c.flow.lock = none → c.drained = false → (i ∉ joins → WaitsFor i s .drain) ∧
        (i ∈ joins → k.count = 0 → Completes i s fun t => t = { s with core := { c with
          port := { c.port with pts := max c.port.pts k.clock }, flow := { c.flow with verdict := .waits .drain } } }))) ∧
    (c.urg = true → ∀ i ∈ [Instr.bar, .ebar, .join, .taskend, .fork task a b], TrapsIllop i s) ∧
    (k.depth = 0 → TrapsIllop .taskend s) ∧ (k.depth ≠ 0 → TrapsIllop .exit s) ∧ (s.level = 0 → TrapsPriv .idle s 0) ∧
    (c.urg = false → free →
      let arrives := fun (i : Instr) (sc : Scope) (w : WaitState) (held : Nat) =>
        (k.wait = w → WaitsFor i s .idle) ∧ (k.wait ≠ w → s.fencePending sc true = true → WaitsFor i s .drain) ∧
        (k.wait ≠ w → s.fencePending sc true = false → Completes i s fun t =>
          t.core.tasks = { k with wait := w } ∧ t.core.flow = { c.flow with verdict := .waits .idle } ∧ t.mem = s.mem ∧
          t.core.regs = c.regs ∧ t.core.port.pts = max c.port.pts held ∧
          (cwf 0 s.scopeGang = true → cwf 0 s.scopeEns = true → t.scopeClock sc = t.core.port.pts))
      arrives .bar .gang .atBar (s.scopeClock .gang) ∧
      arrives .ebar .ensemble .atEbar (max (s.scopeClock .gang) (s.scopeClock .ensemble))) ∧
    (free → (c.ctl.latch = true → exec .wfe s = .next { s with core := { c with
        ctl := { c.ctl with latch := false }, tasks := { k with wait := .running, probe := 0, probeAt := none } } }) ∧
      (c.ctl.latch = false → idles .wfe .atWfe)) ∧
    (free → 1 ≤ s.level → (c.ctl.latch = false → c.exc.pend = false → idles .idle .atIdle) ∧
      (c.ctl.latch = true → Completes .idle s fun t => t.core.ctl = { c.ctl with latch := false } ∧ t.core.tasks.wait = .running ∧
        t.mem = s.mem ∧ t.core.regs = c.regs ∧ t.core.flow = { c.flow with skip := if k.wait = .atIdle then max c.flow.skip 64 else c.flow.skip })) ∧
    (free → c.urg = false → (k.count ≠ 0 → idles .join .atJoin) ∧ (k.count = 0 → exec .join s = .next { s with core := { c with
      port := { c.port with pts := max c.port.pts k.clock }, tasks := { k with wait := .running, probe := 0, probeAt := none } } })) ∧
    (c.flow.lock = none → c.urg = false → ∀ f r, k.frames = f :: r → r ≠ [] → (k.count ≠ 0 → idles .taskend .atTaskend) ∧
      (c.drained = true → k.count = 0 → s.fencePending .gang true = false → Completes .taskend s fun t =>
        t.core.tasks = { k with frames := r, wait := .running, probe := 0, probeAt := none } ∧ t.mem = s.mem ∧ t.core.regs = c.regs ∧
        t.core.flow = { c.flow with nextPc := f.ret, skip := 3, prefetch := [] } ∧
        t.core.port.pts = max c.port.pts k.clock ∧
        t.notices = s.notices ++ [⟨f.owner, f.ownerDepth, t.core.port.pts, c.unf + (if f.owner = c.name then 1 else 24)⟩])) ∧
    (c.flow.lock = none → k.depth = 0 → (k.count ≠ 0 → idles .exit .atExit) ∧
      (c.drained = true → k.count = 0 → c.port.comQ = [] → c.port.comErr = none → Completes .exit s fun t =>
        t.core.tasks.wait = .exited ∧ t.core.regs = c.regs ∧ t.mem = s.mem ∧ t.core.flow = c.flow ∧
        t.core.port.pts = max c.port.pts k.clock ∧ t.core.exc = { c.exc with shadow := none } ∧
        (c.exc.shadow = none → t.core.port = { c.port with pts := max c.port.pts k.clock } ∧ t.core.unf = c.unf) ∧
        (∀ sh, c.exc.shadow = some sh → t.core.unf = sh.unf ∧ t.core.resumeAt = some (c.clock + 4))) ∧
      (c.drained = true → k.count = 0 → c.port.comQ = [] → c.prov = false → ∀ info, c.port.comErr = some info → Completes .exit s fun t =>
        ∃ r, (t.core.flow.verdict = .trapped r) ∧ r.code = 0xA#8 ∧ r.info = info)) ∧
    (let w := (s.gS a).toNat
     let gang := (s.members c).filter fun m => m.1 == bits w 8 16
     (w / 2 ^ 25 ≠ 0 ∨ gang = [] → TrapsIllop (.sev a) s) ∧
     (w / 2 ^ 25 = 0 → gang ≠ [] → w.testBit 24 = true → Completes (.sev a) s fun t => OnlyPort s t ∧ t.core.port = { c.port with
       events := c.port.events ++ gang.map fun m => (c.unf + crossDelay c.id (m.2.2 % 65536), m.2.2) }) ∧
     (w / 2 ^ 25 = 0 → gang ≠ [] → w.testBit 24 = false →
       ((∀ m ∈ gang, m.2.1 ≠ bits w 0 8) → TrapsIllop (.sev a) s) ∧
       ∀ m, (gang.find? fun m => m.2.1 == bits w 0 8) = some m →
         Completes (.sev a) s fun t => OnlyPort s t ∧ t.core.port = { c.port with
           events := c.port.events ++ [(c.unf + crossDelay c.id (m.2.2 % 65536), m.2.2)] })) ∧
    (c.urg = false →
      let full := k.deque.length + (c.port.pend.filter fun p => match p.act with | .fork _ => true | _ => false).length
      (s.taskWords.length ≤ task.toNat ∨ k.depth = 8 → TrapsIllop (.fork task a b) s) ∧
      (task.toNat < s.taskWords.length → k.depth ≠ 8 → 64 ≤ full → Traps (.fork task a b) s 8 129#64) ∧
      (task.toNat < s.taskWords.length → k.depth ≠ 8 → full < 64 →
        exec (.fork task a b) s = .next (s.post 1 (.fork ⟨.ofNat 8 task.toNat, k.depth, s.gS a, s.gS b, c.name⟩)))) ∧
    -- releases, of a gang whose cores are listed once
    ((s.cores.map Core.name).Nodup → s.gang.Nodup →
      (∀ x ∈ s.gangLive, x.tasks.wait = .atBar ∧ x.tasks.deque = [] ∧ x.inStolen = false ∧ ∃ r, x.tasks.releaseAt = some r ∧ r ≤ c.unf) →
      s.gangLive ≠ [] → Completes .barRelease s fun t => t.mem = s.mem ∧ ∃ top, (∃ x ∈ s.gangLive, x.port.pts = top) ∧
        ∀ x ∈ s.gangLive, x.port.pts ≤ top ∧ ∃ y, t.coreAt x.name = some y ∧ y.regs = x.regs ∧ y.port = { x.port with pts := top } ∧
          y.tasks.wait = .running ∧ y.flow = { x.flow with pc := x.flow.pc + .ofNat 12 x.flow.len, stall := none, skip := 1 }) ∧
    ((∃ x ∈ s.gangLive, x.tasks.wait ≠ .atBar) → exec .barRelease s = .next s) ∧
    ((s.cores.map Core.name).Nodup → s.gang.Nodup → ((s.members c).map fun m => m.2.2).Nodup →
      (∀ x ∈ s.gangLive, x.tasks.wait = .atEbar ∧ ∃ r, x.tasks.releaseAt = some r ∧ r ≤ c.clock) → s.gangLive ≠ [] →
      Completes .ebarRelease s fun t => t.mem = s.mem ∧
        ∀ x ∈ s.gangLive, (∀ z ∈ s.instLive, z.tasks.wait = .atEbar → ∃ y, t.coreAt x.name = some y ∧ z.port.pts ≤ y.port.pts ∧
          y.regs = x.regs ∧ y.tasks.wait = .running ∧ y.flow = { x.flow with pc := x.flow.pc + .ofNat 12 x.flow.len, stall := none, skip := 1 })) ∧
    ((∃ x ∈ s.gangLive, x.tasks.wait ≠ .atEbar) → exec .ebarRelease s = .next s) ∧
    -- stealing, dispatch and notices
    -- a probe goes to the first core from its place in the ring on that has not exited; a core that a freeze stops does not answer it
    (∀ (i n : Nat) d, c.takes = true → k.deque = [] → s.ring[i]? = some n → n ≠ c.name →
      (s.cores.map Core.name).Nodup → s.coreAt n = some d → k.probe ≤ i → d.tasks.wait ≠ .exited →
      (∀ (j m : Nat) e, k.probe ≤ j → j < i → s.ring[j]? = some m → s.coreAt m = some e → e.tasks.wait = .exited) →
      (d.probeFrozen = true → exec .stealProbe s = .next s) ∧
      (d.probeFrozen = false → d.tasks.deque = [] → Completes .stealProbe s fun t => t.mem = s.mem ∧
        t.core = { c with tasks := { k with probe := (i + 1) % max 1 s.ring.length, probeAt := some (c.unf + 24) } } ∧
        t.coreAt n = some { d with tasks := { d.tasks with probed := some d.unf } }) ∧
      (∀ q e, d.probeFrozen = false → d.tasks.deque = q ++ [e] → Completes .stealProbe s fun t => t.mem = s.mem ∧
        t.core = { c with tasks := { k with taken := some e, probe := 0, probeAt := none } } ∧
        t.coreAt n = some { d with tasks := { d.tasks with deque := q, probed := some d.unf } })) ∧
    (∀ e, (k.taken = some e ∨ (k.taken = none ∧ c.takes = true ∧ ∃ q, k.deque = e :: q)) → Completes .taskDispatch s fun t =>
      t.mem = s.mem ∧ t.core.port = c.port ∧
      t.core.tasks.frames = ⟨0, c.flow.pc, 0, e.owner, e.depth⟩ :: k.frames ∧ t.core.tasks.wait = .running ∧ t.core.tasks.taken = none ∧
      t.core.tasks.deque = (if k.taken = none then k.deque.tail else k.deque) ∧
      t.core.regs = { c.regs with g := (c.regs.g.set 13 e.arg0).set 14 e.arg1 } ∧
      t.core.flow.pc = s.taskWords.getD e.task.toNat 0#12 ∧ t.core.flow.skip = 4) ∧
    (∀ n f, (s.notices.find? fun n => n.core == c.name && decide (n.due ≤ c.unf)) = some n →
      let i := k.frames.length - 1 - n.depth
      let g := { f with count := f.count - 1, clock := max f.clock n.clock }
      k.frames[i]? = some f → Completes .completionNotice s fun t => t.notices = s.notices.erase n ∧
        t.core = { c with tasks := { k with frames := k.frames.set i g } } ∧ t.mem = s.mem)

/-- R279 to R317: launches. -/
def Obligations.LaunchInstructionsAndInstances : Prop :=
  ∀ (s : State) (d : Dst) (a b : Src) (l : Launch) (i : Inst) (img : Image), Sound s →
    let c := s.core
    let p := c.port
    let addr := (s.gS a).toNat
    let part := s.partOf c.id
    let asid := c.exc.asid
    let drained := s.fencePending .package true = false
    let settled := l.insts.all (fun i => !i.provisional) = true
    let shaped := fun (t : Nat) (t' : State) => ∃ l', t'.launchAt l.slot = some l' ∧ l'.shape = some t ∧ l'.low = decide (t < l.floor) ∧
      l'.tail = decide (l.ceil < t) ∧ l'.insts = l.insts ++ (List.range (t - l.ceil)).map fun j => newInst .waitDef (l.ceil + j)
    let kept := fun (t : State) => t.mem = s.mem ∧ t.core.regs = c.regs ∧ t.core.ctl = c.ctl ∧ t.core.flow = c.flow
    (c.urg = true → TrapsIllop (.launch d a) s ∧ TrapsIllop (.shape a b) s) ∧
    (2 ^ 32 ≤ (s.gS b).toNat → TrapsIllop (.shape a b) s) ∧
    (∀ code info, s.checkCoh addr 64 false false = .bad code info false → c.urg = false → Traps (.launch d a) s code info) ∧
    (∀ code info, s.checkCoh addr 8 true true = .bad code info false →
      Traps (.qsigSet a b) s code info ∧ Traps (.qsigAdd a b) s code info ∧ Traps (.qsigOr a b) s code info) ∧
    (c.urg = false → ∀ key, s.checkCoh addr 64 false false = .ok key →
      let r := memNat s.mem key 64
      (¬ drained → WaitsFor (.launch d a) s .fence) ∧
      (drained → ∀ code, s.lrCode part asid r = some code → Completes (.launch d a) s fun t => kept t ∧ t.launches = s.launches ∧
        t.core.port.pend = p.pend ++ [⟨c.unf + 1, c.unf, c.flow.slot, .scalar d (.ofNat 64 (2 ^ 63 + code))⟩]) ∧
      (drained → s.lrCode part asid r = none → lrSrc r ≠ 2 → Completes (.launch d a) s fun t => kept t ∧ ∃ l',
        t.launches = s.launches ++ [l'] ∧ l'.slot = s.freeSlot ∧ l'.gen = s.launchGen ∧ l'.image = lrImage r ∧ l'.part = part ∧
        l'.asid = asid ∧ l'.clock = max p.pts p.stamp ∧ l'.shape = none ∧ l'.floor = lrFloor r ∧ l'.ceil = s.ceiling r ∧
        l'.insts = (List.range (lrFloor r)).map (newInst .waitDef) ++
          (List.range (s.ceiling r - lrFloor r)).map (fun j => newInst .waitProv (lrFloor r + j)) ∧
        t.core.port.pend = p.pend ++ [⟨c.unf + 1, c.unf, c.flow.slot, .scalar d (.ofNat 64 (l'.slot + l'.gen * 2 ^ 10))⟩])) ∧
    (c.urg = false → (s.gS b).toNat < 2 ^ 32 →
      (¬ drained → WaitsFor (.shape a b) s .fence) ∧
      (drained → (∀ x ∈ s.launches, ¬ (x.slot = addr % 1024 ∧ x.gen = addr / 1024)) →
        exec (.shape a b) s = .next (s.takeTrap ⟨1#8, c.flow.slot, .ofNat 64 s.where, false, true⟩)) ∧
      (drained → s.launchAt l.slot = some l → l.slot = addr % 1024 → l.gen = addr / 1024 →
        (l.src ≠ 1 ∨ l.shape ≠ none ∨ l.asid ≠ asid ∨ l.part ≠ part →
          exec (.shape a b) s = .next (s.takeTrap ⟨1#8, c.flow.slot, .ofNat 64 s.where, false, true⟩)) ∧
        (l.src = 1 → l.shape = none → l.asid = asid → l.part = part →
          (settled → Completes (.shape a b) s fun t => kept t ∧ shaped (s.gS b).toNat t) ∧
          -- with live provisional instances: those below the shape are committed at one place of T, the others leave nothing
          (let T := (s.gS b).toNat
           let live := l.insts.filter fun x => x.provisional && x.st != .trimmed
           let buf := ((live.filter fun x => decide (x.idx < max T l.floor)).map Inst.buf).flatten
           (l.insts.map Inst.idx).Nodup → (∀ x ∈ live, x.flags = []) → (∀ x ∈ s.cores, x.exc.entering = none ∧ x.port.sched = [] ∧ x.port.chunks = []) → s.held = [] →
           (∀ x ∈ buf, ∀ j < x.data.length, s.fgByte (x.key + j) = false) → Completes (.shape a b) s fun t =>
             (∀ k, memGet t.mem k = (bufByte buf k).getD (memGet s.mem k)) ∧
             (∃ ts, max p.pts p.stamp ≤ ts ∧ ∀ x ∈ buf, isHostKey x.key = false → ∀ line ∈ runLines (x.key, x.data.length),
               cget (0, 0) t.lines line = (ts, ts) ∧ (cget (0, 0) s.lines line).2 < ts) ∧
             ∃ l', t.launchAt l.slot = some l' ∧ l'.shape = some T ∧ ∀ x ∈ live, ∃ y ∈ l'.insts, y.idx = x.idx ∧ y.buf = [] ∧
               (max T l.floor ≤ x.idx → y.st = .trimmed ∧ y.cores = []) ∧
               (x.idx < max T l.floor → if x.loaded then y.st = .runDef ∨ y.st = .complete else y.st = .waitDef))))) ∧
    (∀ key, s.checkCoh addr 8 true true = .ok key → (∀ j < 8, s.fgByte (key + j) = false) →
      let signals := fun (i : Instr) (f : Nat → Nat → Nat) =>
        (¬ drained → WaitsFor i s .fence) ∧
        (drained → Completes i s fun t => OnlyBytes s.mem t.mem key 8 ∧ t.core.regs = c.regs ∧ t.launches = s.launches ∧
          memNat t.mem key 8 = f (memNat s.mem key 8) (s.gS b).toNat % 2 ^ 64)
      signals (.qsigSet a b) (fun _ y => y) ∧ signals (.qsigAdd a b) (fun x y => x + y) ∧ signals (.qsigOr a b) (fun x y => x ||| y)) ∧
    (s.launchAt l.slot = some l →
      (∀ j, (∀ x ∈ l.insts, x.idx ≠ j) → exec (.instancePlace l.slot j) s = .next s ∧ exec (.instanceLoad l.slot j) s = .next s) ∧
      (s.launchDone l = false → exec (.launchComplete l.slot) s = .next s) ∧
      (s.launchDone l = true → l.urgent = none → l.parent = none → s.queueAt l.part l.qnum = none → s.preempts = [] →
        (l.done = 0#64 → Completes (.launchComplete l.slot) s fun t => kept t ∧ t.launches = s.launches.filter fun x => x.slot != l.slot) ∧
        (∀ k, l.done ≠ 0#64 → (s.asFront l.part l.asid fun s => (s, s.frontRuns l.done.toNat 8 false true)).2 = .ok [(k, 8)] →
          (∀ j < 8, s.fgByte (k + j) = false) → Completes (.launchComplete l.slot) s fun t =>
            t.launches = s.launches.filter (fun x => x.slot != l.slot) ∧ OnlyBytes s.mem t.mem k 8 ∧ t.core = c ∧
            memNat t.mem k 8 = l.ext % 2 ^ 32 + (if l.low then 2 ^ 32 else 0) + (if l.tail then 2 ^ 33 else 0) +
              (if l.err then 2 ^ 34 else 0) + 2 ^ 63)) ∧
      (l.src = 2 → l.shape = none → settled → ∀ t v k, s.frontRead l.part l.asid l.sig.toNat 8 false = (t, .ok (v, k)) →
        (v.testBit 63 = false → exec (.shapeSignalRead l.slot) s = .next t) ∧
        (v.testBit 63 = true → Completes (.shapeSignalRead l.slot) s fun t' => t'.mem = s.mem ∧ t'.core = c ∧ shaped (bits v 0 32) t')) ∧
      ((l.insts.find? fun x => x.idx == i.idx) = some i →
        (s.imageOf l.part l.asid l.image = some img → l.urgent = none →
          -- the cores found, gang after gang, and the gangs that found none
          let found := fun (prov : Bool) => s.placeGangs l.part (s.clusterOrder l prov) (i.unplaced img) (s.heldIds fun _ _ => true)
          let takes := fun (cs : List (Nat × Nat × Nat)) => Completes (.instancePlace l.slot i.idx) s fun t => kept t ∧
            ∃ l', t.launchAt l.slot = some l' ∧ (l'.insts.find? fun x => x.idx == i.idx) = some { i with cores := i.cores ++ cs }
          (i.st = .waitDef → (∀ x ∈ l.insts, x.unplaced img ≠ [] → x.st = .waitDef → i.idx ≤ x.idx) → takes (found false).1) ∧
          (i.st = .waitProv → (∀ x ∈ l.insts, x.unplaced img ≠ [] → x.st ≠ .waitDef ∧ (x.st = .waitProv → i.idx ≤ x.idx)) →
            ((found true).2 = [] → takes (found true).1) ∧ ((found true).2 ≠ [] → exec (.instancePlace l.slot i.idx) s = .next s))) ∧
        (s.imageOf l.part l.asid l.image = some img → l.urgent = none → i.st = .waitDef → i.loaded = false → i.cores ≠ [] → i.unplaced img = [] →
          (s.instIds l i).all s.loadable = true → l.pbo = 0#64 → s.boot.recovery = false → (i.cores.map fun x => x.2.2).Nodup → (∀ x ∈ i.cores, x.2.2 < 65536 ∧ ∃ g, img.gangs[x.1]? = some g) →
          Completes (.instanceLoad l.slot i.idx) s fun t => t.mem = s.mem ∧ ∃ r, c.clock ≤ r ∧ ∀ x ∈ i.cores, ∀ g, img.gangs[x.1]? = some g →
            ∃ y, t.coreAt x.2.2 = some y ∧ y.clock = r ∧ y.ctl.releasedAt = r ∧ y.exc.level = 0#2 ∧ y.exc.asid = img.asid ∧
              y.regs = Regs.reset ∧ y.port.pts = l.clock ∧ y.ctl.vcore = .ofNat 8 x.2.1 ∧ y.ctl.gang = .ofNat 16 x.1 ∧ y.prov = false ∧
              y.ctl.inst = .ofNat 32 i.idx ∧ y.launch = some (l.slot, i.idx) ∧ y.tasks.wait = .running ∧
              y.flow.pc = (((g.texts.find? fun z => z.vcore == x.2.1).map GangText.entry).getD 0#12)) ∧
        (i.cores ≠ [] → (s.pick (i.cores.map fun x => x.2.2)).all Core.finished = true → s.tileTab = [] → i.st = .runProv →
          Completes (.instanceComplete l.slot i.idx) s fun t => kept t ∧ ∃ l', t.launchAt l.slot = some l' ∧
            (l'.insts.find? fun x => x.idx == i.idx) = some { i with st := .finished }) ∧
        (i.cores ≠ [] → i.st = .runDef → (s.pick (i.cores.map fun x => x.2.2)).all Core.finished = true → s.tileTab = [] →
          Completes (.instanceComplete l.slot i.idx) s fun t => t.mem = s.mem ∧ t.core.regs = c.regs ∧ ∃ l', t.launchAt l.slot = some l' ∧
            (l'.insts.find? fun x => x.idx == i.idx) = some { i with st := .complete, cores := [] } ∧ l.top ≤ l'.top) ∧
        (let cls := clustersIn (s.instIds l i)
         i.provisional = true → i.cores ≠ [] → (∃ cl ∈ cls, s.needed cl = true ∧ cl ∉ clustersIn (s.heldIds fun _ i => !i.provisional) ∧
            cl ∉ clustersIn (s.heldIds fun _ x => decide (i.idx < x.idx))) →
          Completes (.provisionalEvict l.slot i.idx) s fun t => t.mem = s.mem ∧ t.core.regs = c.regs ∧ ∃ l', t.launchAt l.slot = some l' ∧
            (l'.insts.find? fun x => x.idx == i.idx) = some { i with st := .waitProv, cores := [], loaded := false, buf := [], flags := [], held := [] })))

/-- R298 to R304, R415 to R418: the front end's queues, each packet as its queue holds it. The model's choices: the context of a created
queue (log entry 14), records and rings that cannot be read (51), which packet event acts (58). -/
def Obligations.QueuesTakePackets : Prop :=
  ∀ (s s' : State) (part : Fin 4) (n : Nat) (q : Queue) (p clk : Nat), Sound s → s.queueAt part.val n = some q →
    let c := s.core
    let a := bits p 64 64
    let ty := bits p 0 8
    let free := ∀ l ∈ s.launches, ¬ (l.part = part.val ∧ l.qnum = n)
    let now := fun (t : State) (P : Queue → Prop) => t.core.regs = c.regs ∧ ∃ z, t.queueAt part.val n = some z ∧ z.recKey = q.recKey ∧ P z
    let error := fun (i : Instr) (cause pkt : Nat) => Completes i s fun t => now t fun z => z.st = .error ∧ z.cause = .ofNat 8 cause ∧
      z.pkt = pkt % 2 ^ 32 ∧ z.res = false ∧ z.rd = q.rd
    let packets := [Instr.launchPacket part n, .waitPacket part n, .signalPacket part n]
    let apart := fun (k : Nat) => (∀ x ∈ s.queues, k + 8 ≤ x.recKey ∨ x.recKey + 128 ≤ k) ∧ ∀ j < 8, s.fgByte (k + j) = false
    (q.st = .idle ∨ q.st = .parked ∨ q.st = .error ∨ q.res = false ∨ q.wr ≤ q.rd → ∀ i ∈ packets, exec i s = .next s) ∧
    (s.nextPacket part.val n = (s', some (q, p, clk)) → free →
      (ty = 1 → onlyFields p [(0, 9), (64, 64)] = false → error (.launchPacket part n) 1 q.rd) ∧
      (onlyFields p [(0, 8), (64, 128), (192, 4)] = false → (ty = 2 → error (.waitPacket part n) 1 q.rd) ∧
        (ty = 3 → error (.signalPacket part n) 1 q.rd)) ∧
      (n ≠ controlQueue → ty ≠ 1 → ty ≠ 2 → ty ≠ 3 → error (.launchPacket part n) 1 q.rd) ∧
      (ty = 1 → onlyFields p [(0, 9), (64, 64)] = true →
        (a % 64 ≠ 0 → error (.launchPacket part n) 0x20 q.rd) ∧
        (∀ u r k, a % 64 = 0 → s'.frontRead part.val q.asid a 64 true = (u, .ok (r, k)) →
          (∀ code, s.lrCode part.val q.asid r = some code → error (.launchPacket part n) code q.rd) ∧
          (s.lrCode part.val q.asid r = none → lrSrc r ≠ 2 → Completes (.launchPacket part n) s fun t =>
            (now t fun z => z.rd = q.rd + 1 ∧ z.st = .running) ∧ ∃ l, t.launches = s.launches ++ [l] ∧ l.qnum = n ∧ l.part = part.val ∧
              l.pkt = q.rd ∧ l.image = lrImage r ∧ l.floor = lrFloor r ∧ l.clock = 0 ∧ l.top = max clk k ∧ l.parent = none))) ∧
      (ty = 2 → onlyFields p [(0, 8), (64, 128), (192, 4)] = true → bits p 192 4 < 4 → a % 8 = 0 →
        ∀ u v k, s'.frontRead part.val q.asid a 8 false = (u, .ok (v, k)) →
          let x := bits p 128 64
          let holds := match bits p 192 4 with | 0 => v = x | 1 => v ≠ x | 2 => x ≤ v | _ => v < x
          Completes (.waitPacket part n) s fun t => t.launches = s.launches ∧ now t fun z =>
            (holds → z.rd = q.rd + 1 ∧ z.wsig = 0#64 ∧ z.st = if q.rd + 1 < q.wr then .ready else .idle) ∧
            (¬ holds → z.rd = q.rd ∧ z.st = .waiting ∧ z.wsig = .ofNat 64 a)) ∧
      (ty = 3 → onlyFields p [(0, 8), (64, 128), (192, 4)] = true → bits p 192 4 < 3 → a % 8 = 0 → ∀ k, apart k →
        (s'.asFront part.val q.asid fun s => (s, s.frontRuns a 8 false true)).2 = .ok [(k, 8)] →
          let v := bits p 128 64
          let old := memNat s.mem k 8
          Completes (.signalPacket part n) s fun t => t.launches = s.launches ∧ (now t fun z => z.rd = q.rd + 1 ∧ z.wsig = 0#64) ∧
            memNat t.mem k 8 = match bits p 192 4 with | 0 => v | 1 => (old + v) % 2 ^ 64 | _ => old ||| v)) ∧
    -- re-reading, parking, priority, timeout
    (q.st = .error → exec (.signalReread part n) s = .next s) ∧
    (let wr := memNat s.mem (q.recKey + 24) 8
     (q.st = .idle → free → Completes (.signalReread part n) s fun t => now t fun z => z.wr = wr ∧ z.rd = q.rd ∧
        z.st = if q.rd < wr then .ready else .idle) ∧
     (q.st = .ready → wr ≤ q.rd → free → Completes (.signalReread part n) s fun t => now t fun z => z.wr = wr ∧ z.rd = q.rd ∧ z.st = .idle ∧
        z.res = false) ∧
     (q.st ≠ .idle → q.st ≠ .error → ¬ (q.st = .ready ∧ wr ≤ q.rd) → q.wsig = 0#64 → Completes (.signalReread part n) s fun t => t.mem = s.mem ∧ t.core = c ∧
        now t fun z => z = { q with wr := wr })) ∧
    (q.st = .waiting → q.wsig ≠ 0#64 → Completes (.queuePark part n) s fun t => now t fun z => z.st = .parked ∧ z.res = false ∧
      z.rd = q.rd ∧ z.wsig = q.wsig ∧ z.since = q.since ∧ z.paused = q.paused) ∧
    (¬ (q.st = .waiting ∧ q.wsig ≠ 0#64) → exec (.queuePark part n) s = .next s) ∧
    (q.st = .ready → Completes (.priorityRaise part n) s fun t => t.mem = s.mem ∧ t.core = c ∧ now t fun z => z = { q with raised := q.raised + 1 }) ∧
    (q.st ≠ .ready → exec (.priorityRaise part n) s = .next s) ∧
    (free → (q.st = .waiting ∨ q.st = .parked) → q.wsig ≠ 0#64 → error (.queueTimeout part n) 0xF q.rd) ∧
    (free → q.wsig = 0#64 → exec (.queueTimeout part n) s = .next s) ∧
    -- control packets
    (n = controlQueue → s.nextPacket part.val n = (s', some (q, p, clk)) → ∀ k, apart k → bits p 192 64 % 8 = 0 →
      -- the result word is where it is whatever memory holds: in the chip scratchpad, or untranslated
      (∀ u : State, u.partmap = s.partmap → u.images = s.images → u.core = c → u.others = s.others →
        (u.asFront part.val q.asid fun s => (s, s.frontRuns (bits p 192 64) 8 true true)).2 = .ok [(k, 8)]) → free →
      let done := fun (t : State) (v : Nat) => memNat t.mem k 8 = v ∧ now t fun z => z.rd = q.rd + 1
      let refused := fun (i : Instr) (code : Nat) => Completes i s fun t => done t (2 ^ 63 + code)
      (ty = 4 → onlyFields p [(0, 8), (192, 64), (8, 2), (64, 16), (128, 64)] = true → bits p 8 2 < 2 →
        let ended := ∀ l ∈ s.launches, ¬ (l.part = part.val ∧ l.qnum = bits p 64 16)
        -- it waits for the target's launches, and checks then
        (¬ ended → Completes (.repairPacket part) s fun t => now t fun z => z.rd = q.rd ∧ z.st = .waiting ∧ z.wsig = 0#64) ∧
        (ended → s.queueAt part.val (bits p 64 16) = none → refused (.repairPacket part) 0x62) ∧
        ∀ z, bits p 64 16 ≠ controlQueue → s.queueAt part.val (bits p 64 16) = some z → ended →
          (z.st ≠ .error → refused (.repairPacket part) 0x60) ∧
          (z.st = .error →
            (bits p 8 2 = 1 → Completes (.repairPacket part) s fun t => done t 0 ∧ t.queueAt part.val (bits p 64 16) = none) ∧
            (bits p 8 2 = 0 →
              let rd := bits p 128 64
              let wr := memNat s.mem (z.recKey + 24) 8
              (wr < rd ∨ 2 ^ z.lsz < wr - rd → refused (.repairPacket part) 0x61) ∧
              (rd ≤ wr → wr - rd ≤ 2 ^ z.lsz → Completes (.repairPacket part) s fun t => done t 0 ∧
                ∃ y, t.queueAt part.val (bits p 64 16) = some y ∧ y.rd = rd ∧ y.wr = wr ∧ y.cause = 0#8 ∧
                  y.st = if rd = wr then .idle else .ready)))) ∧
      (ty = 5 → onlyFields p [(0, 8), (192, 64), (64, 16), (128, 64)] = true →
        let ra := bits p 128 64
        let asid := s.queueContext part.val
        (ra % 128 ≠ 0 ∨ 2 ^ 48 ≤ ra → refused (.qcreate part) 0x64) ∧
        (∀ key runs, ra % 128 = 0 → ra < 2 ^ 48 → (s'.asFront part.val asid fun s => (s, s.frontRuns ra 128 true true)).2 = .ok ((key, 128) :: runs) →
          let r := memNat s.mem key 128
          (qrecOk r = false → refused (.qcreate part) 0x64) ∧
          (qrecOk r = true → (bits p 64 16 = controlQueue ∨ s.queueAt part.val (bits p 64 16) ≠ none) → refused (.qcreate part) 0x65) ∧
          (qrecOk r = true → bits p 64 16 ≠ controlQueue → s.queueAt part.val (bits p 64 16) = none → (k + 8 ≤ key ∨ key + 128 ≤ k) →
            Completes (.qcreate part) s fun t => done t 0 ∧ ∃ y, t.queueAt part.val (bits p 64 16) = some y ∧ y.recKey = key ∧ y.rd = 0 ∧
              y.wr = bits r 192 64 ∧ y.lsz = bits r 64 4 ∧ y.prio = bits r 68 3 ∧ y.tol = bits r 72 16 ∧ y.tmo = bits r 88 16 ∧
              y.ring = .ofNat 64 (bits r 0 64) ∧ y.cause = 0#8 ∧ y.asid = asid))) ∧
      (ty = 6 → onlyFields p [(0, 8), (192, 64), (64, 64)] = true → s.seqs = [] → s.scrQ = [] →
        ∀ u r k', s'.frontRead part.val q.asid a 32 true = (u, .ok (r, k')) →
          (s.blockOk part.val r = false → refused (.scrblk part) 0x67) ∧
          (s.blockOk part.val r = true → bits r 192 11 = 0 → r < 2 ^ 256 → Completes (.scrblk part) s fun t => done t 0 ∧
            t.blocks = s.blocks.set part.val (.ofNat 256 r))) ∧
      (ty = 7 → onlyFields p [(0, 8), (192, 64), (64, 11)] = true →
        (s.split = true → part.val ≠ 0 → refused (.rllimit part) 0x68) ∧
        (s.split = false ∨ part.val = 0 → Completes (.rllimit part) s fun t => done t 0 ∧ t.rllim = .ofNat 11 (bits p 64 11))) ∧
      (ty = 8 → onlyFields p [(0, 8), (192, 64), (64, 64), (128, 13)] = true →
        let m := bits p 128 13 + 1
        (a % 32 ≠ 0 → refused (.peerset part) 0x69) ∧
        ∀ u v k', a % 32 = 0 → s'.frontRead part.val q.asid a (32 * m) true = (u, .ok (v, k')) →
          ((∃ i < m, s.peerOk part.val (bits v (256 * i) 256) = false) → Completes (.peerset part) s fun t =>
            done t (2 ^ 63 + 0x69) ∧ t.peers = s.peers) ∧
          ((∀ i < m, s.peerOk part.val (bits v (256 * i) 256) = true) → Completes (.peerset part) s fun t => done t 0 ∧
            ∀ i < m, let e := bits v (256 * i) 256
              (∀ j < m, i < j → bits (bits v (256 * j) 256) 0 13 ≠ bits e 0 13) → e.testBit 13 = true →
                (part.val * 8192 + bits e 0 13, .ofNat 256 e) ∈ t.peers)))

/-- R318 to R344: the proposal queue, the Scruple's table and the draft-state region. The model's choices: what PQTAKE, DEPTH and RBREAD
read at issue (log entry 98), when a VSTV reads its generation (99), how a round and an SQCFG read (101). -/
def Obligations.SpeculationQueuesAndRegion : Prop :=
  ∀ (s : State) (d : Dst) (a b v : Src) (k : Sys2Proof.Small) (dl : Delay),
    let c := s.core
    let p := c.port
    let x := s.gS a
    let y := s.gS b
    let part := s.partOf c.id
    let delay := dl.lat.toNat * 4 ^ dl.e.toNat
    -- a landing of this slot, and the landings once those of a slot have a value
    let landing := fun (need : Nat) (dst : LandDst) => p.landings ++
      [(⟨c.unf + max delay 1, c.unf, c.flow.slot, dst, none, true, none, false, true, need - delay⟩ : Landing)]
    let filled := fun (ls : List Landing) (i t : Nat) (val : Vec) (valid : Bool) => ls.map fun l =>
      if l.issue = i ∧ l.slot = t ∧ l.val = none then { l with val := some val, valid := valid, bad := none, arrived := true } else l
    let lands := fun (need : Nat) (dst : LandDst) (val : Nat) => filled (landing need dst) c.unf c.flow.slot (.ofNat 1024 val) true
    let job : Issued := ⟨p.seq, c.unf, c.clock, c.exc.level, c.exc.asid, c.exc.ptroot, p.clockFor p.seq none⟩
    let w := y.toNat
    let seq := bits w 0 12
    let m := bits w 12 5 + (if w.testBit 17 then 1 else 0)
    let badWord := w / 2 ^ 18 ≠ 0 ∨ bits w 12 5 = 0 ∨ 16 < m ∨ s.inSlice part seq = false
    (c.urg = true → ∀ i ∈ [Instr.pqpush a b, .pqtake d dl, .depth d a dl, .rbread d dl, .sqcfg d a b, .sqrun a b, .vstv v a b k,
      .vldv d a b k dl], TrapsIllop i s) ∧
    (c.urg = false →
      (badWord → TrapsIllop (.pqpush a b) s) ∧
      (¬ badWord → x.toNat % 64 ≠ 0 → Traps (.pqpush a b) s 6 x) ∧
      (¬ badWord → x.toNat % 64 = 0 → s.window c x.toNat (m * 256) = none → Traps (.pqpush a b) s 5 (.ofNat 64 (s.spanFault x.toNat))) ∧
      (¬ badWord → x.toNat % 64 = 0 → ∀ u o, s.window c x.toNat (m * 256) = some (u, o) →
        (u ≠ .spad → TrapsIllop (.pqpush a b) s) ∧ (u = .spad → c.prov = true → WaitsFor (.pqpush a b) s .provisional) ∧
        (u = .spad → c.prov = false → s.mayReserve = false ∨ c.earlierDone = false ∨
            s.lockedRuns [(s.keyOf c .spad o, m * 256)] = true → Completes (.pqpush a b) s fun t =>
          t.core.flow.verdict = .waits .readyList ∧ (∃ z ∈ t.waiters, z.2 = c.name) ∧ t.posts = s.posts ∧ t.mem = s.mem ∧ t.core.regs = c.regs) ∧
        (u = .spad → Sound s → s.mayReserve = true → c.earlierDone = true →
            s.lockedRuns [(s.keyOf c .spad o, m * 256)] = false → Completes (.pqpush a b) s fun t =>
          t.core = c ∧ t.mem = s.mem ∧ t.ready = s.ready ∧ ∃ post, t.posts = s.posts ++ [post] ∧ post.core = c.name ∧ post.clock = p.pts ∧
            post.word = .ofNat 64 (w + c.ctl.lrfirst.toNat * 2 ^ 24 + c.ctl.lrlast.toNat * 2 ^ 32) ∧ post.writes.length = m ∧
            ∀ j < m, let at0 := s.keyOf c .spad o + 256 * j
              post.writes[j]? = some ⟨s.windowKey part seq (memNat s.mem (at0 + 4) 4), memBytes s.mem at0 256⟩)) ∧
      (s.landingRoom = false → ∀ i ∈ [Instr.pqtake d dl, .depth d a dl, .rbread d dl], TrapsIllop i s) ∧
      (c.prov = true → s.landingRoom = true → WaitsFor (.pqtake d dl) s .provisional ∧ WaitsFor (.rbread d dl) s .provisional) ∧
      (s.landingRoom = true → c.prov = false → s.ready = [] → Completes (.pqtake d dl) s fun t => OnlyPort s t ∧
        t.core.port = { p with landings := lands 0 (.notice d) 0 }) ∧
      (s.landingRoom = true → c.prov = false → ∀ n r, s.ready = n :: r → Completes (.pqtake d dl) s fun t => t.mem = s.mem ∧
        t.ready = r ∧ t.core.regs = c.regs ∧ t.core.port = { p with
          landings := lands 0 (.notice d) (n.word.toNat % 2 ^ 63 + 2 ^ 63 + n.stamp * 2 ^ 64) }) ∧
      (s.inSlice part x.toNat = false → TrapsIllop (.depth d a dl) s) ∧
      (s.inSlice part x.toNat = true → s.landingRoom = true → Completes (.depth d a dl) s fun t => OnlyPort s t ∧
        let e := s.seqAt x.toNat
        let fields := bits e 240 5 + bits e 245 5 * 2 ^ 8 + bits e 224 16 * 2 ^ 16 + bits e 288 2 * 2 ^ 32
        t.core.port = { p with landings := lands 0 (.scalar d 8 false) fields }) ∧
      (s.landingRoom = true → c.prov = false → Completes (.rbread d dl) s fun t => OnlyPort s t ∧
        t.core.port = { p with
          rollback := p.rollback.tail
          landings := lands 2 (.scalar d 8 false) (p.rollback.headD 0#64).toNat }) ∧
      (x.toNat % 128 ≠ 0 → Traps (.vstv v a b k) s 6 x ∧ Traps (.vldv d a b k dl) s 6 x) ∧
      (x.toNat % 128 = 0 → s.ringPart x.toNat = none → TrapsIllop (.vstv v a b k) s ∧ TrapsIllop (.vldv d a b k dl) s) ∧
      (x.toNat % 128 = 0 → ∀ key fg pos, s.ringPart x.toNat = some (key, fg, pos) →
        let bad := w % 128 ≠ pos ∨ 2 ^ 32 - 1 ≤ w
        (bad → TrapsIllop (.vstv v a b k) s ∧ TrapsIllop (.vldv d a b k dl) s) ∧
        (¬ bad → c.prov = true → WaitsFor (.vstv v a b k) s .provisional) ∧
        (¬ bad → c.prov = false → Completes (.vstv v a b k) s fun t => OnlyPort s t ∧ ∃ lanes, t.core.port = { p with
            cohQ := p.cohQ ++ [⟨p.seq, c.unf, c.flow.slot, .tag fg⟩], seq := p.seq + 1
            region := p.region ++ [.vstv c.unf c.flow.slot key fg (.ofNat 32 w) none lanes] } ∧
          ∀ i bs, (i, bs) ∈ lanes ↔ i < 32 ∧ (s.gK k).getLsbD i = true ∧ bs = natBytes (laneGet 32 (s.gV v) i) 4) ∧
        (¬ bad → s.landingRoom = false → TrapsIllop (.vldv d a b k dl) s) ∧
        (¬ bad → s.landingRoom = true → Completes (.vldv d a b k dl) s fun t => OnlyPort s t ∧ t.core.port = { p with
          landings := landing 0 (.vldv d k), region := p.region ++ [.vldv c.unf c.flow.slot key fg (.ofNat 32 w)] })) ∧
      (s.inSlice part x.toNat = false → TrapsIllop (.sqcfg d a b) s) ∧
      (s.inSlice part x.toNat = true → (y.toNat % 64 ≠ 0 → Traps (.sqcfg d a b) s 6 y) ∧
        (y.toNat % 64 = 0 → ∀ u o key, s.window c y.toNat 64 = some (u, o) → u ≠ .lane → s.checkKey u o false false = .ok key →
          (c.prov = true → WaitsFor (.sqcfg d a b) s .provisional) ∧
          (c.prov = false → ∀ z, p.reply = some (.value z) → Completes (.sqcfg d a b) s fun t => OnlyPort s t ∧ t.core.port = { p with
            reply := none, pend := p.pend ++ [⟨c.unf + 1, c.unf, c.flow.slot, .scalar d z⟩] }) ∧
          (c.prov = false → ∀ z, p.reply = some (.trap z) → exec (.sqcfg d a b) s = .next
            ({ s with core := { c with port := { p with reply := none } } }.takeTrap z)) ∧
          (c.prov = false → p.reply = none →
            let queued := ∃ z ∈ s.scrQ, ∃ pt i ad j own, z = ScrJob.config c.name pt i ad j own
            let free := c.earlierDone = true
            (queued ∨ ¬ free → WaitsFor (.sqcfg d a b) s .reply) ∧
            (¬ queued → free → exec (.sqcfg d a b) s = .next
              ({ s with scrQ := s.scrQ ++ [ScrJob.config c.name part x.toNat y job s.bundleStores] }.wait .reply))))) ∧
      (∀ win obj u o key, s.checkObj y.toNat = .ok (win, obj) → x.toNat % 64 = 0 → s.window c x.toNat 64 = some (u, o) →
        (u.scheduled = true → TrapsIllop (.sqrun a b) s) ∧
        (u.scheduled = false → s.checkKey u o false false = .ok key →
          (c.prov = true → WaitsFor (.sqrun a b) s .provisional) ∧
          (let rounds := (s.scrQ.filter fun z => match z with | .round .. => true | _ => false).length
           c.prov = false → (64 ≤ rounds → WaitsFor (.sqrun a b) s .engineQueue) ∧
            (rounds < 64 → Completes (.sqrun a b) s fun t => t.mem = s.mem ∧ t.core.regs = c.regs ∧ t.core.port.seq = p.seq + 1 ∧
              t.scrQ = s.scrQ.map (ScrJob.fix c) ++ [ScrJob.round c.name part x obj job 0 none []]))))) ∧
    -- events
    (∀ post r, s.posts = post :: r → Sound s → (∀ z ∈ post.writes, isCohKey z.key = true) →
      let ks := runKeys (post.writes.map fun z => (z.key, z.data.length))
      ks.Nodup → (∀ z ∈ ks, s.fgByte z = false) → Completes .noticePost s fun t => t.posts = r ∧ t.core.regs = c.regs ∧
        (∃ stamp, t.ready = s.ready ++ [⟨post.word, stamp⟩]) ∧ (∀ z, z ∉ ks → memGet t.mem z = memGet s.mem z) ∧
        ∀ j < ks.length, (post.writes.map StorePiece.data).flatten[j]? = some (memGet t.mem (ks.getD j 0))) ∧
    (∀ i t key fg pos gen lanes r, p.region = .vstv i t key fg pos (some gen) lanes :: r → Sound s →
      (lanes = [] ∨ gen.toNat ≠ memNat s.mem (fg + 4) 4 → Completes .draftPartWrite s fun u => u = { s with core := { c with
        port := { p with region := r } } }) ∧
      (lanes ≠ [] → gen.toNat = memNat s.mem (fg + 4) 4 → (lanes.map Prod.fst).Nodup → key % 128 = 0 →
        (∀ z ∈ lanes, z.1 < 32 ∧ z.2.length = 4) → (∀ j < 128, s.fgByte (key + j) = false) → Completes .draftPartWrite s fun u =>
          u.core.port.region = r ∧ u.core.regs = c.regs ∧ OnlyBytes s.mem u.mem key 128 ∧
          (∀ z ∈ lanes, memBytes u.mem (key + 4 * z.1) 4 = z.2) ∧
          (∀ j < 32, j ∉ lanes.map Prod.fst → memBytes u.mem (key + 4 * j) 4 = memBytes s.mem (key + 4 * j) 4) ∧
          ((pos, gen) ≠ noTag → u.tagAt key = (pos, gen)))) ∧
    (∀ i t key fg pos r, p.region = .vldv i t key fg pos :: r → Sound s →
      -- a held ST.REL of the core before it keeps it back (R101)
      let held := p.relBefore fun z => decide (z.issue < i) || (z.issue == i && decide (z.slot < t))
      (held = true → exec .draftPartWrite s = .next s) ∧
      (held = false → Completes .draftPartWrite s fun u => OnlyPort s u ∧ u.core.port = { p with
        region := r, landings := filled p.landings i t (.ofNat 1024 (memNat s.mem key 128)) (s.partValid key fg pos) })) ∧
    (∀ i ad j own r rs, s.scrQ = .config c.name part i ad j own :: r → Sound s → s.extentRuns ad.toNat 64 false = .ok rs →
      (s.engineGate 5 j rs).2 = true →
      -- the image, with the stores of the bundle's earlier slots
      let e := bytesNat ((runKeys rs).map fun z => (bufByte own z).getD (memGet s.mem z))
      (∀ code, s.sqcfgCode part i e = some code → Completes .sqcfgApply s fun t => t.scrQ = r ∧ t.mem = s.mem ∧ t.seqs = s.seqs ∧
        t.core.port = { p with reply := some (.value (.ofNat 64 (2 ^ 63 + code))), grants := t.core.port.grants }) ∧
      (s.sqcfgCode part i e = none → cwf 0#512 s.seqs = true → sqDcore (s.seqAt i) = c.name → Completes .sqcfgApply s fun t =>
        t.scrQ = r ∧ t.core.port = { p with
          reply := some (.value 0#64), rollback := p.rollback.filter (fun z => z.toNat % 4096 != i), grants := t.core.port.grants } ∧
        (let e' := t.seqAt i
         sqGen e' = (sqGen (s.seqAt i) + 1) % 2 ^ 32 ∧ bits e' 384 32 = (sqPosc e + 1) % 2 ^ 32 ∧ sqPosc e' = sqPosc e ∧
         sqSeed e' = sqSeed e ∧ sqDepth e' = sqDepth e ∧ sqDmax e' = sqDmax e ∧ sqStatus e' = sqStatus e ∧ sqDsp e' = sqDsp e) ∧
        (∀ j, j ≠ i → t.seqAt j = s.seqAt j) ∧ (sqDsp e = 0 → t.mem = s.mem))) ∧
    -- rounds: an entry is processed once the core's earlier accesses are performed and the Scruple has its bank cycles
    (∀ ad obj j e h seen r clock, s.scrQ = .round c.name part ad obj j e h seen :: r → j.clock = some clock →
      c.engineFree j.seq j.issue = true → p.objBefore obj j = false → Sound s → Apart s [] obj →
      let u := s.asIssued j
      let runs := u.roundRuns part ad.toNat e h
      (u.engineGate 5 (j.part (e + 1)) ((obj, 16) :: runs.1 ++ runs.2)).2 = true →
      (∀ info, u.headerOf ad.toNat h = .fault info → u.roundWord ad.toNat e ≠ .bad → Completes .roundEntryProcess s fun t => t.scrQ = r ∧
        t.core.regs = c.regs ∧ t.seqs = s.seqs ∧ WritesAnd s.mem t.mem [] [] obj (boFault (memNat s.mem obj 16) 9)) ∧
      (∀ res cnt word rs, u.headerOf ad.toNat h = .ok (res, cnt) → u.roundWord ad.toNat e = .ok word →
        u.extentRuns (res + 64 * e) 64 true = .ok rs → Apart s (runKeys rs) obj →
        let i := bits word 0 12
        let D := bits word 12 5
        let ra := word.testBit 17
        let T := s.seqAt i
        let goes := fun (t : State) => t.core.regs = c.regs ∧
          (∃ k, t.scrQ = if e + 1 < cnt then .round c.name part ad obj { j with clock := some k } (e + 1) (some (res, cnt)) (i :: seen) :: r else r) ∧
          ∃ stamp, memNat t.mem obj 16 = boAdd (memNat s.mem obj 16) 64 stamp % 2 ^ 128
        let wrote := fun (t : State) (rec : Nat) => ∀ n < 64, (natBytes rec 64)[n]? = some (memGet t.mem ((runKeys rs).getD n 0))
        let sound := s.inSlice part i = true ∧ sqStatus T = 1 ∧ i ∉ seen ∧ bits word 18 46 = 0 ∧ bits word 128 128 = 0 ∧ 0 < D ∧
          D ≤ sqDmax T ∧ ¬ (D = 16 ∧ ra = true)
        let recAt := fun (n : Nat) => u.recordRuns (bits word 64 64 + 1024 * n) false
        -- an entry that is not processed
        (¬ sound ∨ (∃ n ≤ D, ∀ x, recAt n ≠ .ok x) → Completes .roundEntryProcess s fun t => goes t ∧ t.seqs = s.seqs ∧
          wrote t (i + 7 * 2 ^ 16) ∧ ∀ k, k ∉ runKeys rs → (k < obj ∨ obj + 16 ≤ k) → memGet t.mem k = memGet s.mem k) ∧
        -- an entry that is
        (∀ rr : List (List Run), sound → rr.length = D + 1 → (∀ n ≤ D, recAt n = .ok (rr.getD n [])) → cwf 0#512 s.seqs = true →
          let W := if ra then D + 1 else D
          let C := sqPosc T
          let pe := fun (n : Nat) => memNat s.mem (s.windowKey part i (C + n + 1)) 256
          let rc := fun (n : Nat) => bytesNat (bytesAt s.mem (runKeys (rr.getD n [])))
          let win := fun (n : Nat) => bits (rc n) 512 32
          let scale := (tempScale (sqTemp T)).getD none
          -- R196
          let recbad := (∃ n < W, pePos (pe n) ≠ (C + n + 1) % 2 ^ 32) ∨ tempScale (sqTemp T) = none ∨ (∃ n ≤ D,
            rcDone (rc n) = false ∨ rcSeed (rc n) ≠ sqSeed T ∨ rcSeq (rc n) ≠ sqSeqid T ∨ rcTemp (rc n) ≠ sqTemp T ∨
            rcPos (rc n) ≠ (C + n + 1) % 2 ^ 32 ∨ rcDraw (rc n) ≠ (if n < D then 1 else 2) ∨ (n = D ∧ rcNcap (rc n) ≠ 0))
          let qbad := ∃ n < D, badList (pe n) (rc n) = true
          let nanlogit := ∃ n ≤ D, (keptOf (rc n)).nan ≠ 0
          let nocand := ∃ n ≤ D, win n = noId
          let aborts := recbad ∨ qbad ∨ nanlogit ∨ nocand
          -- R197, R198: the status of a position
          let status := fun (n : Nat) =>
            let x := peTok (pe n)
            let q := (((pePairs (pe n)).find? fun y => y.1 == x).map Prod.snd).getD 0
            if rcVsz (rc n) ≤ x then 3 else if rcVb (rc n) ≤ x then 2
            else if scale.isNone then (if x = win n then 0 else 1)
            else if ltF (f32Mul (uniformF (sqSeed T) 0 0 (rcPos (rc n)) (sqSeqid T)) q).1 (targetProb scale (rc n) x).1 then 0 else 1
          -- what the round leaves, by its outcome
          let leaves := fun (a tok : Nat) (outs : List Nat) (code c' f g al dp st : Nat) => Completes .roundEntryProcess s fun t =>
            let F := f % 2 ^ 32
            let G := g % 2 ^ 32
            let n := sqDcore T
            let fk := s.partKey part (sqDsp T)
            let note : Word := .ofNat 64 (i + F * 2 ^ 16 + G % 2 ^ 15 * 2 ^ 48 + 2 ^ 63)
            goes t ∧
            (let e' := t.seqAt i
             sqPosc e' = c' % 2 ^ 32 ∧ bits e' 384 32 = F ∧ sqGen e' = G ∧ sqAlpha e' = al % 2 ^ 16 ∧ sqDepth e' = dp % 32 ∧ sqStatus e' = st ∧
             bits e' 416 4 = code ∧ sqSeed e' = sqSeed T ∧ sqSeqid e' = sqSeqid T ∧ sqVsz e' = sqVsz T ∧ sqVb e' = sqVb T ∧
             sqTemp e' = sqTemp T ∧ sqDmax e' = sqDmax T ∧ sqDcore e' = n ∧ sqDsp e' = sqDsp T) ∧
            (∀ z, z ≠ i → t.seqAt z = s.seqAt z) ∧
            (∀ o, s.coreAt n = some o → ∃ y, t.coreAt n = some y ∧ (o.tasks.wait ≠ .exited → y.ctl.latch = true) ∧
              let old := o.port.rollback
              y.port.rollback = if ∃ z ∈ old, z.toNat % 4096 = i then old.map fun z => if z.toNat % 4096 = i then note else z else old ++ [note]) ∧
            wrote t (i + code * 2 ^ 16 + a * 2 ^ 20 + tok * 2 ^ 32 + packW 4 outs * 2 ^ 64 + c' % 2 ^ 32 * 2 ^ 128 + F * 2 ^ 160 + G * 2 ^ 192 +
              al % 2 ^ 16 * 2 ^ 224 + dp % 32 * 2 ^ 240) ∧
            (sqDsp T ≠ 0 → memNat t.mem fk 8 = F + G * 2 ^ 32) ∧
            ∀ k, k ∉ runKeys rs → (k < obj ∨ obj + 16 ≤ k) → (sqDsp T = 0 ∨ k < fk ∨ fk + 8 ≤ k) → memGet t.mem k = memGet s.mem k
          let al := fun (a : Nat) => ((sqAlpha T : Int) + ((65536 * a / D : Nat) - (sqAlpha T : Int)) / 8).toNat
          let dp := fun (a : Nat) =>
            let td := bits s.depthtab.toNat (4 * (al a / 4096)) 4 + 1
            min (max (if td < sqDepth T then td else min td (sqDepth T + 2)) 1) (sqDmax T)
          let gone := fun (code : Nat) => leaves 0 noId (List.replicate D code) code C (C + 1) (sqGen T + 1) (sqAlpha T) 1 2
          (∀ k ∈ (List.range 16).map (obj + ·) ++ runKeys rs, sqDsp T = 0 ∨ k < s.partKey part (sqDsp T) ∨ s.partKey part (sqDsp T) + 8 ≤ k) →
          (recbad → gone 7) ∧ (¬ recbad → qbad → gone 4) ∧ (¬ recbad → ¬ qbad → nanlogit → gone 5) ∧
          (¬ recbad → ¬ qbad → ¬ nanlogit → nocand → gone 6) ∧
          (¬ aborts → (∀ n < D, status n = 0) →
            let tok := if scale.isNone then win D else (keptOf (rc D)).wid
            let ahead := ra = true ∧ peTok (pe D) = tok
            leaves D tok [] 0 (C + D + 1) (if ahead then C + D + 2 else C + D + 1) (if ra = true ∧ ¬ ahead then sqGen T + 1 else sqGen T)
              (al D) (dp D) 1) ∧
          (∀ n < D, ¬ aborts → (∀ m < n, status m = 0) → status n ≠ 0 →
            let tok := if scale.isNone then some (win n) else replacement T scale (pe n) (rc n)
            (∀ x, tok = some x → leaves n x ((List.range (n + 1)).map status) (status n) (C + n + 1) (C + n + 1) (sqGen T + 1) (al n) (dp n) 1) ∧
            (tok = none → gone 6)))))

/-- R365 to R381: translation invalidation, locked ways, pre-emption. The model's choices: the image of an urgent launch (log entry 16),
several urgent instances on one victim (60), full-state save and restore (61, 153), engines of a stopped core (152). -/
def Obligations.TranslationControlAndPreemption : Prop :=
  ∀ (s : State) (d : Dst) (a b : Src) (pr : Preempt) (l : Launch) (i : Inst),
    let c := s.core
    let x := (s.gS a).toNat
    let y := (s.gS b).toNat
    let once := (s.cores.map Core.name).Nodup
    let posts := fun (j : Instr) (v : Nat) => exec j s = .next (s.post 1 (.scalar d (.ofNat 64 v)))
    let part := s.partOf c.id
    (s.level = 0 → ∀ j ∈ [Instr.tlbiVa a b, .tlbiAsid b, .tlbiAll, .prmt d a b, .rsum d a], TrapsPriv j s 0) ∧
    (s.level < (if s.split then 2 else 1) → TrapsPriv (.lockw d a) s 0) ∧
    (1 ≤ s.level →
      (s.tlbiAsidOk y = false → TrapsIllop (.tlbiVa a b) s ∧ TrapsIllop (.tlbiAsid b) s) ∧
      (s.tlbiAsidOk y = true → 2 ^ 48 ≤ x → Traps (.tlbiVa a b) s 5 (.ofNat 64 x)) ∧
      let drops := fun (i : Instr) (f : TlbEntry → Bool) =>
        (s.fencePending .package true = true → WaitsFor i s .fence) ∧
        -- what has used a dropped entry, a copy under way for one, is waited for
        (s.fencePending .package true = false → (∃ k ∈ s.others, s.tlbiScope k = true ∧ ∃ j ∈ k.port.cq0 ++ k.port.cq1, j.moved ≠ 0) → once →
          Completes i s fun t => t.core.flow.verdict = .waits .fence ∧ t.core.regs = c.regs) ∧
        (s.fencePending .package true = false → once → (∀ k ∈ s.cores, k.port.cohQ = [] ∧ k.port.comQ = [] ∧
            ∀ j ∈ k.port.cq0 ++ k.port.cq1, j.moved = 0) → (∀ l ∈ s.launches, ∀ i ∈ l.insts, i.buf = []) → s.tileTab = [] →
          Completes i s fun t => t.mem = s.mem ∧ t.core.regs = c.regs ∧ t.core.ctl = c.ctl ∧
            (∀ n k, s.coreAt n = some k → ∃ k', t.coreAt n = some k' ∧ k'.regs = k.regs ∧
              k'.port.tlb = if s.tlbiScope k then k.port.tlb.filter (fun e => !f e) else k.port.tlb) ∧
            -- the cluster TLBs of the scope; in split mode the draft cluster's keeps the entries of the other partitions
            ∀ e, e ∈ t.ctlb ↔ e ∈ s.ctlb ∧ ¬ (f e.2 = true ∧
              (s.split = false ∨ (e.1 = part ∧ e.1 ≠ 4) ∨ (e.1 = 4 ∧ bits e.2.asid.toNat 14 2 = part))))
      (s.tlbiAsidOk y = true → x < 2 ^ 48 →
        drops (.tlbiVa a b) fun e => decide (e.va ≤ x) && decide (x < e.va + e.size) && (e.g || e.asid == .ofNat 16 y)) ∧
      (s.tlbiAsidOk y = true → drops (.tlbiAsid b) fun e => e.asid.toNat == y && !e.g) ∧
      drops .tlbiAll fun _ => true) ∧
    ((if s.split then 2 else 1) ≤ s.level →
      (6 < x ∨ c.prov = true → TrapsIllop (.lockw d a) s) ∧
      (x ≤ 6 → c.prov = false →
        let held := ∃ e ∈ s.tileTab, ∃ j ∈ e.slots, 2048 * x ≤ j
        (x < s.ways → held → posts (.lockw d a) (2 ^ 63 + 0x40)) ∧
        (s.ways ≤ x ∨ ¬ held → exec (.lockw d a) s = .next
          ({ s with ways := x, l2v := s.l2v.filter fun z => decide (z.way < 24 - x) }.post 1 (.scalar d 0#64))))) ∧
    (1 ≤ s.level →
      (s.victimCore x = none → TrapsIllop (.prmt d a b) s ∧ TrapsIllop (.rsum d a) s) ∧
      ∀ v, s.victimCore x = some v →
        (∀ key, s.bad = [] → s.flips = [] → s.checkCoh y 64 false false = .ok key →
          let r := memNat s.mem key 64
          (∀ code, s.prmtCode part r v = some code → posts (.prmt d a b) (2 ^ 63 + code)) ∧
          (s.prmtCode part r v = none → once → Completes (.prmt d a b) s fun t => t.mem = s.mem ∧ t.core.regs = c.regs ∧ ∃ l',
            t.launches = s.launches ++ [l'] ∧ l'.urgent = some v ∧ l'.image = lrImage r ∧ l'.clock = 0 ∧
            t.preempts = s.preempts ++ [⟨s.victims v, l'.slot, false, false, 0, none, ((s.coreAt v).bind Core.launch).map Prod.fst⟩] ∧
            t.core.port.pend = c.port.pend ++ [⟨c.unf + 1, c.unf, c.flow.slot, .scalar d 0#64⟩] ∧
            ∀ n ∈ s.victims v, ∀ k, s.coreAt n = some k → ∃ k', t.coreAt n = some k' ∧ k'.exc = { k.exc with pend := true } ∧
              k'.regs = k.regs ∧ k'.flow = k.flow)) ∧
        (s.preemptOf v = none → posts (.rsum d a) (2 ^ 63 + 0x55)) ∧
        (s.preemptOf v = some pr →
          ((∃ k ∈ s.pick pr.victims, k.exc.active = true) → posts (.rsum d a) (2 ^ 63 + 0x54)) ∧
          ((∀ k ∈ s.pick pr.victims, k.exc.active = false) →
            (pr.done = false → WaitsFor (.rsum d a) s .transition) ∧
            (pr.done = true → once → pr.victims.Nodup → Completes (.rsum d a) s fun t => t.mem = s.mem ∧ pr ∉ t.preempts ∧ ∃ r, c.clock ≤ r ∧
              ∀ n ∈ pr.victims, ∀ k, s.coreAt n = some k → ∃ k', t.coreAt n = some k' ∧ k'.stopped = false ∧ k'.clock = r ∧
                k'.exc = { k.exc with pend := false } ∧ k'.regs = k.regs ∧ k'.flow = k.flow)))) ∧
    -- the events
    (c.exc.pend = false ∨ c.stopped = true ∨ c.urg = true → exec .preemptionStop s = .next s) ∧
    (c.exc.pend = true → c.stopped = false → c.urg = false → once → s.gang.Nodup →
      (∀ k ∈ s.pick s.gang, k.flow.lock = none ∧ k.trapFrozen = false ∧ k.exc.shadow = none ∧ k.exc.entering = none) →
      Completes .preemptionStop s fun t => t.mem = s.mem ∧
        (t.preempts = s.preempts.map fun p =>
          if c.name ∈ p.victims then { p with since := c.clock, wall := some (s.wallOf c.clock) } else p) ∧
        ∀ n ∈ s.gang, ∀ k, s.coreAt n = some k → t.coreAt n = some { k with stopped := true }) ∧
    (s.preemptOf c.id = none → exec .urgentRelease s = .next s ∧ exec .urgentComplete s = .next s) ∧
    (s.preemptOf c.id = some pr → s.launchAt pr.launch = some l →
      (∀ img g gs, (l.insts.find? fun i => i.st == .waitDef) = some i → s.imageOf l.part l.asid l.image = some img → img.gangs = g :: gs →
        l.urgent ≠ none → l.pbo = 0#64 → pr.released = false → pr.done = false → once → pr.victims.Nodup → c.id < 65536 →
        (∀ n ∈ pr.victims, n < 65536) → (∀ k ∈ s.pick pr.victims, k.stopped = true) → Completes .urgentRelease s fun t =>
          (∀ z, (∀ n ∈ pr.victims, let top := keySpad n (sliceSize (decide (1024 ≤ n)) - 65536); z < top ∨ top + 65536 ≤ z) →
            memGet t.mem z = memGet s.mem z) ∧
          (∀ n ∈ pr.victims, ∀ k, s.coreAt n = some k → ∃ k', t.coreAt n = some k' ∧ k'.exc = { k.exc with active := true } ∧ k'.regs = k.regs) ∧
          ∃ r, c.clock ≤ r ∧ ∀ n ∈ pr.victims, ∀ k, s.coreAt n = some k → k.ctl.vcore.toNat < g.cols * g.rows →
            ∃ u, t.coreAt (n + 65536) = some u ∧ u.urg = true ∧ u.id = n ∧ u.clock = r ∧ u.exc.level = 0#2 ∧ u.regs = Regs.reset ∧
              u.ctl.vcore = k.ctl.vcore ∧ u.ctl.releasedAt = k.ctl.releasedAt ∧ u.tasks.wait = .running) ∧
      -- a launch without an instance is complete at its release
      (l.insts = [] → l.urgent ≠ none → l.done = 0#64 → l.parent = none → s.queueAt l.part l.qnum = none → once → s.preempts = [pr] →
        pr.released = false → pr.done = false → (∀ k ∈ s.pick pr.victims, k.stopped = true) → Completes .urgentRelease s fun t => t.mem = s.mem ∧
          t.launches = s.launches.filter (fun z => z.slot != l.slot) ∧ t.preempts = [{ pr with done := true }] ∧ t.core.regs = c.regs) ∧
      (l.insts = [i] → i.st = .runDef → c.urg = false → c.id < 65536 → l.done = 0#64 → l.src = 0 → l.parent = none →
        s.queueAt l.part l.qnum = none → (∀ z ∈ s.launches, z.parent ≠ some l.slot) → once → s.preempts = [pr] → pr.done = false →
        (∀ z ∈ i.cores, 65536 ≤ z.2.2 ∧ ∃ k, s.coreAt z.2.2 = some k ∧ k.finished = true) → (∀ n ∈ pr.victims, n < 65536) →
        Completes .urgentComplete s fun t => t.mem = s.mem ∧ (∀ z ∈ i.cores, t.coreAt z.2.2 = none) ∧
          t.launches = s.launches.filter (fun z => z.slot != l.slot) ∧ t.preempts = [{ pr with done := true }] ∧
          ∀ n ∈ pr.victims, ∀ k, s.coreAt n = some k → ∃ k', t.coreAt n = some k' ∧ k'.exc = { k.exc with active := false } ∧ k'.regs = k.regs)) ∧
    (∀ slot idx, c.launch = some (slot, idx) → s.instOf c = some i → i.restored = none → c.urg = false →
      let ns := i.cores.map fun z => z.2.2
      s.pick ns ≠ [] → (∀ k ∈ s.pick ns, k.stopped = true ∧ k.exc.active = false) →
      -- what R374 and R375 leave is waited for
      ((∃ k ∈ s.pick ns, k.settled = false) →
        exec .fullStateSave s = .next (s.modInst slot idx fun z => { z with save := true })) ∧
      ((∀ k ∈ s.pick ns, k.settled = true) → s.tileTab = [] → s.scrQ = [] → once → ns.Nodup → (∀ n ∈ ns, n < 65536) →
        Completes .fullStateSave s fun t => t.mem = s.mem ∧
        (∃ v, t.saved = s.saved ++ [v] ∧ v.cores = s.pick ns ∧ (∀ k, ownKey ns k = true → memGet v.mem k = memGet s.mem k) ∧
          v.stops ++ t.preempts = (s.preempts.filter fun p => p.victims.any ns.contains) ++ s.preempts.filter fun p => !p.victims.any ns.contains) ∧
        (∀ n ∈ ns, ∀ k, s.coreAt n = some k → ∃ k', t.coreAt n = some k' ∧ k'.launch = none ∧ k'.tasks.wait = .exited ∧ k'.regs = Regs.reset))) ∧
    (∀ v r, s.saved = v :: r → v.cores ≠ [] → (∀ z ∈ s.launches, ∀ x ∈ z.insts, x.restored = none) →
      (∀ k ∈ v.cores, k.urg = false) → (v.cores.map Core.id).Nodup → once →
      let ns := v.cores.map Core.id
      (s.restorePlace v = none → exec .fullStateRestore s = .next { s with saved := { v with wanted := true } :: r }) ∧
      -- on its own cores, where they are free
      (v.mem.wf = true → s.mem.wf = true → (∀ z ∈ v.mem, ownKey ns z.1 = true) →
        (∀ n ∈ tileIds v.cores, n ∉ s.heldIds (fun _ _ => true) ∧ s.loadable n = true) → Completes .fullStateRestore s fun t =>
        t.saved = r ∧ (∀ k, memGet t.mem k = if ownKey ns k then memGet v.mem k else memGet s.mem k) ∧ t.mem.wf = true ∧ ∃ now,
        ∀ k ∈ v.cores, ∃ k', t.coreAt k.id = some k' ∧ k'.regs = k.regs ∧ k'.flow = k.flow ∧ k'.exc = k.exc ∧
          k'.spe = k.spe ∧ k'.mtx = k.mtx ∧ k'.clock = now ∧
          { k'.ctl with slotmap := k.ctl.slotmap, latch := k.ctl.latch, solo := k.ctl.solo, own := k.ctl.own } = k.ctl) ∧
      -- on others that R68 gives its gangs
      (∀ place, s.restorePlace v = some place → place.map Prod.fst = ns → (place.map Prod.snd).Nodup → Completes .fullStateRestore s fun t =>
        t.saved = r ∧ ∀ z ∈ v.cores.zip (place.map Prod.snd), ∃ k', t.coreAt z.2 = some k' ∧ k'.id = z.2 ∧ k'.regs = z.1.regs ∧
          k'.flow = z.1.flow ∧ k'.exc = z.1.exc ∧ k'.spe = z.1.spe ∧ k'.launch = z.1.launch ∧ k'.stopped = z.1.stopped))

/-- R23, R24, R238, R276, R384 to R391, R395 to R398; the answers' content is open (log entry 9), what a reset keeps of memory is log entry
15's, the control queue's record and the host's addresses of the chip scratchpad are log entries 129 and 130. The model's choices: a
firmware update and its cuts (log entry 62), SPDM sessions (64), records over a thermal trip (67, 141) and a package reset (68), two failed
banks of a row (103), an uncorrectable row at the rebuild pointer (104), when rows are scrubbed (106). -/
def Obligations.RecoveryBootAndManagement : Prop :=
  ∀ (s : State) (store : RowStore) (bank row addr n : Nat) (data msg : List Byte) (img : FwImage) (svn : BitVec 32) (up : Bool)
    (port : Fin 8) (left : FwImage) (mark : BitVec 576) (cut : FlashCut),
    let c := s.core
    let b := s.boot
    let r := s.repairFor store
    let key := store.base + 1024 * row
    let only := fun (t : State) => { t with boot := b } = s
    let flash := fun (x y : Boot) => x.slotA = y.slotA ∧ x.slotB = y.slotB ∧ x.rec0 = y.rec0 ∧ x.rec1 = y.rec1 ∧ x.svn = y.svn
    let fresh := fun (t : State) => t.core = s.resetCore 0 ∧ t.others = [s.resetCore 1024] ∧ t.grade = s.grade ∧ t.queues = [] ∧ t.launches = [] ∧ t.images = [] ∧
      t.partmap = 0#64 ∧ t.keyctl = 0#64 ∧ t.fwslot = 0#64 ∧ t.depthtab = 0#64 ∧ t.rllim = 0#11 ∧ t.tileTab = [] ∧ t.peers = [] ∧ t.seqs = [] ∧
      t.ready = [] ∧ t.tiles = [] ∧ t.boot.pending = true ∧ t.boot.keys = [] ∧ t.boot.session = 0 ∧ t.boot.idKey = none ∧ t.boot.update = none
    let running := b.pending = false ∧ b.recovery = false ∧ b.power = true ∧ b.thermal = false
    let other := !s.fwslot.getLsbD 0
    -- an update begins at its first step, unless one is in progress
    let begins := fun (i : Instr) (slot : Bool) => (b.update ≠ none → exec i s = .next s) ∧
      (b.update = none → exec i s = .next { s with boot := { b with update := some ⟨img, slot, .write⟩ } })
    let recovers := fun (i : Instr) =>
      (fwVerified b.svn img = false → exec i s = .next s) ∧ (fwVerified b.svn img = true → begins i false)
    -- banks and rows
    (hasSpare store = false ∨ 18 ≤ bank ∨ bank ∈ r.failed → exec (.bankFailMark store bank) s = .next s) ∧
    (hasSpare store = true → bank < 18 → bank ∉ r.failed → Completes (.bankFailMark store bank) s fun t => t.mem = s.mem ∧ t.core = c ∧
      t.repairFor store = { r with store := store, failed := r.failed ++ [bank], spare := if r.spare = none then some bank else r.spare }) ∧
    (r.spare = none ∨ store.rows ≤ r.pointer ∨ s.banksFree store = false → exec (.rebuildRow store) s = .next s) ∧
    (r.spare ≠ none → r.pointer < store.rows → s.banksFree store = true → Completes (.rebuildRow store) s fun t => t.mem = s.mem ∧ t.core = c ∧
      t.repairFor store = { r with pointer := r.pointer + 1 }) ∧
    (store.rows ≤ row → exec (.scrubRow store row) s = .next s) ∧
    (hasSpare store = true → row < store.rows →
      (s.decodeRow key = .clean → s.bad = [] → exec (.scrubRow store row) s = .next s) ∧
      (∀ k, s.decodeRow key = .fixed k → Completes (.scrubRow store row) s fun t => t.mem = s.mem ∧ t.core = c ∧
        (∀ j < 64, memGet t.flips (symKey key k 0 + j) = 0#8) ∧
        ∀ j, j < symKey key k 0 ∨ symKey key k 0 + 64 ≤ j → memGet t.flips j = memGet s.flips j)) ∧
    (exec .scrubPassEnd s = .next { s with repairs := s.repairs.map fun x => { x with counts := [] } }) ∧
    -- a change waits until every domain is between bundles, and the time that has passed stays as it was
    (let f := b.wants.getD b.clockMHz
     let g := if up then min 2500 (f + 125) else max 1500 (f - 125)
     (s.betweenBundles = true → exec (.clockChange up) s = .next { s with boot := { b with
       wall := s.wallNow, wallAt := s.now, clockMHz := g, wants := none } }) ∧
     (s.betweenBundles = false → exec (.clockChange up) s = .next { s with boot := { b with wants := some g } })) ∧
    (exec (.portDown port up) s = .next { s with portsUp := .ofNat 8 (if up then s.portsUp.toNat ||| 2 ^ port.val
      else s.portsUp.toNat &&& (255 - 2 ^ port.val)) }) ∧
    -- the host
    (let target := fun (m : Nat) => if addr + m ≤ hbmSize then some addr
       else if Win.chip.base ≤ addr ∧ addr + m ≤ Win.chip.base + 2 ^ 28 then some (keyChip (addr - Win.chip.base)) else none
     (target data.length = none → exec (.hostWrite addr data) s = .next s) ∧ (target n = none → exec (.hostRead addr n) s = .next s) ∧
     (∀ k, target data.length = some k → s.mem.wf = true → (∀ j < data.length, s.fgByte (k + j) = false) →
       Completes (.hostWrite addr data) s fun t =>
         OnlyBytes s.mem t.mem k data.length ∧ (∀ j < data.length, data[j]? = some (memGet t.mem (k + j))) ∧ t.core.regs = c.regs ∧
         t.mem.wf = true) ∧
     (∀ k, target n = some k → s.bad = [] → s.flips = [] → Completes (.hostRead addr n) s fun t => t.mem = s.mem ∧ t.core = c ∧
       ∃ out, t.boot.hostOut = b.hostOut ++ out ∧ out.flatten = memBytes s.mem k n)) ∧
    -- boot and reset
    (b.pending = false → b.power = true → b.thermal = false → exec .boot s = .next s) ∧
    (b.pending = true → b.power = true → b.thermal = false → b.kept = [] → c.fw = true →
      (∀ k, b.chosen = some k → ∀ i, b.slotImg k = some i → Completes .boot s fun t =>
        (s.split = false → ∃ q, t.queues = (s.queues.filter fun z => z.num != controlQueue) ++ [q] ∧ q.part = 0 ∧ q.num = controlQueue ∧
          q.prio = 7 ∧ q.asid = 0#16 ∧ q.rd = 0 ∧ q.wr = 0 ∧ q.st = .idle ∧ OnlyBytes s.mem t.mem q.recKey 128) ∧
        t.fwslot = .ofNat 64 ((if k then 1 else 0) + b.bootSeq k * 2 ^ 32) ∧ t.boot = { b with pending := false, recovery := false, idKey := t.boot.idKey } ∧ t.boot.idKey ≠ none ∧
        t.core.stopped = false ∧ t.core.regs = c.regs ∧
        ∀ w < 4096, cget 0 t.core.imem w = Config.bodyWord c.die (i.body.take (bits i.hdr.toNat 64 32)) w) ∧
      (b.chosen = none → Completes .boot s fun t => t.mem = s.mem ∧ t.fwslot = 0#64 ∧ t.core.stopped = true ∧
        t.boot = { b with pending := false, recovery := true, idKey := t.boot.idKey })) ∧
    (∀ k, b.chosen = some k → b.slotOk k = true) ∧ (b.chosen = none → b.slotOk false = false ∧ b.slotOk true = false) ∧
    (Completes .packageReset s fun t => fresh t ∧ t.mem = s.mem ∧ flash t.boot b ∧ t.inbox = s.inbox) ∧
    (Completes .thermalTrip s fun t => fresh t ∧ t.mem = [] ∧ flash t.boot b ∧ t.boot.thermal = true ∧
      ∃ z, t.boot.kept = b.kept ++ [z] ∧ z.cls = 4#4 ∧ z.src = .ofNat 16 (10 * 4096)) ∧
    (Completes (.powerLoss .idle) s fun t => fresh t ∧ t.mem = [] ∧ flash t.boot b ∧ t.boot.power = false) ∧
    -- a loss of power leaves of an update what its step was writing, in part
    (b.update = none → Completes (.powerLoss cut) s fun t => fresh t ∧ t.mem = [] ∧ flash t.boot b ∧ t.boot.power = false) ∧
    (∀ u, b.update = some u →
      (u.stage = .verify → Completes (.powerLoss cut) s fun t => flash t.boot b ∧ t.boot.update = none) ∧
      (u.stage = .write → Completes (.powerLoss (.image left)) s fun t => fresh t ∧ t.boot.power = false ∧ flash t.boot (b.putSlot u.slot left)) ∧
      (u.stage = .mark → Completes (.powerLoss (.marker mark)) s fun t => t.boot.power = false ∧
        flash t.boot (if markerOk mark then b else b.putMarker mark)) ∧
      -- the three steps of an update (R386), of which the last ends recovery by a reset (R388)
      (u.stage = .write → s.flashStep u = { s with boot := { b.putSlot u.slot u.img with update := some { u with stage := .verify } } }) ∧
      (u.stage = .verify → ∀ i, b.slotImg u.slot = some i → s.flashStep u = { s with boot := { b with
        update := if fwVerified b.svn i then some { u with stage := .mark } else none } }) ∧
      (u.stage = .mark → b.recovery = false → only (s.flashStep u) ∧ (s.flashStep u).boot = { b.putMarker (markerFor b.nextSeq u.slot) with update := none }) ∧
      (u.stage = .mark → b.recovery = true → fresh (s.flashStep u) ∧ (s.flashStep u).mem = s.mem ∧
        flash (s.flashStep u).boot (b.putMarker (markerFor b.nextSeq u.slot)))) ∧
    -- updates, keys and messages
    (running → begins (.firmwareUpdate img) other ∧ begins (.pldmFirmwareUpdate img) other) ∧
    (b.recovery = true → recovers (.recoveryUpdate img) ∧ recovers (.pldmFirmwareUpdate img) ∧ exec (.firmwareUpdate img) s = .next s) ∧
    (b.recovery = false → exec (.recoveryUpdate img) s = .next s) ∧
    (let top := ((if s.fwslot.getLsbD 0 then b.slotB else b.slotA).map fun i => bits i.hdr.toNat 96 32).getD 0
     -- at a request of the supervisor, which the monitor serves
     let asked := c.inMonitor = true ∧ c.exc.cause = 0xC#8
     (asked → running → b.svn.toNat < svn.toNat → svn.toNat ≤ top → exec (.svnRaise svn) s = .next { s with boot := { b with svn := svn } }) ∧
     (svn.toNat ≤ b.svn.toNat ∨ top < svn.toNat ∨ ¬ running ∨ ¬ asked → exec (.svnRaise svn) s = .next s)) ∧
    (s.keyctl.getLsbD 0 = true → exec (.keyLoad data) s = .next s) ∧
    (s.keyctl.getLsbD 0 = false → Completes (.keyLoad data) s fun t => only t ∧
      ∀ k, (t.boot.keys.find? fun z => z.1 == k) = if k = bits s.keyctl.toNat 8 8 then some (k, data) else b.keys.find? fun z => z.1 == k) ∧
    (let answers := fun (i : Instr) (session : Nat) => Completes i s fun t => { t with boot := b, fresh := s.fresh } = s ∧ flash t.boot b ∧
       (∃ x, x ≠ [] ∧ t.boot.mgmtOut = b.mgmtOut ++ x) ∧ t.boot.session = session
     answers (.getVersion msg) b.session ∧ answers (.getCapabilities msg) b.session ∧ answers (.negotiateAlgorithms msg) b.session ∧
     answers (.getDigests msg) b.session ∧ answers (.getCertificate msg) b.session ∧ answers (.challenge msg) b.session ∧
     answers (.getMeasurements msg) b.session ∧ answers (.keyExchange msg) 1 ∧ answers (.finish msg) (if b.session = 1 then 2 else b.session) ∧
     answers (.keyUpdate msg) b.session ∧ answers (.endSession msg) 0 ∧ answers (.pldmBase msg) b.session ∧
     answers (.pldmPlatformMonitoring msg) b.session ∧ answers (.pldmFru msg) b.session) ∧
    -- only ECDSA P-521 and SHA-512 are negotiated; measurements are the six blocks, with a signature (R390)
    (Completes (.negotiateAlgorithms msg) s fun t => ∀ x, x ∈ t.boot.algs ↔ (x = .ecdsaP521 ∨ x = .sha512) ∧ Config.offers msg x = true) ∧
    (Completes (.getMeasurements msg) s fun t => ∃ sig, t.boot.mgmtOut = b.mgmtOut ++ s.measurements.map (fun x => ("MEASUREMENT", x)) ++ [sig])

/-- R23, R29, R41, R102, R224, R290, R354, R359, R368, R387; where the manual gives no value, log entries 2, 3 and 13. -/
def Obligations.ResetValues : Prop :=
  let s := State.reset
  s.cores.map Core.name = [0, 1024] ∧
  (∀ c ∈ s.cores,
    (∀ n : RegNo, c.regs.g.get n = 0#64 ∧ c.regs.v.get n = 0#1024) ∧ (∀ n : Small, c.regs.p.get n = false ∧ c.regs.k.get n = 0#32) ∧
    c.regs.q = List.replicate 16 0#64 ∧ c.regs.vq = List.replicate 16 0#1024 ∧ c.flow.cur = 0#32 ∧ c.flow.nxt = 0#32 ∧
    c.flow.cursor = 0#5 ∧ c.flow.pc = 0#12 ∧ (∀ n : Small, (c.flow.tb.get n).st = .empty) ∧ c.fw = true ∧ c.exc.level = 2#2 ∧ c.exc.trapvec = 0#12 ∧
    c.exc.trappc = 0#12 ∧ c.exc.cause = 0#8 ∧ c.exc.plvl = 0#2 ∧ c.exc.info = 0#64 ∧ c.exc.asid = 0#16 ∧ c.exc.ptroot = 0#44 ∧
    c.exc.allow = false ∧ c.exc.pend = false ∧ c.exc.active = false ∧ c.exc.shadow = none ∧ c.ctl.slotmap = 0xAF#8 ∧ c.ctl.chk = false ∧
    c.ctl.flags = 0#8 ∧ c.ctl.latch = false ∧ c.dq = [] ∧ c.tasks.deque = [] ∧ c.tasks.frames.map Frame.count = [0] ∧ c.port.tlb = [] ∧
    c.port.pts = 0 ∧ c.port.sched = [] ∧ c.port.cohQ = [] ∧ c.spe.z = [] ∧ (∀ n : RegNo, c.mtx.streams.get n = ⟨0#256, none⟩) ∧ c.imem = []) ∧
  s.partmap = 0#64 ∧ s.keyctl = 0#64 ∧ s.fwslot = 0#64 ∧ s.depthtab = 0#64 ∧ s.queues = [] ∧ s.launches = [] ∧ s.images = [] ∧ s.logV = [] ∧
  s.logD = [] ∧ s.tiles = [] ∧ s.boot.pending = true ∧ s.boot.power = true ∧ s.boot.thermal = false ∧ s.boot.clockMHz = 2500 ∧
  s.lines = [] ∧ s.l2v = [] ∧ s.l2d = [] ∧ s.tileTab = [] ∧ s.seqs = [] ∧ s.mem = [] ∧ s.mem.wf = true

/-- R44 to R47, R49 to R51, R53 to R56, R59. -/
def Obligations.EncodeDecodeRoundTrip : Prop :=
  ∀ i : Instr, i.wf = true →
    (∀ e w, encode i = some (e, w) → decodeSlot e w = .ok i) ∧ (∀ w, encodeHeader i = some w → decodeHeader w = .ok i)

/-- The form is the model's own (log entry 3); the operations that write memory are those of R212, R223, R255, R262, R273, R325, R381. -/
def Obligations.StepKeepsMemoryCanonical : Prop :=
  ∀ s t : State, s.mem.wf = true → step s = .next t → t.mem.wf = true

/-- R24, R26, R28, R33, R43, R278, R281, R386, R387, R430; the order among what is due in one cycle is log entry 20's. What one step is, and
that outside events are lost without power, are the model's choices (log entries 1, 66). -/
def Obligations.StepRunsDecodedInstruction : Prop :=
  ∀ (s t : State) (i : Instr) (n : Nat) (r : List (Nat × Instr)) (b : Bundle),
    let read := s.begin b.two
    let on := s.boot.power = true ∧ s.boot.thermal = false
    let listed := on ∧ s.inbox = [] ∧ s.boot.pending = false ∧ s.agenda = []
    let quiet := listed ∧ s.timersDue = false ∧ s.boot.update = none ∧ s.boot.wants = none
    (on → s.inbox = (n, i) :: r → step s = exec i (State.focus { s with inbox := r } n)) ∧
    (on → s.inbox = [] → s.boot.pending = true → step s = exec .boot s) ∧
    (on → s.inbox = [] → s.boot.pending = false → s.agenda = (n, i) :: r → step s = exec i (State.focus { s with agenda := r } n)) ∧
    (listed → s.timersDue = true → step s = .next s.timers) ∧
    (listed → s.timersDue = false → ∀ u, s.boot.update = some u → step s = .next (s.flashStep u)) ∧
    (listed → s.timersDue = false → s.boot.update = none → ∀ g, s.boot.wants = some g → s.betweenBundles = true → step s = .next (s.setClock g)) ∧
    (quiet → s.nextCore = some s.core.name → s.dueEvent = some (n, i) → step s = exec i (s.focus n)) ∧
    (Due s → s.core.bundle = .ok b → b.bad = none → RunsInOrder read b read (bundleOrder b) t →
      ∀ (start : State) (traps : List (Nat × Option TrapReq)) (f late : List Nat),
        start.coreTurn ⟨s, traps, f, late⟩ s.core.name = ⟨t.commit, traps, f, late⟩) ∧
    (quiet → s.nextCore = some s.core.name → s.dueEvent = none → s.worked = none → s.domain = [s.core.name] → s.core.owed = 0 →
      s.core.resumeAt = none → s.core.exc.entering = none → s.core.lateLanding = false →
      Due s → s.core.bundle = .ok b → b.bad = none → RunsInOrder read b read (bundleOrder b) t →
      let u := t.commit.focus s.core.name
      step s = .next (u.armBarriers.performNow.endPhysical [s.core.name] Core.endCycle)) ∧
    (s.boot.power = false ∨ s.boot.thermal = true →
      (∀ m, s.inbox = (m, .boot) :: r → step s = exec .boot { s with inbox := r }) ∧
      (∀ m, s.inbox = (m, .packageReset) :: r →
        step s = if s.boot.power then exec .packageReset { s with inbox := r } else .next { s with inbox := r }) ∧
      (∀ m, i ≠ .boot → i ≠ .packageReset → s.inbox = (m, i) :: r → step s = .next { s with inbox := r }) ∧
      (s.inbox = [] → step s = .fault (if s.boot.power then .clocksStopped else .poweredOff)))

/-- R44, R46, R47, R49, R51, R53 to R56, R59, R66, R67, and the worked examples of 03_encoding.md and 04_assembly_loader.md. -/
def Obligations.DecodeWords : Prop :=
  decodeHeader 0xF0A44001 = .ok (.headerTransfer false 2#4 (.notPred 1) 1 1#14) ∧
  decodeHeader 0xF92C0003 = .ok (.lockHeader true 2#4 6#3 3#16) ∧ decodeHeader 0xF82C0000 = .error .header ∧
  decodeSlot 1 0x40322182 = .ok (.ld (.reg 3) (.reg 4) 3#2 false 2#6 ⟨16#6, 1#2⟩) ∧
  decodeSlot 0 0x60114048 = .ok (.vadd (.reg 1) (.reg 2) (.age 0) 0 .f32) ∧
  decodeSlot 0 0x66531D08 = .ok (.vfma (.reg 5) (.reg 6) (.reg 7) (.reg 8) .f32 0) ∧
  decodeSlot 0 0x03F11401 = .ok (.sub .queue (.reg 2) (.reg 5)) ∧
  decodeSlot 2 0x08D29FFF = .ok (.cmpImm 3 .gtI (.reg 9) 0x3FFF#15) ∧
  decodeSlot 0 0x276FFFF0 = .ok (.ptb 5 true 0x3FFFF0#22) ∧
  decodeSlot 0 0x2A701000 = .ok (.ctlr (.reg 7) 0x010#12) ∧
  decodeSlot 0 0x2A700A01 = .ok (.ctlwCvcur (.reg 7)) ∧
  decodeSlot 3 0x48111830 = .ok (.amoAdd (.reg 1) (.reg 2) .n32 .sc ⟨12#6, 3#2⟩) ∧
  decodeSlot 0 0x4A110D49 = .ok (.cas (.reg 1) (.reg 2) (.reg 3) true .unp ⟨20#6, 0#2⟩) ∧
  decodeSlot 0 0x4D200000 = .ok (.fenceX .system) ∧
  decodeSlot 0 0x4E008801 = .ok (.boarm (.reg 1) (.reg 2)) ∧
  decodeSlot 1 0x53418009 = .ok (.fork 0x8009#17 (.age 4) (.reg 3)) ∧
  decodeSlot 0 0x58434201 = .ok (.depth (.reg 4) (.reg 6) ⟨33#6, 0#2⟩) ∧
  decodeSlot 0 0x5A000041 = .ok .tlbiAll ∧
  decodeSlot 0 0x5E000000 = .ok .eret ∧
  decodeSlot 0 0x6C111497 = .ok (.vcvt (.reg 1) (.reg 2) .i32 .f32 .rtz 3 true) ∧
  decodeSlot 0 0x7AC2AC00 = .ok (.vdefer 12 3#2 (.reg 5) 2) ∧
  decodeSlot 1 0x8A322801 = .ok (.vst (.reg 3) (.reg 4) 0x2801#14 2) ∧
  decodeSlot 0 0xA4736000 = .ok (.mgo 3 9 5 true false) ∧
  decodeSlot 0 0xB88A8918 = .ok (.spedn 17#6 5#4 0x123#12) ∧
  decodeSlot 0 0xC0110C81 = .ok (.cpyp (.reg 1) (.reg 2) (.reg 3) (.reg 4)) ∧
  decodeSlot 0 0xC2110C01 = .ok (.smrg (.reg 1) (.reg 2) (.reg 3)) ∧
  decodeSlot 0 0xD0010C01 = .ok (.recv (.reg 2) (.reg 3)) ∧
  decodeSlot 0 0xD2010002 = .ok (.twait (.reg 2)) ∧
  decodeSlot 0 0x00000000 = .ok .nop ∧
  decodeSlot 0 0x0231C41A = .error .unassigned ∧
  decodeSlot 0 0x0431C480 = .error .reserved ∧
  decodeSlot 0 0x0301C400 = .error .destination ∧
  decodeSlot 1 0x0231C400 = .error .extension ∧
  -- the worked example of R66 to R71: two loads of an address, in the words of a gang of eight cores
  (let line := fun n => (⟨none, [⟨.li (.reg 2) 0#22, some (.rel ⟨.win20, n, 0⟩), none, none⟩]⟩ : SrcLine)
   let at_ := fun (word off : Nat) => (⟨[("tbl", 0xFFFF0002000C0000), ("halo", 0xFFFF000100500000)], 8, 1, [], ".text", word, off⟩ : TextAt)
   (line "tbl").build (at_ 0 0) = .ok [0x222C0000F0000003#128] ∧
   (line "halo").build (at_ 1 16) = .error (.relocovf ".text" 20 "halo") ∧
   (line "pad").build (at_ 2 32) = .error (.undef "pad"))

end
end

