-- ==== Sys2Proof/Laws/Cells.lean ====
section
/-! SUPPORT. Laws of sparse storage and of memory: reads after writes, and the canonical form. -/

namespace Sys2Proof.Machine

variable {α : Type}

@[simp] theorem cget_nil (d : α) (k : Nat) : cget d [] k = d := rfl

theorem cget_cons (d : α) (j : Nat) (v : α) (r : Cells α) (k : Nat) :
    cget d ((j, v) :: r) k = if k = j then v else cget d r k := rfl

@[simp] theorem cabove_nil (k : Nat) : cabove k ([] : Cells α) = true := rfl

@[simp] theorem cabove_cons (k j : Nat) (v : α) (r : Cells α) : cabove k ((j, v) :: r) = decide (k < j) := rfl

theorem cabove_mono {k j : Nat} (h : j ≤ k) : ∀ {m : Cells α}, cabove k m = true → cabove j m = true
  | [], _ => rfl
  | (i, v) :: r, hm => by simp only [cabove_cons, decide_eq_true_eq] at hm ⊢; omega

@[simp] theorem cwf_nil [DecidableEq α] (d : α) : cwf d [] = true := rfl

theorem cwf_cons [DecidableEq α] (d : α) (j : Nat) (v : α) (r : Cells α) :
    cwf d ((j, v) :: r) = true ↔ v ≠ d ∧ cabove j r = true ∧ cwf d r = true := by
  simp [cwf, and_assoc]

/-- Below every listed index the default is read. -/
theorem cget_above [DecidableEq α] {d : α} {k : Nat} : ∀ {m : Cells α}, cabove k m = true → cwf d m = true → cget d m k = d
  | [], _, _ => rfl
  | (j, v) :: r, h, w => by
    have ⟨_, a, w⟩ := (cwf_cons d j v r).1 w
    simp only [cabove_cons, decide_eq_true_eq] at h
    rw [cget_cons, if_neg (by omega)]
    exact cget_above (cabove_mono (by omega) a) w

/-- Reading after an insertion. -/
theorem cget_cins (d : α) (k : Nat) (v : α) : ∀ (m : Cells α) (i : Nat), cget d (cins m k v) i = if i = k then v else cget d m i
  | [], i => rfl
  | (j, w) :: r, i => by
    simp only [cins]
    split
    · rfl
    · split
      · subst k; by_cases h : i = j <;> simp [cget_cons, h]
      · rw [cget_cons, cget_cins d k v r i, cget_cons]
        by_cases h : i = j
        · subst i; rw [if_pos rfl, if_pos rfl, if_neg (by omega)]
        · rw [if_neg h, if_neg h]

/-- Reading after a removal. -/
theorem cget_cdel [DecidableEq α] (d : α) (k : Nat) :
    ∀ (m : Cells α) (i : Nat), cwf d m = true → cget d (cdel m k) i = if i = k then d else cget d m i
  | [], i, _ => by simp [cdel]
  | (j, w) :: r, i, h => by
    have ⟨_, a, hr⟩ := (cwf_cons d j w r).1 h
    simp only [cdel]
    split
    · subst k
      by_cases e : i = j
      · subst i; rw [if_pos rfl]; exact cget_above a hr
      · rw [if_neg e, cget_cons, if_neg e]
    · rw [cget_cons, cget_cdel d k r i hr, cget_cons]
      by_cases e : i = j
      · subst i; rw [if_pos rfl, if_pos rfl, if_neg (by omega)]
      · rw [if_neg e, if_neg e]

/-- Reading after a write. -/
theorem cget_cput [DecidableEq α] {d : α} {m : Cells α} (h : cwf d m = true) (k : Nat) (v : α) (i : Nat) :
    cget d (cput d m k v) i = if i = k then v else cget d m i := by
  unfold cput
  split
  · next e => subst v; exact cget_cdel d k m i h
  · exact cget_cins d k v m i

/-- Reading after writing a value that is not the default needs no canonical form. -/
theorem cget_cput_of_ne [DecidableEq α] {d v : α} (hv : v ≠ d) (m : Cells α) (k i : Nat) :
    cget d (cput d m k v) i = if i = k then v else cget d m i := by
  rw [cput, if_neg hv, cget_cins]

theorem cabove_cins {j k : Nat} (h : j < k) (v : α) : ∀ {m : Cells α}, cabove j m = true → cabove j (cins m k v) = true
  | [], _ => by simpa [cins] using h
  | (i, w) :: r, a => by
    simp only [cabove_cons, decide_eq_true_eq] at a
    simp only [cins]
    split
    · simpa using h
    · split <;> simpa using by omega

theorem cwf_cins [DecidableEq α] {d v : α} (hv : v ≠ d) (k : Nat) : ∀ {m : Cells α}, cwf d m = true → cwf d (cins m k v) = true
  | [], _ => by simp [cins, cwf, hv]
  | (j, w) :: r, h => by
    have ⟨hw, a, hr⟩ := (cwf_cons d j w r).1 h
    simp only [cins]
    split
    · next e => exact (cwf_cons d _ _ _).2 ⟨hv, by simpa using e, h⟩
    · split
      · next e => subst k; exact (cwf_cons d _ _ _).2 ⟨hv, a, hr⟩
      · exact (cwf_cons d _ _ _).2 ⟨hw, cabove_cins (by omega) v a, cwf_cins hv k hr⟩

theorem cabove_cdel [DecidableEq α] {d : α} {j k : Nat} :
    ∀ {m : Cells α}, cabove j m = true → cwf d m = true → cabove j (cdel m k) = true
  | [], _, _ => rfl
  | (i, w) :: r, a, h => by
    have ⟨_, b, _⟩ := (cwf_cons d i w r).1 h
    simp only [cabove_cons, decide_eq_true_eq] at a
    simp only [cdel]
    split
    · exact cabove_mono (by omega) b
    · simpa using a

theorem cwf_cdel [DecidableEq α] {d : α} (k : Nat) : ∀ {m : Cells α}, cwf d m = true → cwf d (cdel m k) = true
  | [], _ => rfl
  | (j, w) :: r, h => by
    have ⟨hw, a, hr⟩ := (cwf_cons d j w r).1 h
    simp only [cdel]
    split
    · exact hr
    · exact (cwf_cons d _ _ _).2 ⟨hw, cabove_cdel a hr, cwf_cdel k hr⟩

/-- A write keeps the canonical form. -/
theorem cwf_cput [DecidableEq α] {d : α} {m : Cells α} (h : cwf d m = true) (k : Nat) (v : α) : cwf d (cput d m k v) = true := by
  unfold cput
  split
  · exact cwf_cdel k h
  · next e => exact cwf_cins e k h

/-- Any number of writes keep it. -/
theorem cwf_foldl_cput [DecidableEq α] {d : α} {β : Type} (f : β → Nat) (g : β → α) :
    ∀ (l : List β) {m : Cells α}, cwf d m = true → cwf d (l.foldl (fun m x => cput d m (f x) (g x)) m) = true
  | [], _, h => h
  | x :: l, _, h => cwf_foldl_cput f g l (cwf_cput h (f x) (g x))

theorem cabove_filter [DecidableEq α] {d : α} (p : Nat × α → Bool) {k : Nat} :
    ∀ {m : Cells α}, cabove k m = true → cwf d m = true → cabove k (m.filter p) = true
  | [], _, _ => rfl
  | (j, v) :: r, a, h => by
    have ⟨_, b, hr⟩ := (cwf_cons d j v r).1 h
    simp only [cabove_cons, decide_eq_true_eq] at a
    rw [List.filter_cons]
    split
    · simpa using a
    · exact cabove_filter p (cabove_mono (by omega) b) hr

/-- Leaving entries out keeps the canonical form. -/
theorem cwf_filter [DecidableEq α] {d : α} (p : Nat × α → Bool) : ∀ {m : Cells α}, cwf d m = true → cwf d (m.filter p) = true
  | [], _ => rfl
  | (j, v) :: r, h => by
    have ⟨hv, a, hr⟩ := (cwf_cons d j v r).1 h
    rw [List.filter_cons]
    split
    · exact (cwf_cons d _ _ _).2 ⟨hv, cabove_filter p a hr, cwf_filter p hr⟩
    · exact cwf_filter p hr

/-! ### Memory -/

@[simp] theorem memGet_nil (a : Nat) : memGet [] a = 0#8 := rfl

/-- A byte reads as what was written to it last (R4). -/
theorem memGet_memPut {m : Mem} (h : m.wf = true) (a : Nat) (b : Byte) (i : Nat) :
    memGet (memPut m a b) i = if i = a then b else memGet m i := cget_cput h a b i

theorem wf_memPut {m : Mem} (h : m.wf = true) (a : Nat) (b : Byte) : (memPut m a b).wf = true := cwf_cput h a b

theorem wf_memPutList : ∀ (bs : List Byte) {m : Mem} (a : Nat), m.wf = true → (memPutList m a bs).wf = true
  | [], _, _, h => h
  | b :: bs, _, a, h => wf_memPutList bs (a + 1) (wf_memPut h a b)

/-- Bytes outside a run of writes stay. -/
theorem memGet_memPutList_out : ∀ (bs : List Byte) {m : Mem} (a i : Nat), m.wf = true → (i < a ∨ a + bs.length ≤ i) →
    memGet (memPutList m a bs) i = memGet m i
  | [], _, _, _, _, _ => rfl
  | b :: bs, m, a, i, h, o => by
    rw [memPutList, memGet_memPutList_out bs (a + 1) i (wf_memPut h a b) (by simp only [List.length_cons] at o; omega),
      memGet_memPut h, if_neg (by simp only [List.length_cons] at o; omega)]

/-- A byte inside a run of writes is the one written there. -/
theorem memGet_memPutList_in : ∀ (bs : List Byte) {m : Mem} (a j : Nat) (_ : m.wf = true) (o : j < bs.length),
    memGet (memPutList m a bs) (a + j) = bs[j]
  | [], _, _, _, _, o => absurd o (by simp)
  | b :: bs, m, a, 0, h, _ => by
    rw [memPutList, memGet_memPutList_out bs (a + 1) (a + 0) (wf_memPut h a b) (by omega), memGet_memPut h, if_pos (by omega)]
    rfl
  | b :: bs, m, a, j + 1, h, o => by
    rw [memPutList, show a + (j + 1) = a + 1 + j by omega,
      memGet_memPutList_in bs (a + 1) j (wf_memPut h a b) (by simpa using o)]
    rfl

@[simp] theorem natBytes_length (x : Nat) : ∀ n, (natBytes x n).length = n := by
  intro n; induction n generalizing x with
  | zero => rfl
  | succ n ih => simp [natBytes, ih]

@[simp] theorem memBytes_length (m : Mem) (a : Nat) : ∀ n, (memBytes m a n).length = n := by
  intro n; induction n generalizing a with
  | zero => rfl
  | succ n ih => simp [memBytes, ih]

/-- What the bytes of a number say: the number, within their width (R4). -/
theorem bytesNat_natBytes (n : Nat) : ∀ x, bytesNat (natBytes x n) = x % 256 ^ n := by
  induction n with
  | zero => intro x; simp [natBytes, bytesNat, Nat.mod_one]
  | succ n ih =>
    intro x
    simp only [natBytes, bytesNat, ih, BitVec.toNat_ofNat]
    rw [show (256 : Nat) ^ (n + 1) = 256 * 256 ^ n by rw [Nat.pow_succ, Nat.mul_comm], Nat.mod_mul]

/-- A number reads back from the bytes that were written at its place (R4). -/
theorem memNat_memPutList {m : Mem} (h : m.wf = true) (a x n : Nat) :
    memNat (memPutList m a (natBytes x n)) a n = x % 256 ^ n := by
  rw [← bytesNat_natBytes]
  have gen : ∀ (bs : List Byte) (m : Mem) (a : Nat), m.wf = true → memNat (memPutList m a bs) a bs.length = bytesNat bs := by
    intro bs
    induction bs with
    | nil => intro m a _; rfl
    | cons b bs ih =>
      intro m a h
      simp only [List.length_cons, memNat, bytesNat]
      rw [memPutList, ih _ _ (wf_memPut h a b), memGet_memPutList_out bs (a + 1) a (wf_memPut h a b) (by omega), memGet_memPut h,
        if_pos rfl]
  have := gen (natBytes x n) m a h
  rwa [natBytes_length] at this

end Sys2Proof.Machine
end

