-- ==== Sys2Proof/Laws/State.lean ====
section
/-! SUPPORT. One lemma for each field under each update of the core in focus, so that no proof unfolds a record update. -/

namespace Sys2Proof.Machine

section
variable (s : State)

/-! ### `modCore` -/

@[simp] theorem modCore_core (f : Core → Core) : (s.modCore f).core = f s.core := rfl
@[simp] theorem modCore_others (f : Core → Core) : (s.modCore f).others = s.others := rfl
@[simp] theorem modCore_mem (f : Core → Core) : (s.modCore f).mem = s.mem := rfl
@[simp] theorem modCore_lines (f : Core → Core) : (s.modCore f).lines = s.lines := rfl
@[simp] theorem modCore_tags (f : Core → Core) : (s.modCore f).tags = s.tags := rfl
@[simp] theorem modCore_bad (f : Core → Core) : (s.modCore f).bad = s.bad := rfl
@[simp] theorem modCore_flips (f : Core → Core) : (s.modCore f).flips = s.flips := rfl
@[simp] theorem modCore_repairs (f : Core → Core) : (s.modCore f).repairs = s.repairs := rfl
@[simp] theorem modCore_held (f : Core → Core) : (s.modCore f).held = s.held := rfl
@[simp] theorem modCore_tiles (f : Core → Core) : (s.modCore f).tiles = s.tiles := rfl
@[simp] theorem modCore_tileFmts (f : Core → Core) : (s.modCore f).tileFmts = s.tileFmts := rfl
@[simp] theorem modCore_scopeGang (f : Core → Core) : (s.modCore f).scopeGang = s.scopeGang := rfl
@[simp] theorem modCore_scopeEns (f : Core → Core) : (s.modCore f).scopeEns = s.scopeEns := rfl
@[simp] theorem modCore_scopePkg (f : Core → Core) : (s.modCore f).scopePkg = s.scopePkg := rfl
@[simp] theorem modCore_blocks (f : Core → Core) : (s.modCore f).blocks = s.blocks := rfl
@[simp] theorem modCore_depthtab (f : Core → Core) : (s.modCore f).depthtab = s.depthtab := rfl
@[simp] theorem modCore_seqs (f : Core → Core) : (s.modCore f).seqs = s.seqs := rfl
@[simp] theorem modCore_ready (f : Core → Core) : (s.modCore f).ready = s.ready := rfl
@[simp] theorem modCore_posts (f : Core → Core) : (s.modCore f).posts = s.posts := rfl
@[simp] theorem modCore_waiters (f : Core → Core) : (s.modCore f).waiters = s.waiters := rfl
@[simp] theorem modCore_rllim (f : Core → Core) : (s.modCore f).rllim = s.rllim := rfl
@[simp] theorem modCore_scrQ (f : Core → Core) : (s.modCore f).scrQ = s.scrQ := rfl
@[simp] theorem modCore_tileTab (f : Core → Core) : (s.modCore f).tileTab = s.tileTab := rfl
@[simp] theorem modCore_ways (f : Core → Core) : (s.modCore f).ways = s.ways := rfl
@[simp] theorem modCore_peers (f : Core → Core) : (s.modCore f).peers = s.peers := rfl
@[simp] theorem modCore_portsUp (f : Core → Core) : (s.modCore f).portsUp = s.portsUp := rfl
@[simp] theorem modCore_netOut (f : Core → Core) : (s.modCore f).netOut = s.netOut := rfl
@[simp] theorem modCore_partmap (f : Core → Core) : (s.modCore f).partmap = s.partmap := rfl
@[simp] theorem modCore_keyctl (f : Core → Core) : (s.modCore f).keyctl = s.keyctl := rfl
@[simp] theorem modCore_fwslot (f : Core → Core) : (s.modCore f).fwslot = s.fwslot := rfl
@[simp] theorem modCore_ctlb (f : Core → Core) : (s.modCore f).ctlb = s.ctlb := rfl
@[simp] theorem modCore_queues (f : Core → Core) : (s.modCore f).queues = s.queues := rfl
@[simp] theorem modCore_launches (f : Core → Core) : (s.modCore f).launches = s.launches := rfl
@[simp] theorem modCore_images (f : Core → Core) : (s.modCore f).images = s.images := rfl
@[simp] theorem modCore_launchGen (f : Core → Core) : (s.modCore f).launchGen = s.launchGen := rfl
@[simp] theorem modCore_sites (f : Core → Core) : (s.modCore f).sites = s.sites := rfl
@[simp] theorem modCore_preempts (f : Core → Core) : (s.modCore f).preempts = s.preempts := rfl
@[simp] theorem modCore_saved (f : Core → Core) : (s.modCore f).saved = s.saved := rfl
@[simp] theorem modCore_logV (f : Core → Core) : (s.modCore f).logV = s.logV := rfl
@[simp] theorem modCore_logD (f : Core → Core) : (s.modCore f).logD = s.logD := rfl
@[simp] theorem modCore_srcSeq (f : Core → Core) : (s.modCore f).srcSeq = s.srcSeq := rfl
@[simp] theorem modCore_srcLost (f : Core → Core) : (s.modCore f).srcLost = s.srcLost := rfl
@[simp] theorem modCore_notices (f : Core → Core) : (s.modCore f).notices = s.notices := rfl
@[simp] theorem modCore_boot (f : Core → Core) : (s.modCore f).boot = s.boot := rfl
@[simp] theorem modCore_l2v (f : Core → Core) : (s.modCore f).l2v = s.l2v := rfl
@[simp] theorem modCore_l2d (f : Core → Core) : (s.modCore f).l2d = s.l2d := rfl
@[simp] theorem modCore_owned (f : Core → Core) : (s.modCore f).owned = s.owned := rfl
@[simp] theorem modCore_busy (f : Core → Core) : (s.modCore f).busy = s.busy := rfl
@[simp] theorem modCore_arrived (f : Core → Core) : (s.modCore f).arrived = s.arrived := rfl
@[simp] theorem modCore_grade (f : Core → Core) : (s.modCore f).grade = s.grade := rfl
@[simp] theorem modCore_inbox (f : Core → Core) : (s.modCore f).inbox = s.inbox := rfl
@[simp] theorem modCore_agenda (f : Core → Core) : (s.modCore f).agenda = s.agenda := rfl
@[simp] theorem modCore_fresh (f : Core → Core) : (s.modCore f).fresh = s.fresh := rfl

/-! ### `modRegs` -/

@[simp] theorem modRegs_core_regs (f : Regs → Regs) : (s.modRegs f).core.regs = f s.core.regs := rfl
@[simp] theorem modRegs_core_id (f : Regs → Regs) : (s.modRegs f).core.id = s.core.id := rfl
@[simp] theorem modRegs_core_urg (f : Regs → Regs) : (s.modRegs f).core.urg = s.core.urg := rfl
@[simp] theorem modRegs_core_fw (f : Regs → Regs) : (s.modRegs f).core.fw = s.core.fw := rfl
@[simp] theorem modRegs_core_clock (f : Regs → Regs) : (s.modRegs f).core.clock = s.core.clock := rfl
@[simp] theorem modRegs_core_unf (f : Regs → Regs) : (s.modRegs f).core.unf = s.core.unf := rfl
@[simp] theorem modRegs_core_lost (f : Regs → Regs) : (s.modRegs f).core.lost = s.core.lost := rfl
@[simp] theorem modRegs_core_owed (f : Regs → Regs) : (s.modRegs f).core.owed = s.core.owed := rfl
@[simp] theorem modRegs_core_imem (f : Regs → Regs) : (s.modRegs f).core.imem = s.core.imem := rfl
@[simp] theorem modRegs_core_ctl (f : Regs → Regs) : (s.modRegs f).core.ctl = s.core.ctl := rfl
@[simp] theorem modRegs_core_exc (f : Regs → Regs) : (s.modRegs f).core.exc = s.core.exc := rfl
@[simp] theorem modRegs_core_flow (f : Regs → Regs) : (s.modRegs f).core.flow = s.core.flow := rfl
@[simp] theorem modRegs_core_port (f : Regs → Regs) : (s.modRegs f).core.port = s.core.port := rfl
@[simp] theorem modRegs_core_mtx (f : Regs → Regs) : (s.modRegs f).core.mtx = s.core.mtx := rfl
@[simp] theorem modRegs_core_spe (f : Regs → Regs) : (s.modRegs f).core.spe = s.core.spe := rfl
@[simp] theorem modRegs_core_tasks (f : Regs → Regs) : (s.modRegs f).core.tasks = s.core.tasks := rfl
@[simp] theorem modRegs_core_dq (f : Regs → Regs) : (s.modRegs f).core.dq = s.core.dq := rfl
@[simp] theorem modRegs_core_launch (f : Regs → Regs) : (s.modRegs f).core.launch = s.core.launch := rfl
@[simp] theorem modRegs_core_trapFrozen (f : Regs → Regs) : (s.modRegs f).core.trapFrozen = s.core.trapFrozen := rfl
@[simp] theorem modRegs_core_stopped (f : Regs → Regs) : (s.modRegs f).core.stopped = s.core.stopped := rfl
@[simp] theorem modRegs_core_resumeAt (f : Regs → Regs) : (s.modRegs f).core.resumeAt = s.core.resumeAt := rfl
@[simp] theorem modRegs_core_prov (f : Regs → Regs) : (s.modRegs f).core.prov = s.core.prov := rfl
@[simp] theorem modRegs_core_crew (f : Regs → Regs) : (s.modRegs f).core.crew = s.core.crew := rfl
@[simp] theorem modRegs_core_name (f : Regs → Regs) : (s.modRegs f).core.name = s.core.name := rfl
@[simp] theorem modRegs_others (f : Regs → Regs) : (s.modRegs f).others = s.others := rfl
@[simp] theorem modRegs_mem (f : Regs → Regs) : (s.modRegs f).mem = s.mem := rfl
@[simp] theorem modRegs_lines (f : Regs → Regs) : (s.modRegs f).lines = s.lines := rfl
@[simp] theorem modRegs_tags (f : Regs → Regs) : (s.modRegs f).tags = s.tags := rfl
@[simp] theorem modRegs_bad (f : Regs → Regs) : (s.modRegs f).bad = s.bad := rfl
@[simp] theorem modRegs_flips (f : Regs → Regs) : (s.modRegs f).flips = s.flips := rfl
@[simp] theorem modRegs_repairs (f : Regs → Regs) : (s.modRegs f).repairs = s.repairs := rfl
@[simp] theorem modRegs_held (f : Regs → Regs) : (s.modRegs f).held = s.held := rfl
@[simp] theorem modRegs_tiles (f : Regs → Regs) : (s.modRegs f).tiles = s.tiles := rfl
@[simp] theorem modRegs_tileFmts (f : Regs → Regs) : (s.modRegs f).tileFmts = s.tileFmts := rfl
@[simp] theorem modRegs_scopeGang (f : Regs → Regs) : (s.modRegs f).scopeGang = s.scopeGang := rfl
@[simp] theorem modRegs_scopeEns (f : Regs → Regs) : (s.modRegs f).scopeEns = s.scopeEns := rfl
@[simp] theorem modRegs_scopePkg (f : Regs → Regs) : (s.modRegs f).scopePkg = s.scopePkg := rfl
@[simp] theorem modRegs_blocks (f : Regs → Regs) : (s.modRegs f).blocks = s.blocks := rfl
@[simp] theorem modRegs_depthtab (f : Regs → Regs) : (s.modRegs f).depthtab = s.depthtab := rfl
@[simp] theorem modRegs_seqs (f : Regs → Regs) : (s.modRegs f).seqs = s.seqs := rfl
@[simp] theorem modRegs_ready (f : Regs → Regs) : (s.modRegs f).ready = s.ready := rfl
@[simp] theorem modRegs_posts (f : Regs → Regs) : (s.modRegs f).posts = s.posts := rfl
@[simp] theorem modRegs_waiters (f : Regs → Regs) : (s.modRegs f).waiters = s.waiters := rfl
@[simp] theorem modRegs_rllim (f : Regs → Regs) : (s.modRegs f).rllim = s.rllim := rfl
@[simp] theorem modRegs_scrQ (f : Regs → Regs) : (s.modRegs f).scrQ = s.scrQ := rfl
@[simp] theorem modRegs_tileTab (f : Regs → Regs) : (s.modRegs f).tileTab = s.tileTab := rfl
@[simp] theorem modRegs_ways (f : Regs → Regs) : (s.modRegs f).ways = s.ways := rfl
@[simp] theorem modRegs_peers (f : Regs → Regs) : (s.modRegs f).peers = s.peers := rfl
@[simp] theorem modRegs_portsUp (f : Regs → Regs) : (s.modRegs f).portsUp = s.portsUp := rfl
@[simp] theorem modRegs_netOut (f : Regs → Regs) : (s.modRegs f).netOut = s.netOut := rfl
@[simp] theorem modRegs_partmap (f : Regs → Regs) : (s.modRegs f).partmap = s.partmap := rfl
@[simp] theorem modRegs_keyctl (f : Regs → Regs) : (s.modRegs f).keyctl = s.keyctl := rfl
@[simp] theorem modRegs_fwslot (f : Regs → Regs) : (s.modRegs f).fwslot = s.fwslot := rfl
@[simp] theorem modRegs_ctlb (f : Regs → Regs) : (s.modRegs f).ctlb = s.ctlb := rfl
@[simp] theorem modRegs_queues (f : Regs → Regs) : (s.modRegs f).queues = s.queues := rfl
@[simp] theorem modRegs_launches (f : Regs → Regs) : (s.modRegs f).launches = s.launches := rfl
@[simp] theorem modRegs_images (f : Regs → Regs) : (s.modRegs f).images = s.images := rfl
@[simp] theorem modRegs_launchGen (f : Regs → Regs) : (s.modRegs f).launchGen = s.launchGen := rfl
@[simp] theorem modRegs_sites (f : Regs → Regs) : (s.modRegs f).sites = s.sites := rfl
@[simp] theorem modRegs_preempts (f : Regs → Regs) : (s.modRegs f).preempts = s.preempts := rfl
@[simp] theorem modRegs_saved (f : Regs → Regs) : (s.modRegs f).saved = s.saved := rfl
@[simp] theorem modRegs_logV (f : Regs → Regs) : (s.modRegs f).logV = s.logV := rfl
@[simp] theorem modRegs_logD (f : Regs → Regs) : (s.modRegs f).logD = s.logD := rfl
@[simp] theorem modRegs_srcSeq (f : Regs → Regs) : (s.modRegs f).srcSeq = s.srcSeq := rfl
@[simp] theorem modRegs_srcLost (f : Regs → Regs) : (s.modRegs f).srcLost = s.srcLost := rfl
@[simp] theorem modRegs_notices (f : Regs → Regs) : (s.modRegs f).notices = s.notices := rfl
@[simp] theorem modRegs_boot (f : Regs → Regs) : (s.modRegs f).boot = s.boot := rfl
@[simp] theorem modRegs_l2v (f : Regs → Regs) : (s.modRegs f).l2v = s.l2v := rfl
@[simp] theorem modRegs_l2d (f : Regs → Regs) : (s.modRegs f).l2d = s.l2d := rfl
@[simp] theorem modRegs_owned (f : Regs → Regs) : (s.modRegs f).owned = s.owned := rfl
@[simp] theorem modRegs_busy (f : Regs → Regs) : (s.modRegs f).busy = s.busy := rfl
@[simp] theorem modRegs_arrived (f : Regs → Regs) : (s.modRegs f).arrived = s.arrived := rfl
@[simp] theorem modRegs_grade (f : Regs → Regs) : (s.modRegs f).grade = s.grade := rfl
@[simp] theorem modRegs_inbox (f : Regs → Regs) : (s.modRegs f).inbox = s.inbox := rfl
@[simp] theorem modRegs_agenda (f : Regs → Regs) : (s.modRegs f).agenda = s.agenda := rfl
@[simp] theorem modRegs_fresh (f : Regs → Regs) : (s.modRegs f).fresh = s.fresh := rfl

/-! ### `modCtl` -/

@[simp] theorem modCtl_core_ctl (f : Ctl → Ctl) : (s.modCtl f).core.ctl = f s.core.ctl := rfl
@[simp] theorem modCtl_core_id (f : Ctl → Ctl) : (s.modCtl f).core.id = s.core.id := rfl
@[simp] theorem modCtl_core_urg (f : Ctl → Ctl) : (s.modCtl f).core.urg = s.core.urg := rfl
@[simp] theorem modCtl_core_fw (f : Ctl → Ctl) : (s.modCtl f).core.fw = s.core.fw := rfl
@[simp] theorem modCtl_core_clock (f : Ctl → Ctl) : (s.modCtl f).core.clock = s.core.clock := rfl
@[simp] theorem modCtl_core_unf (f : Ctl → Ctl) : (s.modCtl f).core.unf = s.core.unf := rfl
@[simp] theorem modCtl_core_lost (f : Ctl → Ctl) : (s.modCtl f).core.lost = s.core.lost := rfl
@[simp] theorem modCtl_core_owed (f : Ctl → Ctl) : (s.modCtl f).core.owed = s.core.owed := rfl
@[simp] theorem modCtl_core_imem (f : Ctl → Ctl) : (s.modCtl f).core.imem = s.core.imem := rfl
@[simp] theorem modCtl_core_regs (f : Ctl → Ctl) : (s.modCtl f).core.regs = s.core.regs := rfl
@[simp] theorem modCtl_core_exc (f : Ctl → Ctl) : (s.modCtl f).core.exc = s.core.exc := rfl
@[simp] theorem modCtl_core_flow (f : Ctl → Ctl) : (s.modCtl f).core.flow = s.core.flow := rfl
@[simp] theorem modCtl_core_port (f : Ctl → Ctl) : (s.modCtl f).core.port = s.core.port := rfl
@[simp] theorem modCtl_core_mtx (f : Ctl → Ctl) : (s.modCtl f).core.mtx = s.core.mtx := rfl
@[simp] theorem modCtl_core_spe (f : Ctl → Ctl) : (s.modCtl f).core.spe = s.core.spe := rfl
@[simp] theorem modCtl_core_tasks (f : Ctl → Ctl) : (s.modCtl f).core.tasks = s.core.tasks := rfl
@[simp] theorem modCtl_core_dq (f : Ctl → Ctl) : (s.modCtl f).core.dq = s.core.dq := rfl
@[simp] theorem modCtl_core_launch (f : Ctl → Ctl) : (s.modCtl f).core.launch = s.core.launch := rfl
@[simp] theorem modCtl_core_trapFrozen (f : Ctl → Ctl) : (s.modCtl f).core.trapFrozen = s.core.trapFrozen := rfl
@[simp] theorem modCtl_core_stopped (f : Ctl → Ctl) : (s.modCtl f).core.stopped = s.core.stopped := rfl
@[simp] theorem modCtl_core_resumeAt (f : Ctl → Ctl) : (s.modCtl f).core.resumeAt = s.core.resumeAt := rfl
@[simp] theorem modCtl_core_prov (f : Ctl → Ctl) : (s.modCtl f).core.prov = s.core.prov := rfl
@[simp] theorem modCtl_core_crew (f : Ctl → Ctl) : (s.modCtl f).core.crew = s.core.crew := rfl
@[simp] theorem modCtl_core_name (f : Ctl → Ctl) : (s.modCtl f).core.name = s.core.name := rfl
@[simp] theorem modCtl_others (f : Ctl → Ctl) : (s.modCtl f).others = s.others := rfl
@[simp] theorem modCtl_mem (f : Ctl → Ctl) : (s.modCtl f).mem = s.mem := rfl
@[simp] theorem modCtl_lines (f : Ctl → Ctl) : (s.modCtl f).lines = s.lines := rfl
@[simp] theorem modCtl_tags (f : Ctl → Ctl) : (s.modCtl f).tags = s.tags := rfl
@[simp] theorem modCtl_bad (f : Ctl → Ctl) : (s.modCtl f).bad = s.bad := rfl
@[simp] theorem modCtl_flips (f : Ctl → Ctl) : (s.modCtl f).flips = s.flips := rfl
@[simp] theorem modCtl_repairs (f : Ctl → Ctl) : (s.modCtl f).repairs = s.repairs := rfl
@[simp] theorem modCtl_held (f : Ctl → Ctl) : (s.modCtl f).held = s.held := rfl
@[simp] theorem modCtl_tiles (f : Ctl → Ctl) : (s.modCtl f).tiles = s.tiles := rfl
@[simp] theorem modCtl_tileFmts (f : Ctl → Ctl) : (s.modCtl f).tileFmts = s.tileFmts := rfl
@[simp] theorem modCtl_scopeGang (f : Ctl → Ctl) : (s.modCtl f).scopeGang = s.scopeGang := rfl
@[simp] theorem modCtl_scopeEns (f : Ctl → Ctl) : (s.modCtl f).scopeEns = s.scopeEns := rfl
@[simp] theorem modCtl_scopePkg (f : Ctl → Ctl) : (s.modCtl f).scopePkg = s.scopePkg := rfl
@[simp] theorem modCtl_blocks (f : Ctl → Ctl) : (s.modCtl f).blocks = s.blocks := rfl
@[simp] theorem modCtl_depthtab (f : Ctl → Ctl) : (s.modCtl f).depthtab = s.depthtab := rfl
@[simp] theorem modCtl_seqs (f : Ctl → Ctl) : (s.modCtl f).seqs = s.seqs := rfl
@[simp] theorem modCtl_ready (f : Ctl → Ctl) : (s.modCtl f).ready = s.ready := rfl
@[simp] theorem modCtl_posts (f : Ctl → Ctl) : (s.modCtl f).posts = s.posts := rfl
@[simp] theorem modCtl_waiters (f : Ctl → Ctl) : (s.modCtl f).waiters = s.waiters := rfl
@[simp] theorem modCtl_rllim (f : Ctl → Ctl) : (s.modCtl f).rllim = s.rllim := rfl
@[simp] theorem modCtl_scrQ (f : Ctl → Ctl) : (s.modCtl f).scrQ = s.scrQ := rfl
@[simp] theorem modCtl_tileTab (f : Ctl → Ctl) : (s.modCtl f).tileTab = s.tileTab := rfl
@[simp] theorem modCtl_ways (f : Ctl → Ctl) : (s.modCtl f).ways = s.ways := rfl
@[simp] theorem modCtl_peers (f : Ctl → Ctl) : (s.modCtl f).peers = s.peers := rfl
@[simp] theorem modCtl_portsUp (f : Ctl → Ctl) : (s.modCtl f).portsUp = s.portsUp := rfl
@[simp] theorem modCtl_netOut (f : Ctl → Ctl) : (s.modCtl f).netOut = s.netOut := rfl
@[simp] theorem modCtl_partmap (f : Ctl → Ctl) : (s.modCtl f).partmap = s.partmap := rfl
@[simp] theorem modCtl_keyctl (f : Ctl → Ctl) : (s.modCtl f).keyctl = s.keyctl := rfl
@[simp] theorem modCtl_fwslot (f : Ctl → Ctl) : (s.modCtl f).fwslot = s.fwslot := rfl
@[simp] theorem modCtl_ctlb (f : Ctl → Ctl) : (s.modCtl f).ctlb = s.ctlb := rfl
@[simp] theorem modCtl_queues (f : Ctl → Ctl) : (s.modCtl f).queues = s.queues := rfl
@[simp] theorem modCtl_launches (f : Ctl → Ctl) : (s.modCtl f).launches = s.launches := rfl
@[simp] theorem modCtl_images (f : Ctl → Ctl) : (s.modCtl f).images = s.images := rfl
@[simp] theorem modCtl_launchGen (f : Ctl → Ctl) : (s.modCtl f).launchGen = s.launchGen := rfl
@[simp] theorem modCtl_sites (f : Ctl → Ctl) : (s.modCtl f).sites = s.sites := rfl
@[simp] theorem modCtl_preempts (f : Ctl → Ctl) : (s.modCtl f).preempts = s.preempts := rfl
@[simp] theorem modCtl_saved (f : Ctl → Ctl) : (s.modCtl f).saved = s.saved := rfl
@[simp] theorem modCtl_logV (f : Ctl → Ctl) : (s.modCtl f).logV = s.logV := rfl
@[simp] theorem modCtl_logD (f : Ctl → Ctl) : (s.modCtl f).logD = s.logD := rfl
@[simp] theorem modCtl_srcSeq (f : Ctl → Ctl) : (s.modCtl f).srcSeq = s.srcSeq := rfl
@[simp] theorem modCtl_srcLost (f : Ctl → Ctl) : (s.modCtl f).srcLost = s.srcLost := rfl
@[simp] theorem modCtl_notices (f : Ctl → Ctl) : (s.modCtl f).notices = s.notices := rfl
@[simp] theorem modCtl_boot (f : Ctl → Ctl) : (s.modCtl f).boot = s.boot := rfl
@[simp] theorem modCtl_l2v (f : Ctl → Ctl) : (s.modCtl f).l2v = s.l2v := rfl
@[simp] theorem modCtl_l2d (f : Ctl → Ctl) : (s.modCtl f).l2d = s.l2d := rfl
@[simp] theorem modCtl_owned (f : Ctl → Ctl) : (s.modCtl f).owned = s.owned := rfl
@[simp] theorem modCtl_busy (f : Ctl → Ctl) : (s.modCtl f).busy = s.busy := rfl
@[simp] theorem modCtl_arrived (f : Ctl → Ctl) : (s.modCtl f).arrived = s.arrived := rfl
@[simp] theorem modCtl_grade (f : Ctl → Ctl) : (s.modCtl f).grade = s.grade := rfl
@[simp] theorem modCtl_inbox (f : Ctl → Ctl) : (s.modCtl f).inbox = s.inbox := rfl
@[simp] theorem modCtl_agenda (f : Ctl → Ctl) : (s.modCtl f).agenda = s.agenda := rfl
@[simp] theorem modCtl_fresh (f : Ctl → Ctl) : (s.modCtl f).fresh = s.fresh := rfl

/-! ### `modExc` -/

@[simp] theorem modExc_core_exc (f : Exc → Exc) : (s.modExc f).core.exc = f s.core.exc := rfl
@[simp] theorem modExc_core_id (f : Exc → Exc) : (s.modExc f).core.id = s.core.id := rfl
@[simp] theorem modExc_core_urg (f : Exc → Exc) : (s.modExc f).core.urg = s.core.urg := rfl
@[simp] theorem modExc_core_fw (f : Exc → Exc) : (s.modExc f).core.fw = s.core.fw := rfl
@[simp] theorem modExc_core_clock (f : Exc → Exc) : (s.modExc f).core.clock = s.core.clock := rfl
@[simp] theorem modExc_core_unf (f : Exc → Exc) : (s.modExc f).core.unf = s.core.unf := rfl
@[simp] theorem modExc_core_lost (f : Exc → Exc) : (s.modExc f).core.lost = s.core.lost := rfl
@[simp] theorem modExc_core_owed (f : Exc → Exc) : (s.modExc f).core.owed = s.core.owed := rfl
@[simp] theorem modExc_core_imem (f : Exc → Exc) : (s.modExc f).core.imem = s.core.imem := rfl
@[simp] theorem modExc_core_regs (f : Exc → Exc) : (s.modExc f).core.regs = s.core.regs := rfl
@[simp] theorem modExc_core_ctl (f : Exc → Exc) : (s.modExc f).core.ctl = s.core.ctl := rfl
@[simp] theorem modExc_core_flow (f : Exc → Exc) : (s.modExc f).core.flow = s.core.flow := rfl
@[simp] theorem modExc_core_port (f : Exc → Exc) : (s.modExc f).core.port = s.core.port := rfl
@[simp] theorem modExc_core_mtx (f : Exc → Exc) : (s.modExc f).core.mtx = s.core.mtx := rfl
@[simp] theorem modExc_core_spe (f : Exc → Exc) : (s.modExc f).core.spe = s.core.spe := rfl
@[simp] theorem modExc_core_tasks (f : Exc → Exc) : (s.modExc f).core.tasks = s.core.tasks := rfl
@[simp] theorem modExc_core_dq (f : Exc → Exc) : (s.modExc f).core.dq = s.core.dq := rfl
@[simp] theorem modExc_core_launch (f : Exc → Exc) : (s.modExc f).core.launch = s.core.launch := rfl
@[simp] theorem modExc_core_trapFrozen (f : Exc → Exc) : (s.modExc f).core.trapFrozen = s.core.trapFrozen := rfl
@[simp] theorem modExc_core_stopped (f : Exc → Exc) : (s.modExc f).core.stopped = s.core.stopped := rfl
@[simp] theorem modExc_core_resumeAt (f : Exc → Exc) : (s.modExc f).core.resumeAt = s.core.resumeAt := rfl
@[simp] theorem modExc_core_prov (f : Exc → Exc) : (s.modExc f).core.prov = s.core.prov := rfl
@[simp] theorem modExc_core_crew (f : Exc → Exc) : (s.modExc f).core.crew = s.core.crew := rfl
@[simp] theorem modExc_core_name (f : Exc → Exc) : (s.modExc f).core.name = s.core.name := rfl
@[simp] theorem modExc_others (f : Exc → Exc) : (s.modExc f).others = s.others := rfl
@[simp] theorem modExc_mem (f : Exc → Exc) : (s.modExc f).mem = s.mem := rfl
@[simp] theorem modExc_lines (f : Exc → Exc) : (s.modExc f).lines = s.lines := rfl
@[simp] theorem modExc_tags (f : Exc → Exc) : (s.modExc f).tags = s.tags := rfl
@[simp] theorem modExc_bad (f : Exc → Exc) : (s.modExc f).bad = s.bad := rfl
@[simp] theorem modExc_flips (f : Exc → Exc) : (s.modExc f).flips = s.flips := rfl
@[simp] theorem modExc_repairs (f : Exc → Exc) : (s.modExc f).repairs = s.repairs := rfl
@[simp] theorem modExc_held (f : Exc → Exc) : (s.modExc f).held = s.held := rfl
@[simp] theorem modExc_tiles (f : Exc → Exc) : (s.modExc f).tiles = s.tiles := rfl
@[simp] theorem modExc_tileFmts (f : Exc → Exc) : (s.modExc f).tileFmts = s.tileFmts := rfl
@[simp] theorem modExc_scopeGang (f : Exc → Exc) : (s.modExc f).scopeGang = s.scopeGang := rfl
@[simp] theorem modExc_scopeEns (f : Exc → Exc) : (s.modExc f).scopeEns = s.scopeEns := rfl
@[simp] theorem modExc_scopePkg (f : Exc → Exc) : (s.modExc f).scopePkg = s.scopePkg := rfl
@[simp] theorem modExc_blocks (f : Exc → Exc) : (s.modExc f).blocks = s.blocks := rfl
@[simp] theorem modExc_depthtab (f : Exc → Exc) : (s.modExc f).depthtab = s.depthtab := rfl
@[simp] theorem modExc_seqs (f : Exc → Exc) : (s.modExc f).seqs = s.seqs := rfl
@[simp] theorem modExc_ready (f : Exc → Exc) : (s.modExc f).ready = s.ready := rfl
@[simp] theorem modExc_posts (f : Exc → Exc) : (s.modExc f).posts = s.posts := rfl
@[simp] theorem modExc_waiters (f : Exc → Exc) : (s.modExc f).waiters = s.waiters := rfl
@[simp] theorem modExc_rllim (f : Exc → Exc) : (s.modExc f).rllim = s.rllim := rfl
@[simp] theorem modExc_scrQ (f : Exc → Exc) : (s.modExc f).scrQ = s.scrQ := rfl
@[simp] theorem modExc_tileTab (f : Exc → Exc) : (s.modExc f).tileTab = s.tileTab := rfl
@[simp] theorem modExc_ways (f : Exc → Exc) : (s.modExc f).ways = s.ways := rfl
@[simp] theorem modExc_peers (f : Exc → Exc) : (s.modExc f).peers = s.peers := rfl
@[simp] theorem modExc_portsUp (f : Exc → Exc) : (s.modExc f).portsUp = s.portsUp := rfl
@[simp] theorem modExc_netOut (f : Exc → Exc) : (s.modExc f).netOut = s.netOut := rfl
@[simp] theorem modExc_partmap (f : Exc → Exc) : (s.modExc f).partmap = s.partmap := rfl
@[simp] theorem modExc_keyctl (f : Exc → Exc) : (s.modExc f).keyctl = s.keyctl := rfl
@[simp] theorem modExc_fwslot (f : Exc → Exc) : (s.modExc f).fwslot = s.fwslot := rfl
@[simp] theorem modExc_ctlb (f : Exc → Exc) : (s.modExc f).ctlb = s.ctlb := rfl
@[simp] theorem modExc_queues (f : Exc → Exc) : (s.modExc f).queues = s.queues := rfl
@[simp] theorem modExc_launches (f : Exc → Exc) : (s.modExc f).launches = s.launches := rfl
@[simp] theorem modExc_images (f : Exc → Exc) : (s.modExc f).images = s.images := rfl
@[simp] theorem modExc_launchGen (f : Exc → Exc) : (s.modExc f).launchGen = s.launchGen := rfl
@[simp] theorem modExc_sites (f : Exc → Exc) : (s.modExc f).sites = s.sites := rfl
@[simp] theorem modExc_preempts (f : Exc → Exc) : (s.modExc f).preempts = s.preempts := rfl
@[simp] theorem modExc_saved (f : Exc → Exc) : (s.modExc f).saved = s.saved := rfl
@[simp] theorem modExc_logV (f : Exc → Exc) : (s.modExc f).logV = s.logV := rfl
@[simp] theorem modExc_logD (f : Exc → Exc) : (s.modExc f).logD = s.logD := rfl
@[simp] theorem modExc_srcSeq (f : Exc → Exc) : (s.modExc f).srcSeq = s.srcSeq := rfl
@[simp] theorem modExc_srcLost (f : Exc → Exc) : (s.modExc f).srcLost = s.srcLost := rfl
@[simp] theorem modExc_notices (f : Exc → Exc) : (s.modExc f).notices = s.notices := rfl
@[simp] theorem modExc_boot (f : Exc → Exc) : (s.modExc f).boot = s.boot := rfl
@[simp] theorem modExc_l2v (f : Exc → Exc) : (s.modExc f).l2v = s.l2v := rfl
@[simp] theorem modExc_l2d (f : Exc → Exc) : (s.modExc f).l2d = s.l2d := rfl
@[simp] theorem modExc_owned (f : Exc → Exc) : (s.modExc f).owned = s.owned := rfl
@[simp] theorem modExc_busy (f : Exc → Exc) : (s.modExc f).busy = s.busy := rfl
@[simp] theorem modExc_arrived (f : Exc → Exc) : (s.modExc f).arrived = s.arrived := rfl
@[simp] theorem modExc_grade (f : Exc → Exc) : (s.modExc f).grade = s.grade := rfl
@[simp] theorem modExc_inbox (f : Exc → Exc) : (s.modExc f).inbox = s.inbox := rfl
@[simp] theorem modExc_agenda (f : Exc → Exc) : (s.modExc f).agenda = s.agenda := rfl
@[simp] theorem modExc_fresh (f : Exc → Exc) : (s.modExc f).fresh = s.fresh := rfl

/-! ### `modFlow` -/

@[simp] theorem modFlow_core_flow (f : Flow → Flow) : (s.modFlow f).core.flow = f s.core.flow := rfl
@[simp] theorem modFlow_core_id (f : Flow → Flow) : (s.modFlow f).core.id = s.core.id := rfl
@[simp] theorem modFlow_core_urg (f : Flow → Flow) : (s.modFlow f).core.urg = s.core.urg := rfl
@[simp] theorem modFlow_core_fw (f : Flow → Flow) : (s.modFlow f).core.fw = s.core.fw := rfl
@[simp] theorem modFlow_core_clock (f : Flow → Flow) : (s.modFlow f).core.clock = s.core.clock := rfl
@[simp] theorem modFlow_core_unf (f : Flow → Flow) : (s.modFlow f).core.unf = s.core.unf := rfl
@[simp] theorem modFlow_core_lost (f : Flow → Flow) : (s.modFlow f).core.lost = s.core.lost := rfl
@[simp] theorem modFlow_core_owed (f : Flow → Flow) : (s.modFlow f).core.owed = s.core.owed := rfl
@[simp] theorem modFlow_core_imem (f : Flow → Flow) : (s.modFlow f).core.imem = s.core.imem := rfl
@[simp] theorem modFlow_core_regs (f : Flow → Flow) : (s.modFlow f).core.regs = s.core.regs := rfl
@[simp] theorem modFlow_core_ctl (f : Flow → Flow) : (s.modFlow f).core.ctl = s.core.ctl := rfl
@[simp] theorem modFlow_core_exc (f : Flow → Flow) : (s.modFlow f).core.exc = s.core.exc := rfl
@[simp] theorem modFlow_core_port (f : Flow → Flow) : (s.modFlow f).core.port = s.core.port := rfl
@[simp] theorem modFlow_core_mtx (f : Flow → Flow) : (s.modFlow f).core.mtx = s.core.mtx := rfl
@[simp] theorem modFlow_core_spe (f : Flow → Flow) : (s.modFlow f).core.spe = s.core.spe := rfl
@[simp] theorem modFlow_core_tasks (f : Flow → Flow) : (s.modFlow f).core.tasks = s.core.tasks := rfl
@[simp] theorem modFlow_core_dq (f : Flow → Flow) : (s.modFlow f).core.dq = s.core.dq := rfl
@[simp] theorem modFlow_core_launch (f : Flow → Flow) : (s.modFlow f).core.launch = s.core.launch := rfl
@[simp] theorem modFlow_core_trapFrozen (f : Flow → Flow) : (s.modFlow f).core.trapFrozen = s.core.trapFrozen := rfl
@[simp] theorem modFlow_core_stopped (f : Flow → Flow) : (s.modFlow f).core.stopped = s.core.stopped := rfl
@[simp] theorem modFlow_core_resumeAt (f : Flow → Flow) : (s.modFlow f).core.resumeAt = s.core.resumeAt := rfl
@[simp] theorem modFlow_core_prov (f : Flow → Flow) : (s.modFlow f).core.prov = s.core.prov := rfl
@[simp] theorem modFlow_core_crew (f : Flow → Flow) : (s.modFlow f).core.crew = s.core.crew := rfl
@[simp] theorem modFlow_core_name (f : Flow → Flow) : (s.modFlow f).core.name = s.core.name := rfl
@[simp] theorem modFlow_others (f : Flow → Flow) : (s.modFlow f).others = s.others := rfl
@[simp] theorem modFlow_mem (f : Flow → Flow) : (s.modFlow f).mem = s.mem := rfl
@[simp] theorem modFlow_lines (f : Flow → Flow) : (s.modFlow f).lines = s.lines := rfl
@[simp] theorem modFlow_tags (f : Flow → Flow) : (s.modFlow f).tags = s.tags := rfl
@[simp] theorem modFlow_bad (f : Flow → Flow) : (s.modFlow f).bad = s.bad := rfl
@[simp] theorem modFlow_flips (f : Flow → Flow) : (s.modFlow f).flips = s.flips := rfl
@[simp] theorem modFlow_repairs (f : Flow → Flow) : (s.modFlow f).repairs = s.repairs := rfl
@[simp] theorem modFlow_held (f : Flow → Flow) : (s.modFlow f).held = s.held := rfl
@[simp] theorem modFlow_tiles (f : Flow → Flow) : (s.modFlow f).tiles = s.tiles := rfl
@[simp] theorem modFlow_tileFmts (f : Flow → Flow) : (s.modFlow f).tileFmts = s.tileFmts := rfl
@[simp] theorem modFlow_scopeGang (f : Flow → Flow) : (s.modFlow f).scopeGang = s.scopeGang := rfl
@[simp] theorem modFlow_scopeEns (f : Flow → Flow) : (s.modFlow f).scopeEns = s.scopeEns := rfl
@[simp] theorem modFlow_scopePkg (f : Flow → Flow) : (s.modFlow f).scopePkg = s.scopePkg := rfl
@[simp] theorem modFlow_blocks (f : Flow → Flow) : (s.modFlow f).blocks = s.blocks := rfl
@[simp] theorem modFlow_depthtab (f : Flow → Flow) : (s.modFlow f).depthtab = s.depthtab := rfl
@[simp] theorem modFlow_seqs (f : Flow → Flow) : (s.modFlow f).seqs = s.seqs := rfl
@[simp] theorem modFlow_ready (f : Flow → Flow) : (s.modFlow f).ready = s.ready := rfl
@[simp] theorem modFlow_posts (f : Flow → Flow) : (s.modFlow f).posts = s.posts := rfl
@[simp] theorem modFlow_waiters (f : Flow → Flow) : (s.modFlow f).waiters = s.waiters := rfl
@[simp] theorem modFlow_rllim (f : Flow → Flow) : (s.modFlow f).rllim = s.rllim := rfl
@[simp] theorem modFlow_scrQ (f : Flow → Flow) : (s.modFlow f).scrQ = s.scrQ := rfl
@[simp] theorem modFlow_tileTab (f : Flow → Flow) : (s.modFlow f).tileTab = s.tileTab := rfl
@[simp] theorem modFlow_ways (f : Flow → Flow) : (s.modFlow f).ways = s.ways := rfl
@[simp] theorem modFlow_peers (f : Flow → Flow) : (s.modFlow f).peers = s.peers := rfl
@[simp] theorem modFlow_portsUp (f : Flow → Flow) : (s.modFlow f).portsUp = s.portsUp := rfl
@[simp] theorem modFlow_netOut (f : Flow → Flow) : (s.modFlow f).netOut = s.netOut := rfl
@[simp] theorem modFlow_partmap (f : Flow → Flow) : (s.modFlow f).partmap = s.partmap := rfl
@[simp] theorem modFlow_keyctl (f : Flow → Flow) : (s.modFlow f).keyctl = s.keyctl := rfl
@[simp] theorem modFlow_fwslot (f : Flow → Flow) : (s.modFlow f).fwslot = s.fwslot := rfl
@[simp] theorem modFlow_ctlb (f : Flow → Flow) : (s.modFlow f).ctlb = s.ctlb := rfl
@[simp] theorem modFlow_queues (f : Flow → Flow) : (s.modFlow f).queues = s.queues := rfl
@[simp] theorem modFlow_launches (f : Flow → Flow) : (s.modFlow f).launches = s.launches := rfl
@[simp] theorem modFlow_images (f : Flow → Flow) : (s.modFlow f).images = s.images := rfl
@[simp] theorem modFlow_launchGen (f : Flow → Flow) : (s.modFlow f).launchGen = s.launchGen := rfl
@[simp] theorem modFlow_sites (f : Flow → Flow) : (s.modFlow f).sites = s.sites := rfl
@[simp] theorem modFlow_preempts (f : Flow → Flow) : (s.modFlow f).preempts = s.preempts := rfl
@[simp] theorem modFlow_saved (f : Flow → Flow) : (s.modFlow f).saved = s.saved := rfl
@[simp] theorem modFlow_logV (f : Flow → Flow) : (s.modFlow f).logV = s.logV := rfl
@[simp] theorem modFlow_logD (f : Flow → Flow) : (s.modFlow f).logD = s.logD := rfl
@[simp] theorem modFlow_srcSeq (f : Flow → Flow) : (s.modFlow f).srcSeq = s.srcSeq := rfl
@[simp] theorem modFlow_srcLost (f : Flow → Flow) : (s.modFlow f).srcLost = s.srcLost := rfl
@[simp] theorem modFlow_notices (f : Flow → Flow) : (s.modFlow f).notices = s.notices := rfl
@[simp] theorem modFlow_boot (f : Flow → Flow) : (s.modFlow f).boot = s.boot := rfl
@[simp] theorem modFlow_l2v (f : Flow → Flow) : (s.modFlow f).l2v = s.l2v := rfl
@[simp] theorem modFlow_l2d (f : Flow → Flow) : (s.modFlow f).l2d = s.l2d := rfl
@[simp] theorem modFlow_owned (f : Flow → Flow) : (s.modFlow f).owned = s.owned := rfl
@[simp] theorem modFlow_busy (f : Flow → Flow) : (s.modFlow f).busy = s.busy := rfl
@[simp] theorem modFlow_arrived (f : Flow → Flow) : (s.modFlow f).arrived = s.arrived := rfl
@[simp] theorem modFlow_grade (f : Flow → Flow) : (s.modFlow f).grade = s.grade := rfl
@[simp] theorem modFlow_inbox (f : Flow → Flow) : (s.modFlow f).inbox = s.inbox := rfl
@[simp] theorem modFlow_agenda (f : Flow → Flow) : (s.modFlow f).agenda = s.agenda := rfl
@[simp] theorem modFlow_fresh (f : Flow → Flow) : (s.modFlow f).fresh = s.fresh := rfl

/-! ### `modPort` -/

@[simp] theorem modPort_core_port (f : Port → Port) : (s.modPort f).core.port = f s.core.port := rfl
@[simp] theorem modPort_core_id (f : Port → Port) : (s.modPort f).core.id = s.core.id := rfl
@[simp] theorem modPort_core_urg (f : Port → Port) : (s.modPort f).core.urg = s.core.urg := rfl
@[simp] theorem modPort_core_fw (f : Port → Port) : (s.modPort f).core.fw = s.core.fw := rfl
@[simp] theorem modPort_core_clock (f : Port → Port) : (s.modPort f).core.clock = s.core.clock := rfl
@[simp] theorem modPort_core_unf (f : Port → Port) : (s.modPort f).core.unf = s.core.unf := rfl
@[simp] theorem modPort_core_lost (f : Port → Port) : (s.modPort f).core.lost = s.core.lost := rfl
@[simp] theorem modPort_core_owed (f : Port → Port) : (s.modPort f).core.owed = s.core.owed := rfl
@[simp] theorem modPort_core_imem (f : Port → Port) : (s.modPort f).core.imem = s.core.imem := rfl
@[simp] theorem modPort_core_regs (f : Port → Port) : (s.modPort f).core.regs = s.core.regs := rfl
@[simp] theorem modPort_core_ctl (f : Port → Port) : (s.modPort f).core.ctl = s.core.ctl := rfl
@[simp] theorem modPort_core_exc (f : Port → Port) : (s.modPort f).core.exc = s.core.exc := rfl
@[simp] theorem modPort_core_flow (f : Port → Port) : (s.modPort f).core.flow = s.core.flow := rfl
@[simp] theorem modPort_core_mtx (f : Port → Port) : (s.modPort f).core.mtx = s.core.mtx := rfl
@[simp] theorem modPort_core_spe (f : Port → Port) : (s.modPort f).core.spe = s.core.spe := rfl
@[simp] theorem modPort_core_tasks (f : Port → Port) : (s.modPort f).core.tasks = s.core.tasks := rfl
@[simp] theorem modPort_core_dq (f : Port → Port) : (s.modPort f).core.dq = s.core.dq := rfl
@[simp] theorem modPort_core_launch (f : Port → Port) : (s.modPort f).core.launch = s.core.launch := rfl
@[simp] theorem modPort_core_trapFrozen (f : Port → Port) : (s.modPort f).core.trapFrozen = s.core.trapFrozen := rfl
@[simp] theorem modPort_core_stopped (f : Port → Port) : (s.modPort f).core.stopped = s.core.stopped := rfl
@[simp] theorem modPort_core_resumeAt (f : Port → Port) : (s.modPort f).core.resumeAt = s.core.resumeAt := rfl
@[simp] theorem modPort_core_prov (f : Port → Port) : (s.modPort f).core.prov = s.core.prov := rfl
@[simp] theorem modPort_core_crew (f : Port → Port) : (s.modPort f).core.crew = s.core.crew := rfl
@[simp] theorem modPort_core_name (f : Port → Port) : (s.modPort f).core.name = s.core.name := rfl
@[simp] theorem modPort_others (f : Port → Port) : (s.modPort f).others = s.others := rfl
@[simp] theorem modPort_mem (f : Port → Port) : (s.modPort f).mem = s.mem := rfl
@[simp] theorem modPort_lines (f : Port → Port) : (s.modPort f).lines = s.lines := rfl
@[simp] theorem modPort_tags (f : Port → Port) : (s.modPort f).tags = s.tags := rfl
@[simp] theorem modPort_bad (f : Port → Port) : (s.modPort f).bad = s.bad := rfl
@[simp] theorem modPort_flips (f : Port → Port) : (s.modPort f).flips = s.flips := rfl
@[simp] theorem modPort_repairs (f : Port → Port) : (s.modPort f).repairs = s.repairs := rfl
@[simp] theorem modPort_held (f : Port → Port) : (s.modPort f).held = s.held := rfl
@[simp] theorem modPort_tiles (f : Port → Port) : (s.modPort f).tiles = s.tiles := rfl
@[simp] theorem modPort_tileFmts (f : Port → Port) : (s.modPort f).tileFmts = s.tileFmts := rfl
@[simp] theorem modPort_scopeGang (f : Port → Port) : (s.modPort f).scopeGang = s.scopeGang := rfl
@[simp] theorem modPort_scopeEns (f : Port → Port) : (s.modPort f).scopeEns = s.scopeEns := rfl
@[simp] theorem modPort_scopePkg (f : Port → Port) : (s.modPort f).scopePkg = s.scopePkg := rfl
@[simp] theorem modPort_blocks (f : Port → Port) : (s.modPort f).blocks = s.blocks := rfl
@[simp] theorem modPort_depthtab (f : Port → Port) : (s.modPort f).depthtab = s.depthtab := rfl
@[simp] theorem modPort_seqs (f : Port → Port) : (s.modPort f).seqs = s.seqs := rfl
@[simp] theorem modPort_ready (f : Port → Port) : (s.modPort f).ready = s.ready := rfl
@[simp] theorem modPort_posts (f : Port → Port) : (s.modPort f).posts = s.posts := rfl
@[simp] theorem modPort_waiters (f : Port → Port) : (s.modPort f).waiters = s.waiters := rfl
@[simp] theorem modPort_rllim (f : Port → Port) : (s.modPort f).rllim = s.rllim := rfl
@[simp] theorem modPort_scrQ (f : Port → Port) : (s.modPort f).scrQ = s.scrQ := rfl
@[simp] theorem modPort_tileTab (f : Port → Port) : (s.modPort f).tileTab = s.tileTab := rfl
@[simp] theorem modPort_ways (f : Port → Port) : (s.modPort f).ways = s.ways := rfl
@[simp] theorem modPort_peers (f : Port → Port) : (s.modPort f).peers = s.peers := rfl
@[simp] theorem modPort_portsUp (f : Port → Port) : (s.modPort f).portsUp = s.portsUp := rfl
@[simp] theorem modPort_netOut (f : Port → Port) : (s.modPort f).netOut = s.netOut := rfl
@[simp] theorem modPort_partmap (f : Port → Port) : (s.modPort f).partmap = s.partmap := rfl
@[simp] theorem modPort_keyctl (f : Port → Port) : (s.modPort f).keyctl = s.keyctl := rfl
@[simp] theorem modPort_fwslot (f : Port → Port) : (s.modPort f).fwslot = s.fwslot := rfl
@[simp] theorem modPort_ctlb (f : Port → Port) : (s.modPort f).ctlb = s.ctlb := rfl
@[simp] theorem modPort_queues (f : Port → Port) : (s.modPort f).queues = s.queues := rfl
@[simp] theorem modPort_launches (f : Port → Port) : (s.modPort f).launches = s.launches := rfl
@[simp] theorem modPort_images (f : Port → Port) : (s.modPort f).images = s.images := rfl
@[simp] theorem modPort_launchGen (f : Port → Port) : (s.modPort f).launchGen = s.launchGen := rfl
@[simp] theorem modPort_sites (f : Port → Port) : (s.modPort f).sites = s.sites := rfl
@[simp] theorem modPort_preempts (f : Port → Port) : (s.modPort f).preempts = s.preempts := rfl
@[simp] theorem modPort_saved (f : Port → Port) : (s.modPort f).saved = s.saved := rfl
@[simp] theorem modPort_logV (f : Port → Port) : (s.modPort f).logV = s.logV := rfl
@[simp] theorem modPort_logD (f : Port → Port) : (s.modPort f).logD = s.logD := rfl
@[simp] theorem modPort_srcSeq (f : Port → Port) : (s.modPort f).srcSeq = s.srcSeq := rfl
@[simp] theorem modPort_srcLost (f : Port → Port) : (s.modPort f).srcLost = s.srcLost := rfl
@[simp] theorem modPort_notices (f : Port → Port) : (s.modPort f).notices = s.notices := rfl
@[simp] theorem modPort_boot (f : Port → Port) : (s.modPort f).boot = s.boot := rfl
@[simp] theorem modPort_l2v (f : Port → Port) : (s.modPort f).l2v = s.l2v := rfl
@[simp] theorem modPort_l2d (f : Port → Port) : (s.modPort f).l2d = s.l2d := rfl
@[simp] theorem modPort_owned (f : Port → Port) : (s.modPort f).owned = s.owned := rfl
@[simp] theorem modPort_busy (f : Port → Port) : (s.modPort f).busy = s.busy := rfl
@[simp] theorem modPort_arrived (f : Port → Port) : (s.modPort f).arrived = s.arrived := rfl
@[simp] theorem modPort_grade (f : Port → Port) : (s.modPort f).grade = s.grade := rfl
@[simp] theorem modPort_inbox (f : Port → Port) : (s.modPort f).inbox = s.inbox := rfl
@[simp] theorem modPort_agenda (f : Port → Port) : (s.modPort f).agenda = s.agenda := rfl
@[simp] theorem modPort_fresh (f : Port → Port) : (s.modPort f).fresh = s.fresh := rfl

/-! ### `modMtx` -/

@[simp] theorem modMtx_core_mtx (f : Mtx → Mtx) : (s.modMtx f).core.mtx = f s.core.mtx := rfl
@[simp] theorem modMtx_core_id (f : Mtx → Mtx) : (s.modMtx f).core.id = s.core.id := rfl
@[simp] theorem modMtx_core_urg (f : Mtx → Mtx) : (s.modMtx f).core.urg = s.core.urg := rfl
@[simp] theorem modMtx_core_fw (f : Mtx → Mtx) : (s.modMtx f).core.fw = s.core.fw := rfl
@[simp] theorem modMtx_core_clock (f : Mtx → Mtx) : (s.modMtx f).core.clock = s.core.clock := rfl
@[simp] theorem modMtx_core_unf (f : Mtx → Mtx) : (s.modMtx f).core.unf = s.core.unf := rfl
@[simp] theorem modMtx_core_lost (f : Mtx → Mtx) : (s.modMtx f).core.lost = s.core.lost := rfl
@[simp] theorem modMtx_core_owed (f : Mtx → Mtx) : (s.modMtx f).core.owed = s.core.owed := rfl
@[simp] theorem modMtx_core_imem (f : Mtx → Mtx) : (s.modMtx f).core.imem = s.core.imem := rfl
@[simp] theorem modMtx_core_regs (f : Mtx → Mtx) : (s.modMtx f).core.regs = s.core.regs := rfl
@[simp] theorem modMtx_core_ctl (f : Mtx → Mtx) : (s.modMtx f).core.ctl = s.core.ctl := rfl
@[simp] theorem modMtx_core_exc (f : Mtx → Mtx) : (s.modMtx f).core.exc = s.core.exc := rfl
@[simp] theorem modMtx_core_flow (f : Mtx → Mtx) : (s.modMtx f).core.flow = s.core.flow := rfl
@[simp] theorem modMtx_core_port (f : Mtx → Mtx) : (s.modMtx f).core.port = s.core.port := rfl
@[simp] theorem modMtx_core_spe (f : Mtx → Mtx) : (s.modMtx f).core.spe = s.core.spe := rfl
@[simp] theorem modMtx_core_tasks (f : Mtx → Mtx) : (s.modMtx f).core.tasks = s.core.tasks := rfl
@[simp] theorem modMtx_core_dq (f : Mtx → Mtx) : (s.modMtx f).core.dq = s.core.dq := rfl
@[simp] theorem modMtx_core_launch (f : Mtx → Mtx) : (s.modMtx f).core.launch = s.core.launch := rfl
@[simp] theorem modMtx_core_trapFrozen (f : Mtx → Mtx) : (s.modMtx f).core.trapFrozen = s.core.trapFrozen := rfl
@[simp] theorem modMtx_core_stopped (f : Mtx → Mtx) : (s.modMtx f).core.stopped = s.core.stopped := rfl
@[simp] theorem modMtx_core_resumeAt (f : Mtx → Mtx) : (s.modMtx f).core.resumeAt = s.core.resumeAt := rfl
@[simp] theorem modMtx_core_prov (f : Mtx → Mtx) : (s.modMtx f).core.prov = s.core.prov := rfl
@[simp] theorem modMtx_core_crew (f : Mtx → Mtx) : (s.modMtx f).core.crew = s.core.crew := rfl
@[simp] theorem modMtx_core_name (f : Mtx → Mtx) : (s.modMtx f).core.name = s.core.name := rfl
@[simp] theorem modMtx_others (f : Mtx → Mtx) : (s.modMtx f).others = s.others := rfl
@[simp] theorem modMtx_mem (f : Mtx → Mtx) : (s.modMtx f).mem = s.mem := rfl
@[simp] theorem modMtx_lines (f : Mtx → Mtx) : (s.modMtx f).lines = s.lines := rfl
@[simp] theorem modMtx_tags (f : Mtx → Mtx) : (s.modMtx f).tags = s.tags := rfl
@[simp] theorem modMtx_bad (f : Mtx → Mtx) : (s.modMtx f).bad = s.bad := rfl
@[simp] theorem modMtx_flips (f : Mtx → Mtx) : (s.modMtx f).flips = s.flips := rfl
@[simp] theorem modMtx_repairs (f : Mtx → Mtx) : (s.modMtx f).repairs = s.repairs := rfl
@[simp] theorem modMtx_held (f : Mtx → Mtx) : (s.modMtx f).held = s.held := rfl
@[simp] theorem modMtx_tiles (f : Mtx → Mtx) : (s.modMtx f).tiles = s.tiles := rfl
@[simp] theorem modMtx_tileFmts (f : Mtx → Mtx) : (s.modMtx f).tileFmts = s.tileFmts := rfl
@[simp] theorem modMtx_scopeGang (f : Mtx → Mtx) : (s.modMtx f).scopeGang = s.scopeGang := rfl
@[simp] theorem modMtx_scopeEns (f : Mtx → Mtx) : (s.modMtx f).scopeEns = s.scopeEns := rfl
@[simp] theorem modMtx_scopePkg (f : Mtx → Mtx) : (s.modMtx f).scopePkg = s.scopePkg := rfl
@[simp] theorem modMtx_blocks (f : Mtx → Mtx) : (s.modMtx f).blocks = s.blocks := rfl
@[simp] theorem modMtx_depthtab (f : Mtx → Mtx) : (s.modMtx f).depthtab = s.depthtab := rfl
@[simp] theorem modMtx_seqs (f : Mtx → Mtx) : (s.modMtx f).seqs = s.seqs := rfl
@[simp] theorem modMtx_ready (f : Mtx → Mtx) : (s.modMtx f).ready = s.ready := rfl
@[simp] theorem modMtx_posts (f : Mtx → Mtx) : (s.modMtx f).posts = s.posts := rfl
@[simp] theorem modMtx_waiters (f : Mtx → Mtx) : (s.modMtx f).waiters = s.waiters := rfl
@[simp] theorem modMtx_rllim (f : Mtx → Mtx) : (s.modMtx f).rllim = s.rllim := rfl
@[simp] theorem modMtx_scrQ (f : Mtx → Mtx) : (s.modMtx f).scrQ = s.scrQ := rfl
@[simp] theorem modMtx_tileTab (f : Mtx → Mtx) : (s.modMtx f).tileTab = s.tileTab := rfl
@[simp] theorem modMtx_ways (f : Mtx → Mtx) : (s.modMtx f).ways = s.ways := rfl
@[simp] theorem modMtx_peers (f : Mtx → Mtx) : (s.modMtx f).peers = s.peers := rfl
@[simp] theorem modMtx_portsUp (f : Mtx → Mtx) : (s.modMtx f).portsUp = s.portsUp := rfl
@[simp] theorem modMtx_netOut (f : Mtx → Mtx) : (s.modMtx f).netOut = s.netOut := rfl
@[simp] theorem modMtx_partmap (f : Mtx → Mtx) : (s.modMtx f).partmap = s.partmap := rfl
@[simp] theorem modMtx_keyctl (f : Mtx → Mtx) : (s.modMtx f).keyctl = s.keyctl := rfl
@[simp] theorem modMtx_fwslot (f : Mtx → Mtx) : (s.modMtx f).fwslot = s.fwslot := rfl
@[simp] theorem modMtx_ctlb (f : Mtx → Mtx) : (s.modMtx f).ctlb = s.ctlb := rfl
@[simp] theorem modMtx_queues (f : Mtx → Mtx) : (s.modMtx f).queues = s.queues := rfl
@[simp] theorem modMtx_launches (f : Mtx → Mtx) : (s.modMtx f).launches = s.launches := rfl
@[simp] theorem modMtx_images (f : Mtx → Mtx) : (s.modMtx f).images = s.images := rfl
@[simp] theorem modMtx_launchGen (f : Mtx → Mtx) : (s.modMtx f).launchGen = s.launchGen := rfl
@[simp] theorem modMtx_sites (f : Mtx → Mtx) : (s.modMtx f).sites = s.sites := rfl
@[simp] theorem modMtx_preempts (f : Mtx → Mtx) : (s.modMtx f).preempts = s.preempts := rfl
@[simp] theorem modMtx_saved (f : Mtx → Mtx) : (s.modMtx f).saved = s.saved := rfl
@[simp] theorem modMtx_logV (f : Mtx → Mtx) : (s.modMtx f).logV = s.logV := rfl
@[simp] theorem modMtx_logD (f : Mtx → Mtx) : (s.modMtx f).logD = s.logD := rfl
@[simp] theorem modMtx_srcSeq (f : Mtx → Mtx) : (s.modMtx f).srcSeq = s.srcSeq := rfl
@[simp] theorem modMtx_srcLost (f : Mtx → Mtx) : (s.modMtx f).srcLost = s.srcLost := rfl
@[simp] theorem modMtx_notices (f : Mtx → Mtx) : (s.modMtx f).notices = s.notices := rfl
@[simp] theorem modMtx_boot (f : Mtx → Mtx) : (s.modMtx f).boot = s.boot := rfl
@[simp] theorem modMtx_l2v (f : Mtx → Mtx) : (s.modMtx f).l2v = s.l2v := rfl
@[simp] theorem modMtx_l2d (f : Mtx → Mtx) : (s.modMtx f).l2d = s.l2d := rfl
@[simp] theorem modMtx_owned (f : Mtx → Mtx) : (s.modMtx f).owned = s.owned := rfl
@[simp] theorem modMtx_busy (f : Mtx → Mtx) : (s.modMtx f).busy = s.busy := rfl
@[simp] theorem modMtx_arrived (f : Mtx → Mtx) : (s.modMtx f).arrived = s.arrived := rfl
@[simp] theorem modMtx_grade (f : Mtx → Mtx) : (s.modMtx f).grade = s.grade := rfl
@[simp] theorem modMtx_inbox (f : Mtx → Mtx) : (s.modMtx f).inbox = s.inbox := rfl
@[simp] theorem modMtx_agenda (f : Mtx → Mtx) : (s.modMtx f).agenda = s.agenda := rfl
@[simp] theorem modMtx_fresh (f : Mtx → Mtx) : (s.modMtx f).fresh = s.fresh := rfl

/-! ### `modTasks` -/

@[simp] theorem modTasks_core_tasks (f : Tasks → Tasks) : (s.modTasks f).core.tasks = f s.core.tasks := rfl
@[simp] theorem modTasks_core_id (f : Tasks → Tasks) : (s.modTasks f).core.id = s.core.id := rfl
@[simp] theorem modTasks_core_urg (f : Tasks → Tasks) : (s.modTasks f).core.urg = s.core.urg := rfl
@[simp] theorem modTasks_core_fw (f : Tasks → Tasks) : (s.modTasks f).core.fw = s.core.fw := rfl
@[simp] theorem modTasks_core_clock (f : Tasks → Tasks) : (s.modTasks f).core.clock = s.core.clock := rfl
@[simp] theorem modTasks_core_unf (f : Tasks → Tasks) : (s.modTasks f).core.unf = s.core.unf := rfl
@[simp] theorem modTasks_core_lost (f : Tasks → Tasks) : (s.modTasks f).core.lost = s.core.lost := rfl
@[simp] theorem modTasks_core_owed (f : Tasks → Tasks) : (s.modTasks f).core.owed = s.core.owed := rfl
@[simp] theorem modTasks_core_imem (f : Tasks → Tasks) : (s.modTasks f).core.imem = s.core.imem := rfl
@[simp] theorem modTasks_core_regs (f : Tasks → Tasks) : (s.modTasks f).core.regs = s.core.regs := rfl
@[simp] theorem modTasks_core_ctl (f : Tasks → Tasks) : (s.modTasks f).core.ctl = s.core.ctl := rfl
@[simp] theorem modTasks_core_exc (f : Tasks → Tasks) : (s.modTasks f).core.exc = s.core.exc := rfl
@[simp] theorem modTasks_core_flow (f : Tasks → Tasks) : (s.modTasks f).core.flow = s.core.flow := rfl
@[simp] theorem modTasks_core_port (f : Tasks → Tasks) : (s.modTasks f).core.port = s.core.port := rfl
@[simp] theorem modTasks_core_mtx (f : Tasks → Tasks) : (s.modTasks f).core.mtx = s.core.mtx := rfl
@[simp] theorem modTasks_core_spe (f : Tasks → Tasks) : (s.modTasks f).core.spe = s.core.spe := rfl
@[simp] theorem modTasks_core_dq (f : Tasks → Tasks) : (s.modTasks f).core.dq = s.core.dq := rfl
@[simp] theorem modTasks_core_launch (f : Tasks → Tasks) : (s.modTasks f).core.launch = s.core.launch := rfl
@[simp] theorem modTasks_core_trapFrozen (f : Tasks → Tasks) : (s.modTasks f).core.trapFrozen = s.core.trapFrozen := rfl
@[simp] theorem modTasks_core_stopped (f : Tasks → Tasks) : (s.modTasks f).core.stopped = s.core.stopped := rfl
@[simp] theorem modTasks_core_resumeAt (f : Tasks → Tasks) : (s.modTasks f).core.resumeAt = s.core.resumeAt := rfl
@[simp] theorem modTasks_core_prov (f : Tasks → Tasks) : (s.modTasks f).core.prov = s.core.prov := rfl
@[simp] theorem modTasks_core_crew (f : Tasks → Tasks) : (s.modTasks f).core.crew = s.core.crew := rfl
@[simp] theorem modTasks_core_name (f : Tasks → Tasks) : (s.modTasks f).core.name = s.core.name := rfl
@[simp] theorem modTasks_others (f : Tasks → Tasks) : (s.modTasks f).others = s.others := rfl
@[simp] theorem modTasks_mem (f : Tasks → Tasks) : (s.modTasks f).mem = s.mem := rfl
@[simp] theorem modTasks_lines (f : Tasks → Tasks) : (s.modTasks f).lines = s.lines := rfl
@[simp] theorem modTasks_tags (f : Tasks → Tasks) : (s.modTasks f).tags = s.tags := rfl
@[simp] theorem modTasks_bad (f : Tasks → Tasks) : (s.modTasks f).bad = s.bad := rfl
@[simp] theorem modTasks_flips (f : Tasks → Tasks) : (s.modTasks f).flips = s.flips := rfl
@[simp] theorem modTasks_repairs (f : Tasks → Tasks) : (s.modTasks f).repairs = s.repairs := rfl
@[simp] theorem modTasks_held (f : Tasks → Tasks) : (s.modTasks f).held = s.held := rfl
@[simp] theorem modTasks_tiles (f : Tasks → Tasks) : (s.modTasks f).tiles = s.tiles := rfl
@[simp] theorem modTasks_tileFmts (f : Tasks → Tasks) : (s.modTasks f).tileFmts = s.tileFmts := rfl
@[simp] theorem modTasks_scopeGang (f : Tasks → Tasks) : (s.modTasks f).scopeGang = s.scopeGang := rfl
@[simp] theorem modTasks_scopeEns (f : Tasks → Tasks) : (s.modTasks f).scopeEns = s.scopeEns := rfl
@[simp] theorem modTasks_scopePkg (f : Tasks → Tasks) : (s.modTasks f).scopePkg = s.scopePkg := rfl
@[simp] theorem modTasks_blocks (f : Tasks → Tasks) : (s.modTasks f).blocks = s.blocks := rfl
@[simp] theorem modTasks_depthtab (f : Tasks → Tasks) : (s.modTasks f).depthtab = s.depthtab := rfl
@[simp] theorem modTasks_seqs (f : Tasks → Tasks) : (s.modTasks f).seqs = s.seqs := rfl
@[simp] theorem modTasks_ready (f : Tasks → Tasks) : (s.modTasks f).ready = s.ready := rfl
@[simp] theorem modTasks_posts (f : Tasks → Tasks) : (s.modTasks f).posts = s.posts := rfl
@[simp] theorem modTasks_waiters (f : Tasks → Tasks) : (s.modTasks f).waiters = s.waiters := rfl
@[simp] theorem modTasks_rllim (f : Tasks → Tasks) : (s.modTasks f).rllim = s.rllim := rfl
@[simp] theorem modTasks_scrQ (f : Tasks → Tasks) : (s.modTasks f).scrQ = s.scrQ := rfl
@[simp] theorem modTasks_tileTab (f : Tasks → Tasks) : (s.modTasks f).tileTab = s.tileTab := rfl
@[simp] theorem modTasks_ways (f : Tasks → Tasks) : (s.modTasks f).ways = s.ways := rfl
@[simp] theorem modTasks_peers (f : Tasks → Tasks) : (s.modTasks f).peers = s.peers := rfl
@[simp] theorem modTasks_portsUp (f : Tasks → Tasks) : (s.modTasks f).portsUp = s.portsUp := rfl
@[simp] theorem modTasks_netOut (f : Tasks → Tasks) : (s.modTasks f).netOut = s.netOut := rfl
@[simp] theorem modTasks_partmap (f : Tasks → Tasks) : (s.modTasks f).partmap = s.partmap := rfl
@[simp] theorem modTasks_keyctl (f : Tasks → Tasks) : (s.modTasks f).keyctl = s.keyctl := rfl
@[simp] theorem modTasks_fwslot (f : Tasks → Tasks) : (s.modTasks f).fwslot = s.fwslot := rfl
@[simp] theorem modTasks_ctlb (f : Tasks → Tasks) : (s.modTasks f).ctlb = s.ctlb := rfl
@[simp] theorem modTasks_queues (f : Tasks → Tasks) : (s.modTasks f).queues = s.queues := rfl
@[simp] theorem modTasks_launches (f : Tasks → Tasks) : (s.modTasks f).launches = s.launches := rfl
@[simp] theorem modTasks_images (f : Tasks → Tasks) : (s.modTasks f).images = s.images := rfl
@[simp] theorem modTasks_launchGen (f : Tasks → Tasks) : (s.modTasks f).launchGen = s.launchGen := rfl
@[simp] theorem modTasks_sites (f : Tasks → Tasks) : (s.modTasks f).sites = s.sites := rfl
@[simp] theorem modTasks_preempts (f : Tasks → Tasks) : (s.modTasks f).preempts = s.preempts := rfl
@[simp] theorem modTasks_saved (f : Tasks → Tasks) : (s.modTasks f).saved = s.saved := rfl
@[simp] theorem modTasks_logV (f : Tasks → Tasks) : (s.modTasks f).logV = s.logV := rfl
@[simp] theorem modTasks_logD (f : Tasks → Tasks) : (s.modTasks f).logD = s.logD := rfl
@[simp] theorem modTasks_srcSeq (f : Tasks → Tasks) : (s.modTasks f).srcSeq = s.srcSeq := rfl
@[simp] theorem modTasks_srcLost (f : Tasks → Tasks) : (s.modTasks f).srcLost = s.srcLost := rfl
@[simp] theorem modTasks_notices (f : Tasks → Tasks) : (s.modTasks f).notices = s.notices := rfl
@[simp] theorem modTasks_boot (f : Tasks → Tasks) : (s.modTasks f).boot = s.boot := rfl
@[simp] theorem modTasks_l2v (f : Tasks → Tasks) : (s.modTasks f).l2v = s.l2v := rfl
@[simp] theorem modTasks_l2d (f : Tasks → Tasks) : (s.modTasks f).l2d = s.l2d := rfl
@[simp] theorem modTasks_owned (f : Tasks → Tasks) : (s.modTasks f).owned = s.owned := rfl
@[simp] theorem modTasks_busy (f : Tasks → Tasks) : (s.modTasks f).busy = s.busy := rfl
@[simp] theorem modTasks_arrived (f : Tasks → Tasks) : (s.modTasks f).arrived = s.arrived := rfl
@[simp] theorem modTasks_grade (f : Tasks → Tasks) : (s.modTasks f).grade = s.grade := rfl
@[simp] theorem modTasks_inbox (f : Tasks → Tasks) : (s.modTasks f).inbox = s.inbox := rfl
@[simp] theorem modTasks_agenda (f : Tasks → Tasks) : (s.modTasks f).agenda = s.agenda := rfl
@[simp] theorem modTasks_fresh (f : Tasks → Tasks) : (s.modTasks f).fresh = s.fresh := rfl

end

end Sys2Proof.Machine
end

