-- ==== Sys2Proof/Laws/Ops.lean ====
section
/-! SUPPORT. Laws of the named operations of Ops.lean: registers and queues, the core in focus, results in flight, waits, traps, error
records, and what each result writes. -/

namespace Sys2Proof.Machine

/-! ### Registers and queues (R29, R31, R32) -/

@[simp] theorem gP_zero (s : State) : s.gP 0 = true := rfl
@[simp] theorem gK_zero (s : State) : s.gK 0 = 0xFFFFFFFF#32 := rfl
theorem gP_of_ne (s : State) {p : Small} (h : p ≠ 0) : s.gP p = s.core.regs.p.get p := by simp [State.gP, h]
theorem gK_of_ne (s : State) {k : Small} (h : k ≠ 0) : s.gK k = s.core.regs.k.get k := by simp [State.gK, h]

@[simp] theorem writeP_zero (r : Regs) (b : Bool) : r.writeP 0 b = r := rfl
@[simp] theorem writeK_zero (r : Regs) (m : BitVec 32) : r.writeK 0 m = r := rfl

/-- A queue never holds more than 16 entries. -/
theorem pushQ_length (r : Regs) (v : Word) : (r.pushQ v).q.length ≤ 16 := by simp [Regs.pushQ] <;> omega
theorem pushVq_length (r : Regs) (v : Vec) : (r.pushVq v).vq.length ≤ 16 := by simp [Regs.pushVq] <;> omega

/-- A scalar write enters the queue at age 0, whatever its destination. -/
theorem writeS_q (r : Regs) (d : Dst) (v : Word) : (r.writeS d v).q = (v :: r.q).take 16 := by cases d <;> rfl
theorem writeV_vq (r : Regs) (d : Dst) (v : Vec) : (r.writeV d v).vq = (v :: r.vq).take 16 := by cases d <;> rfl
@[simp] theorem writeS_queue_g (r : Regs) (v : Word) : (r.writeS .queue v).g = r.g := rfl
@[simp] theorem writeV_queue_v (r : Regs) (v : Vec) : (r.writeV .queue v).v = r.v := rfl

/-- A named register reads as what was written to it last; every other register stays. -/
theorem writeS_g (r : Regs) (n m : RegNo) (v : Word) : (r.writeS (.reg n) v).g.get m = if m = n then v else r.g.get m := by
  show (r.g.set n.val v)[m.val] = _
  rw [Vector.getElem_set]
  by_cases h : m = n
  · subst m; simp
  · rw [if_neg h, if_neg (by intro e; exact h (Fin.ext e.symm))]; rfl
theorem writeV_v (r : Regs) (n m : RegNo) (v : Vec) : (r.writeV (.reg n) v).v.get m = if m = n then v else r.v.get m := by
  show (r.v.set n.val v)[m.val] = _
  rw [Vector.getElem_set]
  by_cases h : m = n
  · subst m; simp
  · rw [if_neg h, if_neg (by intro e; exact h (Fin.ext e.symm))]; rfl

@[simp] theorem writeS_p (r : Regs) (d : Dst) (v : Word) : (r.writeS d v).p = r.p := by cases d <;> rfl
@[simp] theorem writeS_v (r : Regs) (d : Dst) (v : Word) : (r.writeS d v).v = r.v := by cases d <;> rfl
@[simp] theorem writeS_vq (r : Regs) (d : Dst) (v : Word) : (r.writeS d v).vq = r.vq := by cases d <;> rfl
@[simp] theorem writeS_k (r : Regs) (d : Dst) (v : Word) : (r.writeS d v).k = r.k := by cases d <;> rfl
@[simp] theorem writeV_g (r : Regs) (d : Dst) (v : Vec) : (r.writeV d v).g = r.g := by cases d <;> rfl
@[simp] theorem writeV_q (r : Regs) (d : Dst) (v : Vec) : (r.writeV d v).q = r.q := by cases d <;> rfl
@[simp] theorem writeV_p (r : Regs) (d : Dst) (v : Vec) : (r.writeV d v).p = r.p := by cases d <;> rfl
@[simp] theorem writeV_k (r : Regs) (d : Dst) (v : Vec) : (r.writeV d v).k = r.k := by cases d <;> rfl
@[simp] theorem writeP_g (r : Regs) (n : Small) (b : Bool) : (r.writeP n b).g = r.g := by unfold Regs.writeP; split <;> rfl
@[simp] theorem writeP_q (r : Regs) (n : Small) (b : Bool) : (r.writeP n b).q = r.q := by unfold Regs.writeP; split <;> rfl
@[simp] theorem writeP_v (r : Regs) (n : Small) (b : Bool) : (r.writeP n b).v = r.v := by unfold Regs.writeP; split <;> rfl
@[simp] theorem writeP_vq (r : Regs) (n : Small) (b : Bool) : (r.writeP n b).vq = r.vq := by unfold Regs.writeP; split <;> rfl
@[simp] theorem writeP_k (r : Regs) (n : Small) (b : Bool) : (r.writeP n b).k = r.k := by unfold Regs.writeP; split <;> rfl
@[simp] theorem writeK_g (r : Regs) (n : Small) (b : BitVec 32) : (r.writeK n b).g = r.g := by unfold Regs.writeK; split <;> rfl
@[simp] theorem writeK_q (r : Regs) (n : Small) (b : BitVec 32) : (r.writeK n b).q = r.q := by unfold Regs.writeK; split <;> rfl
@[simp] theorem writeK_p (r : Regs) (n : Small) (b : BitVec 32) : (r.writeK n b).p = r.p := by unfold Regs.writeK; split <;> rfl
@[simp] theorem writeK_v (r : Regs) (n : Small) (b : BitVec 32) : (r.writeK n b).v = r.v := by unfold Regs.writeK; split <;> rfl
@[simp] theorem writeK_vq (r : Regs) (n : Small) (b : BitVec 32) : (r.writeK n b).vq = r.vq := by unfold Regs.writeK; split <;> rfl

/-! ### Which core is in focus -/

@[simp] theorem focus_self (s : State) : s.focus s.core.name = s := by simp [State.focus]

/-- Bringing a core into focus changes the place of core records alone. -/
theorem focus_eq (s : State) (n : Nat) : s.focus n =
    match (if s.core.name = n then none else s.others.find? fun c => c.name == n) with
    | none => s
    | some c => { s with core := c, others := s.core :: s.others.filter fun x => x.name != n } := by
  unfold State.focus; split <;> rfl

/-- A name that is listed comes into focus. -/
theorem focus_name (s : State) {n : Nat} {c : Core} (h : s.coreAt n = some c) : (s.focus n).core = c := by
  unfold State.coreAt at h
  unfold State.focus
  split
  · next e => rw [if_pos e] at h; exact Option.some.inj h
  · next e => rw [if_neg e] at h; simp [h]

theorem on_self (s : State) (f : State → State) : s.on s.core.name f = (f s).focus s.core.name := by
  simp [State.on, State.coreAt]

@[simp] theorem modAt_self (s : State) (f : Core → Core) : s.modAt s.core.name f = s.modCore f := by simp [State.modAt, State.modCore]

section
variable (s : State) (n : Nat)

@[simp] theorem focus_mem : (s.focus n).mem = s.mem := by rw [focus_eq]; split <;> rfl
@[simp] theorem focus_lines : (s.focus n).lines = s.lines := by rw [focus_eq]; split <;> rfl
@[simp] theorem focus_tags : (s.focus n).tags = s.tags := by rw [focus_eq]; split <;> rfl
@[simp] theorem focus_bad : (s.focus n).bad = s.bad := by rw [focus_eq]; split <;> rfl
@[simp] theorem focus_flips : (s.focus n).flips = s.flips := by rw [focus_eq]; split <;> rfl
@[simp] theorem focus_repairs : (s.focus n).repairs = s.repairs := by rw [focus_eq]; split <;> rfl
@[simp] theorem focus_held : (s.focus n).held = s.held := by rw [focus_eq]; split <;> rfl
@[simp] theorem focus_tiles : (s.focus n).tiles = s.tiles := by rw [focus_eq]; split <;> rfl
@[simp] theorem focus_tileFmts : (s.focus n).tileFmts = s.tileFmts := by rw [focus_eq]; split <;> rfl
@[simp] theorem focus_scopeGang : (s.focus n).scopeGang = s.scopeGang := by rw [focus_eq]; split <;> rfl
@[simp] theorem focus_scopeEns : (s.focus n).scopeEns = s.scopeEns := by rw [focus_eq]; split <;> rfl
@[simp] theorem focus_scopePkg : (s.focus n).scopePkg = s.scopePkg := by rw [focus_eq]; split <;> rfl
@[simp] theorem focus_blocks : (s.focus n).blocks = s.blocks := by rw [focus_eq]; split <;> rfl
@[simp] theorem focus_depthtab : (s.focus n).depthtab = s.depthtab := by rw [focus_eq]; split <;> rfl
@[simp] theorem focus_seqs : (s.focus n).seqs = s.seqs := by rw [focus_eq]; split <;> rfl
@[simp] theorem focus_ready : (s.focus n).ready = s.ready := by rw [focus_eq]; split <;> rfl
@[simp] theorem focus_posts : (s.focus n).posts = s.posts := by rw [focus_eq]; split <;> rfl
@[simp] theorem focus_waiters : (s.focus n).waiters = s.waiters := by rw [focus_eq]; split <;> rfl
@[simp] theorem focus_rllim : (s.focus n).rllim = s.rllim := by rw [focus_eq]; split <;> rfl
@[simp] theorem focus_scrQ : (s.focus n).scrQ = s.scrQ := by rw [focus_eq]; split <;> rfl
@[simp] theorem focus_tileTab : (s.focus n).tileTab = s.tileTab := by rw [focus_eq]; split <;> rfl
@[simp] theorem focus_ways : (s.focus n).ways = s.ways := by rw [focus_eq]; split <;> rfl
@[simp] theorem focus_peers : (s.focus n).peers = s.peers := by rw [focus_eq]; split <;> rfl
@[simp] theorem focus_portsUp : (s.focus n).portsUp = s.portsUp := by rw [focus_eq]; split <;> rfl
@[simp] theorem focus_netOut : (s.focus n).netOut = s.netOut := by rw [focus_eq]; split <;> rfl
@[simp] theorem focus_partmap : (s.focus n).partmap = s.partmap := by rw [focus_eq]; split <;> rfl
@[simp] theorem focus_keyctl : (s.focus n).keyctl = s.keyctl := by rw [focus_eq]; split <;> rfl
@[simp] theorem focus_fwslot : (s.focus n).fwslot = s.fwslot := by rw [focus_eq]; split <;> rfl
@[simp] theorem focus_ctlb : (s.focus n).ctlb = s.ctlb := by rw [focus_eq]; split <;> rfl
@[simp] theorem focus_queues : (s.focus n).queues = s.queues := by rw [focus_eq]; split <;> rfl
@[simp] theorem focus_launches : (s.focus n).launches = s.launches := by rw [focus_eq]; split <;> rfl
@[simp] theorem focus_images : (s.focus n).images = s.images := by rw [focus_eq]; split <;> rfl
@[simp] theorem focus_launchGen : (s.focus n).launchGen = s.launchGen := by rw [focus_eq]; split <;> rfl
@[simp] theorem focus_sites : (s.focus n).sites = s.sites := by rw [focus_eq]; split <;> rfl
@[simp] theorem focus_preempts : (s.focus n).preempts = s.preempts := by rw [focus_eq]; split <;> rfl
@[simp] theorem focus_saved : (s.focus n).saved = s.saved := by rw [focus_eq]; split <;> rfl
@[simp] theorem focus_logV : (s.focus n).logV = s.logV := by rw [focus_eq]; split <;> rfl
@[simp] theorem focus_logD : (s.focus n).logD = s.logD := by rw [focus_eq]; split <;> rfl
@[simp] theorem focus_srcSeq : (s.focus n).srcSeq = s.srcSeq := by rw [focus_eq]; split <;> rfl
@[simp] theorem focus_srcLost : (s.focus n).srcLost = s.srcLost := by rw [focus_eq]; split <;> rfl
@[simp] theorem focus_notices : (s.focus n).notices = s.notices := by rw [focus_eq]; split <;> rfl
@[simp] theorem focus_boot : (s.focus n).boot = s.boot := by rw [focus_eq]; split <;> rfl
@[simp] theorem focus_l2v : (s.focus n).l2v = s.l2v := by rw [focus_eq]; split <;> rfl
@[simp] theorem focus_l2d : (s.focus n).l2d = s.l2d := by rw [focus_eq]; split <;> rfl
@[simp] theorem focus_owned : (s.focus n).owned = s.owned := by rw [focus_eq]; split <;> rfl
@[simp] theorem focus_busy : (s.focus n).busy = s.busy := by rw [focus_eq]; split <;> rfl
@[simp] theorem focus_arrived : (s.focus n).arrived = s.arrived := by rw [focus_eq]; split <;> rfl
@[simp] theorem focus_grade : (s.focus n).grade = s.grade := by rw [focus_eq]; split <;> rfl
@[simp] theorem focus_inbox : (s.focus n).inbox = s.inbox := by rw [focus_eq]; split <;> rfl
@[simp] theorem focus_agenda : (s.focus n).agenda = s.agenda := by rw [focus_eq]; split <;> rfl
@[simp] theorem focus_fresh : (s.focus n).fresh = s.fresh := by rw [focus_eq]; split <;> rfl
@[simp] theorem modAt_mem (f : Core → Core) : (s.modAt n f).mem = s.mem := by unfold State.modAt; split <;> rfl
@[simp] theorem modAt_lines (f : Core → Core) : (s.modAt n f).lines = s.lines := by unfold State.modAt; split <;> rfl
@[simp] theorem modAt_tags (f : Core → Core) : (s.modAt n f).tags = s.tags := by unfold State.modAt; split <;> rfl
@[simp] theorem modAt_bad (f : Core → Core) : (s.modAt n f).bad = s.bad := by unfold State.modAt; split <;> rfl
@[simp] theorem modAt_flips (f : Core → Core) : (s.modAt n f).flips = s.flips := by unfold State.modAt; split <;> rfl
@[simp] theorem modAt_repairs (f : Core → Core) : (s.modAt n f).repairs = s.repairs := by unfold State.modAt; split <;> rfl
@[simp] theorem modAt_held (f : Core → Core) : (s.modAt n f).held = s.held := by unfold State.modAt; split <;> rfl
@[simp] theorem modAt_tiles (f : Core → Core) : (s.modAt n f).tiles = s.tiles := by unfold State.modAt; split <;> rfl
@[simp] theorem modAt_tileFmts (f : Core → Core) : (s.modAt n f).tileFmts = s.tileFmts := by unfold State.modAt; split <;> rfl
@[simp] theorem modAt_scopeGang (f : Core → Core) : (s.modAt n f).scopeGang = s.scopeGang := by unfold State.modAt; split <;> rfl
@[simp] theorem modAt_scopeEns (f : Core → Core) : (s.modAt n f).scopeEns = s.scopeEns := by unfold State.modAt; split <;> rfl
@[simp] theorem modAt_scopePkg (f : Core → Core) : (s.modAt n f).scopePkg = s.scopePkg := by unfold State.modAt; split <;> rfl
@[simp] theorem modAt_blocks (f : Core → Core) : (s.modAt n f).blocks = s.blocks := by unfold State.modAt; split <;> rfl
@[simp] theorem modAt_depthtab (f : Core → Core) : (s.modAt n f).depthtab = s.depthtab := by unfold State.modAt; split <;> rfl
@[simp] theorem modAt_seqs (f : Core → Core) : (s.modAt n f).seqs = s.seqs := by unfold State.modAt; split <;> rfl
@[simp] theorem modAt_ready (f : Core → Core) : (s.modAt n f).ready = s.ready := by unfold State.modAt; split <;> rfl
@[simp] theorem modAt_posts (f : Core → Core) : (s.modAt n f).posts = s.posts := by unfold State.modAt; split <;> rfl
@[simp] theorem modAt_waiters (f : Core → Core) : (s.modAt n f).waiters = s.waiters := by unfold State.modAt; split <;> rfl
@[simp] theorem modAt_rllim (f : Core → Core) : (s.modAt n f).rllim = s.rllim := by unfold State.modAt; split <;> rfl
@[simp] theorem modAt_scrQ (f : Core → Core) : (s.modAt n f).scrQ = s.scrQ := by unfold State.modAt; split <;> rfl
@[simp] theorem modAt_tileTab (f : Core → Core) : (s.modAt n f).tileTab = s.tileTab := by unfold State.modAt; split <;> rfl
@[simp] theorem modAt_ways (f : Core → Core) : (s.modAt n f).ways = s.ways := by unfold State.modAt; split <;> rfl
@[simp] theorem modAt_peers (f : Core → Core) : (s.modAt n f).peers = s.peers := by unfold State.modAt; split <;> rfl
@[simp] theorem modAt_portsUp (f : Core → Core) : (s.modAt n f).portsUp = s.portsUp := by unfold State.modAt; split <;> rfl
@[simp] theorem modAt_netOut (f : Core → Core) : (s.modAt n f).netOut = s.netOut := by unfold State.modAt; split <;> rfl
@[simp] theorem modAt_partmap (f : Core → Core) : (s.modAt n f).partmap = s.partmap := by unfold State.modAt; split <;> rfl
@[simp] theorem modAt_keyctl (f : Core → Core) : (s.modAt n f).keyctl = s.keyctl := by unfold State.modAt; split <;> rfl
@[simp] theorem modAt_fwslot (f : Core → Core) : (s.modAt n f).fwslot = s.fwslot := by unfold State.modAt; split <;> rfl
@[simp] theorem modAt_ctlb (f : Core → Core) : (s.modAt n f).ctlb = s.ctlb := by unfold State.modAt; split <;> rfl
@[simp] theorem modAt_queues (f : Core → Core) : (s.modAt n f).queues = s.queues := by unfold State.modAt; split <;> rfl
@[simp] theorem modAt_launches (f : Core → Core) : (s.modAt n f).launches = s.launches := by unfold State.modAt; split <;> rfl
@[simp] theorem modAt_images (f : Core → Core) : (s.modAt n f).images = s.images := by unfold State.modAt; split <;> rfl
@[simp] theorem modAt_launchGen (f : Core → Core) : (s.modAt n f).launchGen = s.launchGen := by unfold State.modAt; split <;> rfl
@[simp] theorem modAt_sites (f : Core → Core) : (s.modAt n f).sites = s.sites := by unfold State.modAt; split <;> rfl
@[simp] theorem modAt_preempts (f : Core → Core) : (s.modAt n f).preempts = s.preempts := by unfold State.modAt; split <;> rfl
@[simp] theorem modAt_saved (f : Core → Core) : (s.modAt n f).saved = s.saved := by unfold State.modAt; split <;> rfl
@[simp] theorem modAt_logV (f : Core → Core) : (s.modAt n f).logV = s.logV := by unfold State.modAt; split <;> rfl
@[simp] theorem modAt_logD (f : Core → Core) : (s.modAt n f).logD = s.logD := by unfold State.modAt; split <;> rfl
@[simp] theorem modAt_srcSeq (f : Core → Core) : (s.modAt n f).srcSeq = s.srcSeq := by unfold State.modAt; split <;> rfl
@[simp] theorem modAt_srcLost (f : Core → Core) : (s.modAt n f).srcLost = s.srcLost := by unfold State.modAt; split <;> rfl
@[simp] theorem modAt_notices (f : Core → Core) : (s.modAt n f).notices = s.notices := by unfold State.modAt; split <;> rfl
@[simp] theorem modAt_boot (f : Core → Core) : (s.modAt n f).boot = s.boot := by unfold State.modAt; split <;> rfl
@[simp] theorem modAt_l2v (f : Core → Core) : (s.modAt n f).l2v = s.l2v := by unfold State.modAt; split <;> rfl
@[simp] theorem modAt_l2d (f : Core → Core) : (s.modAt n f).l2d = s.l2d := by unfold State.modAt; split <;> rfl
@[simp] theorem modAt_owned (f : Core → Core) : (s.modAt n f).owned = s.owned := by unfold State.modAt; split <;> rfl
@[simp] theorem modAt_busy (f : Core → Core) : (s.modAt n f).busy = s.busy := by unfold State.modAt; split <;> rfl
@[simp] theorem modAt_arrived (f : Core → Core) : (s.modAt n f).arrived = s.arrived := by unfold State.modAt; split <;> rfl
@[simp] theorem modAt_grade (f : Core → Core) : (s.modAt n f).grade = s.grade := by unfold State.modAt; split <;> rfl
@[simp] theorem modAt_inbox (f : Core → Core) : (s.modAt n f).inbox = s.inbox := by unfold State.modAt; split <;> rfl
@[simp] theorem modAt_agenda (f : Core → Core) : (s.modAt n f).agenda = s.agenda := by unfold State.modAt; split <;> rfl
@[simp] theorem modAt_fresh (f : Core → Core) : (s.modAt n f).fresh = s.fresh := by unfold State.modAt; split <;> rfl
@[simp] theorem modAll_mem (f : Core → Core) : (s.modAll f).mem = s.mem := rfl
@[simp] theorem modAll_lines (f : Core → Core) : (s.modAll f).lines = s.lines := rfl
@[simp] theorem modAll_tags (f : Core → Core) : (s.modAll f).tags = s.tags := rfl
@[simp] theorem modAll_bad (f : Core → Core) : (s.modAll f).bad = s.bad := rfl
@[simp] theorem modAll_flips (f : Core → Core) : (s.modAll f).flips = s.flips := rfl
@[simp] theorem modAll_repairs (f : Core → Core) : (s.modAll f).repairs = s.repairs := rfl
@[simp] theorem modAll_held (f : Core → Core) : (s.modAll f).held = s.held := rfl
@[simp] theorem modAll_tiles (f : Core → Core) : (s.modAll f).tiles = s.tiles := rfl
@[simp] theorem modAll_tileFmts (f : Core → Core) : (s.modAll f).tileFmts = s.tileFmts := rfl
@[simp] theorem modAll_scopeGang (f : Core → Core) : (s.modAll f).scopeGang = s.scopeGang := rfl
@[simp] theorem modAll_scopeEns (f : Core → Core) : (s.modAll f).scopeEns = s.scopeEns := rfl
@[simp] theorem modAll_scopePkg (f : Core → Core) : (s.modAll f).scopePkg = s.scopePkg := rfl
@[simp] theorem modAll_blocks (f : Core → Core) : (s.modAll f).blocks = s.blocks := rfl
@[simp] theorem modAll_depthtab (f : Core → Core) : (s.modAll f).depthtab = s.depthtab := rfl
@[simp] theorem modAll_seqs (f : Core → Core) : (s.modAll f).seqs = s.seqs := rfl
@[simp] theorem modAll_ready (f : Core → Core) : (s.modAll f).ready = s.ready := rfl
@[simp] theorem modAll_posts (f : Core → Core) : (s.modAll f).posts = s.posts := rfl
@[simp] theorem modAll_waiters (f : Core → Core) : (s.modAll f).waiters = s.waiters := rfl
@[simp] theorem modAll_rllim (f : Core → Core) : (s.modAll f).rllim = s.rllim := rfl
@[simp] theorem modAll_scrQ (f : Core → Core) : (s.modAll f).scrQ = s.scrQ := rfl
@[simp] theorem modAll_tileTab (f : Core → Core) : (s.modAll f).tileTab = s.tileTab := rfl
@[simp] theorem modAll_ways (f : Core → Core) : (s.modAll f).ways = s.ways := rfl
@[simp] theorem modAll_peers (f : Core → Core) : (s.modAll f).peers = s.peers := rfl
@[simp] theorem modAll_portsUp (f : Core → Core) : (s.modAll f).portsUp = s.portsUp := rfl
@[simp] theorem modAll_netOut (f : Core → Core) : (s.modAll f).netOut = s.netOut := rfl
@[simp] theorem modAll_partmap (f : Core → Core) : (s.modAll f).partmap = s.partmap := rfl
@[simp] theorem modAll_keyctl (f : Core → Core) : (s.modAll f).keyctl = s.keyctl := rfl
@[simp] theorem modAll_fwslot (f : Core → Core) : (s.modAll f).fwslot = s.fwslot := rfl
@[simp] theorem modAll_ctlb (f : Core → Core) : (s.modAll f).ctlb = s.ctlb := rfl
@[simp] theorem modAll_queues (f : Core → Core) : (s.modAll f).queues = s.queues := rfl
@[simp] theorem modAll_launches (f : Core → Core) : (s.modAll f).launches = s.launches := rfl
@[simp] theorem modAll_images (f : Core → Core) : (s.modAll f).images = s.images := rfl
@[simp] theorem modAll_launchGen (f : Core → Core) : (s.modAll f).launchGen = s.launchGen := rfl
@[simp] theorem modAll_sites (f : Core → Core) : (s.modAll f).sites = s.sites := rfl
@[simp] theorem modAll_preempts (f : Core → Core) : (s.modAll f).preempts = s.preempts := rfl
@[simp] theorem modAll_saved (f : Core → Core) : (s.modAll f).saved = s.saved := rfl
@[simp] theorem modAll_logV (f : Core → Core) : (s.modAll f).logV = s.logV := rfl
@[simp] theorem modAll_logD (f : Core → Core) : (s.modAll f).logD = s.logD := rfl
@[simp] theorem modAll_srcSeq (f : Core → Core) : (s.modAll f).srcSeq = s.srcSeq := rfl
@[simp] theorem modAll_srcLost (f : Core → Core) : (s.modAll f).srcLost = s.srcLost := rfl
@[simp] theorem modAll_notices (f : Core → Core) : (s.modAll f).notices = s.notices := rfl
@[simp] theorem modAll_boot (f : Core → Core) : (s.modAll f).boot = s.boot := rfl
@[simp] theorem modAll_l2v (f : Core → Core) : (s.modAll f).l2v = s.l2v := rfl
@[simp] theorem modAll_l2d (f : Core → Core) : (s.modAll f).l2d = s.l2d := rfl
@[simp] theorem modAll_owned (f : Core → Core) : (s.modAll f).owned = s.owned := rfl
@[simp] theorem modAll_busy (f : Core → Core) : (s.modAll f).busy = s.busy := rfl
@[simp] theorem modAll_arrived (f : Core → Core) : (s.modAll f).arrived = s.arrived := rfl
@[simp] theorem modAll_grade (f : Core → Core) : (s.modAll f).grade = s.grade := rfl
@[simp] theorem modAll_inbox (f : Core → Core) : (s.modAll f).inbox = s.inbox := rfl
@[simp] theorem modAll_agenda (f : Core → Core) : (s.modAll f).agenda = s.agenda := rfl
@[simp] theorem modAll_fresh (f : Core → Core) : (s.modAll f).fresh = s.fresh := rfl

end

/-! ### Results in flight, waits, traps -/

section
variable (s : State)

/-- A posted result joins the core's results in flight; nothing else changes. -/
@[simp] theorem post_pend (lat : Nat) (r : Result) :
    (s.post lat r).core.port.pend = s.core.port.pend ++ [⟨s.core.unf + lat, s.core.unf, s.core.flow.slot, r⟩] := rfl

@[simp] theorem post_core_id (lat : Nat) (r : Result) : (s.post lat r).core.id = s.core.id := rfl
@[simp] theorem post_core_urg (lat : Nat) (r : Result) : (s.post lat r).core.urg = s.core.urg := rfl
@[simp] theorem post_core_fw (lat : Nat) (r : Result) : (s.post lat r).core.fw = s.core.fw := rfl
@[simp] theorem post_core_clock (lat : Nat) (r : Result) : (s.post lat r).core.clock = s.core.clock := rfl
@[simp] theorem post_core_unf (lat : Nat) (r : Result) : (s.post lat r).core.unf = s.core.unf := rfl
@[simp] theorem post_core_owed (lat : Nat) (r : Result) : (s.post lat r).core.owed = s.core.owed := rfl
@[simp] theorem post_core_imem (lat : Nat) (r : Result) : (s.post lat r).core.imem = s.core.imem := rfl
@[simp] theorem post_core_regs (lat : Nat) (r : Result) : (s.post lat r).core.regs = s.core.regs := rfl
@[simp] theorem post_core_ctl (lat : Nat) (r : Result) : (s.post lat r).core.ctl = s.core.ctl := rfl
@[simp] theorem post_core_exc (lat : Nat) (r : Result) : (s.post lat r).core.exc = s.core.exc := rfl
@[simp] theorem post_core_flow (lat : Nat) (r : Result) : (s.post lat r).core.flow = s.core.flow := rfl
@[simp] theorem post_core_mtx (lat : Nat) (r : Result) : (s.post lat r).core.mtx = s.core.mtx := rfl
@[simp] theorem post_core_spe (lat : Nat) (r : Result) : (s.post lat r).core.spe = s.core.spe := rfl
@[simp] theorem post_core_tasks (lat : Nat) (r : Result) : (s.post lat r).core.tasks = s.core.tasks := rfl
@[simp] theorem post_core_dq (lat : Nat) (r : Result) : (s.post lat r).core.dq = s.core.dq := rfl
@[simp] theorem post_core_launch (lat : Nat) (r : Result) : (s.post lat r).core.launch = s.core.launch := rfl
@[simp] theorem post_core_trapFrozen (lat : Nat) (r : Result) : (s.post lat r).core.trapFrozen = s.core.trapFrozen := rfl
@[simp] theorem post_core_stopped (lat : Nat) (r : Result) : (s.post lat r).core.stopped = s.core.stopped := rfl
@[simp] theorem post_core_resumeAt (lat : Nat) (r : Result) : (s.post lat r).core.resumeAt = s.core.resumeAt := rfl
@[simp] theorem post_core_prov (lat : Nat) (r : Result) : (s.post lat r).core.prov = s.core.prov := rfl
@[simp] theorem post_core_crew (lat : Nat) (r : Result) : (s.post lat r).core.crew = s.core.crew := rfl
@[simp] theorem post_others (lat : Nat) (r : Result) : (s.post lat r).others = s.others := rfl
@[simp] theorem post_mem (lat : Nat) (r : Result) : (s.post lat r).mem = s.mem := rfl
@[simp] theorem post_lines (lat : Nat) (r : Result) : (s.post lat r).lines = s.lines := rfl
@[simp] theorem post_tags (lat : Nat) (r : Result) : (s.post lat r).tags = s.tags := rfl
@[simp] theorem post_bad (lat : Nat) (r : Result) : (s.post lat r).bad = s.bad := rfl
@[simp] theorem post_flips (lat : Nat) (r : Result) : (s.post lat r).flips = s.flips := rfl
@[simp] theorem post_repairs (lat : Nat) (r : Result) : (s.post lat r).repairs = s.repairs := rfl
@[simp] theorem post_held (lat : Nat) (r : Result) : (s.post lat r).held = s.held := rfl
@[simp] theorem post_tiles (lat : Nat) (r : Result) : (s.post lat r).tiles = s.tiles := rfl
@[simp] theorem post_tileFmts (lat : Nat) (r : Result) : (s.post lat r).tileFmts = s.tileFmts := rfl
@[simp] theorem post_scopeGang (lat : Nat) (r : Result) : (s.post lat r).scopeGang = s.scopeGang := rfl
@[simp] theorem post_scopeEns (lat : Nat) (r : Result) : (s.post lat r).scopeEns = s.scopeEns := rfl
@[simp] theorem post_scopePkg (lat : Nat) (r : Result) : (s.post lat r).scopePkg = s.scopePkg := rfl
@[simp] theorem post_blocks (lat : Nat) (r : Result) : (s.post lat r).blocks = s.blocks := rfl
@[simp] theorem post_depthtab (lat : Nat) (r : Result) : (s.post lat r).depthtab = s.depthtab := rfl
@[simp] theorem post_seqs (lat : Nat) (r : Result) : (s.post lat r).seqs = s.seqs := rfl
@[simp] theorem post_ready (lat : Nat) (r : Result) : (s.post lat r).ready = s.ready := rfl
@[simp] theorem post_posts (lat : Nat) (r : Result) : (s.post lat r).posts = s.posts := rfl
@[simp] theorem post_waiters (lat : Nat) (r : Result) : (s.post lat r).waiters = s.waiters := rfl
@[simp] theorem post_rllim (lat : Nat) (r : Result) : (s.post lat r).rllim = s.rllim := rfl
@[simp] theorem post_scrQ (lat : Nat) (r : Result) : (s.post lat r).scrQ = s.scrQ := rfl
@[simp] theorem post_tileTab (lat : Nat) (r : Result) : (s.post lat r).tileTab = s.tileTab := rfl
@[simp] theorem post_ways (lat : Nat) (r : Result) : (s.post lat r).ways = s.ways := rfl
@[simp] theorem post_peers (lat : Nat) (r : Result) : (s.post lat r).peers = s.peers := rfl
@[simp] theorem post_portsUp (lat : Nat) (r : Result) : (s.post lat r).portsUp = s.portsUp := rfl
@[simp] theorem post_netOut (lat : Nat) (r : Result) : (s.post lat r).netOut = s.netOut := rfl
@[simp] theorem post_partmap (lat : Nat) (r : Result) : (s.post lat r).partmap = s.partmap := rfl
@[simp] theorem post_keyctl (lat : Nat) (r : Result) : (s.post lat r).keyctl = s.keyctl := rfl
@[simp] theorem post_fwslot (lat : Nat) (r : Result) : (s.post lat r).fwslot = s.fwslot := rfl
@[simp] theorem post_ctlb (lat : Nat) (r : Result) : (s.post lat r).ctlb = s.ctlb := rfl
@[simp] theorem post_queues (lat : Nat) (r : Result) : (s.post lat r).queues = s.queues := rfl
@[simp] theorem post_launches (lat : Nat) (r : Result) : (s.post lat r).launches = s.launches := rfl
@[simp] theorem post_images (lat : Nat) (r : Result) : (s.post lat r).images = s.images := rfl
@[simp] theorem post_launchGen (lat : Nat) (r : Result) : (s.post lat r).launchGen = s.launchGen := rfl
@[simp] theorem post_sites (lat : Nat) (r : Result) : (s.post lat r).sites = s.sites := rfl
@[simp] theorem post_preempts (lat : Nat) (r : Result) : (s.post lat r).preempts = s.preempts := rfl
@[simp] theorem post_saved (lat : Nat) (r : Result) : (s.post lat r).saved = s.saved := rfl
@[simp] theorem post_logV (lat : Nat) (r : Result) : (s.post lat r).logV = s.logV := rfl
@[simp] theorem post_logD (lat : Nat) (r : Result) : (s.post lat r).logD = s.logD := rfl
@[simp] theorem post_srcSeq (lat : Nat) (r : Result) : (s.post lat r).srcSeq = s.srcSeq := rfl
@[simp] theorem post_srcLost (lat : Nat) (r : Result) : (s.post lat r).srcLost = s.srcLost := rfl
@[simp] theorem post_notices (lat : Nat) (r : Result) : (s.post lat r).notices = s.notices := rfl
@[simp] theorem post_boot (lat : Nat) (r : Result) : (s.post lat r).boot = s.boot := rfl
@[simp] theorem post_l2v (lat : Nat) (r : Result) : (s.post lat r).l2v = s.l2v := rfl
@[simp] theorem post_l2d (lat : Nat) (r : Result) : (s.post lat r).l2d = s.l2d := rfl
@[simp] theorem post_owned (lat : Nat) (r : Result) : (s.post lat r).owned = s.owned := rfl
@[simp] theorem post_busy (lat : Nat) (r : Result) : (s.post lat r).busy = s.busy := rfl
@[simp] theorem post_arrived (lat : Nat) (r : Result) : (s.post lat r).arrived = s.arrived := rfl
@[simp] theorem post_grade (lat : Nat) (r : Result) : (s.post lat r).grade = s.grade := rfl
@[simp] theorem post_inbox (lat : Nat) (r : Result) : (s.post lat r).inbox = s.inbox := rfl
@[simp] theorem post_agenda (lat : Nat) (r : Result) : (s.post lat r).agenda = s.agenda := rfl
@[simp] theorem post_fresh (lat : Nat) (r : Result) : (s.post lat r).fresh = s.fresh := rfl

/-- A wait is a verdict on the operation in hand; nothing else changes. -/
@[simp] theorem wait_verdict (w : Wait) : (s.wait w).core.flow.verdict = .waits w := rfl
@[simp] theorem wait_regs (w : Wait) : (s.wait w).core.regs = s.core.regs := rfl
@[simp] theorem wait_port (w : Wait) : (s.wait w).core.port = s.core.port := rfl
@[simp] theorem wait_mem (w : Wait) : (s.wait w).mem = s.mem := rfl

/-- What a trap reports is cleared in the matrix state, the flags and the held `.com` error alone. -/
@[simp] theorem reported_exc (c : Core) (t : TrapReq) : (c.reported t).exc = c.exc := by
  simp only [Core.reported]; split <;> first | rfl | (split <;> rfl)
@[simp] theorem reported_flow (c : Core) (t : TrapReq) : (c.reported t).flow = c.flow := by
  simp only [Core.reported]; split <;> first | rfl | (split <;> rfl)
@[simp] theorem reported_regs (c : Core) (t : TrapReq) : (c.reported t).regs = c.regs := by
  simp only [Core.reported]; split <;> first | rfl | (split <;> rfl)
@[simp] theorem reported_fw (c : Core) (t : TrapReq) : (c.reported t).fw = c.fw := by
  simp only [Core.reported]; split <;> first | rfl | (split <;> rfl)

/-- A core with nothing pending enters its handler at once (R406): every register of the entry. -/
theorem enter_exc (c : Core) (t : TrapReq) :
    (c.enter t).exc.cause = t.code ∧ (c.enter t).exc.info = t.info ∧ (c.enter t).exc.level = c.trapLevel ∧
    (c.enter t).exc.plvl = c.exc.level ∧ (c.enter t).exc.entering = none ∧ (c.enter t).exc.trapvec = c.exc.trapvec ∧
    (c.enter t).exc.trappc = (if t.next then c.flow.pc + .ofNat 12 c.flow.len else c.flow.pc) ∧
    (c.enter t).flow.pc = c.exc.trapvec ∧ (c.enter t).regs = c.regs := by
  simp [Core.enter, Core.trapLevel]

/-- A held trap only waits: no register of the entry is written yet (R406, R409, R312). -/
theorem hold_exc (c : Core) (t : TrapReq) : (c.hold t).exc = { c.exc with entering := some t } ∧ (c.hold t).regs = c.regs ∧
    (c.hold t).flow.pc = c.flow.pc := by
  simp [Core.hold]

/-- Marking a held instance changes its launch alone (R309). -/
@[simp] theorem markHeld_core : s.markHeld.core = s.core := by unfold State.markHeld; split <;> rfl
@[simp] theorem markHeld_others : s.markHeld.others = s.others := by unfold State.markHeld; split <;> rfl
@[simp] theorem markHeld_mem : s.markHeld.mem = s.mem := by unfold State.markHeld; split <;> rfl
@[simp] theorem markHeld_lines : s.markHeld.lines = s.lines := by unfold State.markHeld; split <;> rfl
@[simp] theorem markHeld_l2v : s.markHeld.l2v = s.l2v := by unfold State.markHeld; split <;> rfl
@[simp] theorem markHeld_l2d : s.markHeld.l2d = s.l2d := by unfold State.markHeld; split <;> rfl
@[simp] theorem markHeld_owned : s.markHeld.owned = s.owned := by unfold State.markHeld; split <;> rfl
@[simp] theorem markHeld_tags : s.markHeld.tags = s.tags := by unfold State.markHeld; split <;> rfl
@[simp] theorem markHeld_bad : s.markHeld.bad = s.bad := by unfold State.markHeld; split <;> rfl
@[simp] theorem markHeld_flips : s.markHeld.flips = s.flips := by unfold State.markHeld; split <;> rfl
@[simp] theorem markHeld_repairs : s.markHeld.repairs = s.repairs := by unfold State.markHeld; split <;> rfl
@[simp] theorem markHeld_held : s.markHeld.held = s.held := by unfold State.markHeld; split <;> rfl
@[simp] theorem markHeld_busy : s.markHeld.busy = s.busy := by unfold State.markHeld; split <;> rfl
@[simp] theorem markHeld_arrived : s.markHeld.arrived = s.arrived := by unfold State.markHeld; split <;> rfl
@[simp] theorem markHeld_tiles : s.markHeld.tiles = s.tiles := by unfold State.markHeld; split <;> rfl
@[simp] theorem markHeld_tileFmts : s.markHeld.tileFmts = s.tileFmts := by unfold State.markHeld; split <;> rfl
@[simp] theorem markHeld_scopeGang : s.markHeld.scopeGang = s.scopeGang := by unfold State.markHeld; split <;> rfl
@[simp] theorem markHeld_scopeEns : s.markHeld.scopeEns = s.scopeEns := by unfold State.markHeld; split <;> rfl
@[simp] theorem markHeld_scopePkg : s.markHeld.scopePkg = s.scopePkg := by unfold State.markHeld; split <;> rfl
@[simp] theorem markHeld_blocks : s.markHeld.blocks = s.blocks := by unfold State.markHeld; split <;> rfl
@[simp] theorem markHeld_depthtab : s.markHeld.depthtab = s.depthtab := by unfold State.markHeld; split <;> rfl
@[simp] theorem markHeld_seqs : s.markHeld.seqs = s.seqs := by unfold State.markHeld; split <;> rfl
@[simp] theorem markHeld_ready : s.markHeld.ready = s.ready := by unfold State.markHeld; split <;> rfl
@[simp] theorem markHeld_posts : s.markHeld.posts = s.posts := by unfold State.markHeld; split <;> rfl
@[simp] theorem markHeld_waiters : s.markHeld.waiters = s.waiters := by unfold State.markHeld; split <;> rfl
@[simp] theorem markHeld_rllim : s.markHeld.rllim = s.rllim := by unfold State.markHeld; split <;> rfl
@[simp] theorem markHeld_scrQ : s.markHeld.scrQ = s.scrQ := by unfold State.markHeld; split <;> rfl
@[simp] theorem markHeld_tileTab : s.markHeld.tileTab = s.tileTab := by unfold State.markHeld; split <;> rfl
@[simp] theorem markHeld_ways : s.markHeld.ways = s.ways := by unfold State.markHeld; split <;> rfl
@[simp] theorem markHeld_peers : s.markHeld.peers = s.peers := by unfold State.markHeld; split <;> rfl
@[simp] theorem markHeld_portsUp : s.markHeld.portsUp = s.portsUp := by unfold State.markHeld; split <;> rfl
@[simp] theorem markHeld_netOut : s.markHeld.netOut = s.netOut := by unfold State.markHeld; split <;> rfl
@[simp] theorem markHeld_partmap : s.markHeld.partmap = s.partmap := by unfold State.markHeld; split <;> rfl
@[simp] theorem markHeld_keyctl : s.markHeld.keyctl = s.keyctl := by unfold State.markHeld; split <;> rfl
@[simp] theorem markHeld_fwslot : s.markHeld.fwslot = s.fwslot := by unfold State.markHeld; split <;> rfl
@[simp] theorem markHeld_ctlb : s.markHeld.ctlb = s.ctlb := by unfold State.markHeld; split <;> rfl
@[simp] theorem markHeld_queues : s.markHeld.queues = s.queues := by unfold State.markHeld; split <;> rfl
@[simp] theorem markHeld_images : s.markHeld.images = s.images := by unfold State.markHeld; split <;> rfl
@[simp] theorem markHeld_launchGen : s.markHeld.launchGen = s.launchGen := by unfold State.markHeld; split <;> rfl
@[simp] theorem markHeld_sites : s.markHeld.sites = s.sites := by unfold State.markHeld; split <;> rfl
@[simp] theorem markHeld_preempts : s.markHeld.preempts = s.preempts := by unfold State.markHeld; split <;> rfl
@[simp] theorem markHeld_saved : s.markHeld.saved = s.saved := by unfold State.markHeld; split <;> rfl
@[simp] theorem markHeld_logV : s.markHeld.logV = s.logV := by unfold State.markHeld; split <;> rfl
@[simp] theorem markHeld_logD : s.markHeld.logD = s.logD := by unfold State.markHeld; split <;> rfl
@[simp] theorem markHeld_srcSeq : s.markHeld.srcSeq = s.srcSeq := by unfold State.markHeld; split <;> rfl
@[simp] theorem markHeld_srcLost : s.markHeld.srcLost = s.srcLost := by unfold State.markHeld; split <;> rfl
@[simp] theorem markHeld_notices : s.markHeld.notices = s.notices := by unfold State.markHeld; split <;> rfl
@[simp] theorem markHeld_boot : s.markHeld.boot = s.boot := by unfold State.markHeld; split <;> rfl
@[simp] theorem markHeld_grade : s.markHeld.grade = s.grade := by unfold State.markHeld; split <;> rfl
@[simp] theorem markHeld_inbox : s.markHeld.inbox = s.inbox := by unfold State.markHeld; split <;> rfl
@[simp] theorem markHeld_agenda : s.markHeld.agenda = s.agenda := by unfold State.markHeld; split <;> rfl
@[simp] theorem markHeld_fresh : s.markHeld.fresh = s.fresh := by unfold State.markHeld; split <;> rfl

/-- The outcomes of a trap of the core in focus. -/
theorem takeTrap_cases (t : TrapReq) :
    s.takeTrap t = s.markHeld.modCore (fun c => c.hold t) ∨ s.takeTrap t = s.freezeOthers.modCore (fun c => c.enter t) ∨
    s.takeTrap t = s.freezeOthers.modCore (fun c => c.hold t) := by
  simp only [State.takeTrap]
  split
  · exact .inl rfl
  · split
    · exact .inr (.inl rfl)
    · exact .inr (.inr rfl)

end

/-! ### Freezing a gang, and traps: what they leave -/

section
variable (s : State)

/-- Changing core records one after another leaves what is not a core record. -/
theorem foldl_modAt {β γ : Type} (p : State → γ) (h : ∀ (s : State) (n : Nat) (f : Core → Core), p (s.modAt n f) = p s)
    (n : β → Nat) (f : β → Core → Core) : ∀ (l : List β) (s : State), p (l.foldl (fun s x => s.modAt (n x) (f x)) s) = p s
  | [], _ => rfl
  | x :: l, s => by rw [List.foldl_cons, foldl_modAt p h n f l]; exact h _ _ _

@[simp] theorem freezeOthers_mem : s.freezeOthers.mem = s.mem := foldl_modAt State.mem (fun s n f => modAt_mem s n f) _ _ _ _
@[simp] theorem freezeOthers_lines : s.freezeOthers.lines = s.lines := foldl_modAt State.lines (fun s n f => modAt_lines s n f) _ _ _ _
@[simp] theorem freezeOthers_tags : s.freezeOthers.tags = s.tags := foldl_modAt State.tags (fun s n f => modAt_tags s n f) _ _ _ _
@[simp] theorem freezeOthers_bad : s.freezeOthers.bad = s.bad := foldl_modAt State.bad (fun s n f => modAt_bad s n f) _ _ _ _
@[simp] theorem freezeOthers_flips : s.freezeOthers.flips = s.flips := foldl_modAt State.flips (fun s n f => modAt_flips s n f) _ _ _ _
@[simp] theorem freezeOthers_repairs : s.freezeOthers.repairs = s.repairs := foldl_modAt State.repairs (fun s n f => modAt_repairs s n f) _ _ _ _
@[simp] theorem freezeOthers_held : s.freezeOthers.held = s.held := foldl_modAt State.held (fun s n f => modAt_held s n f) _ _ _ _
@[simp] theorem freezeOthers_tiles : s.freezeOthers.tiles = s.tiles := foldl_modAt State.tiles (fun s n f => modAt_tiles s n f) _ _ _ _
@[simp] theorem freezeOthers_tileFmts : s.freezeOthers.tileFmts = s.tileFmts := foldl_modAt State.tileFmts (fun s n f => modAt_tileFmts s n f) _ _ _ _
@[simp] theorem freezeOthers_scopeGang : s.freezeOthers.scopeGang = s.scopeGang := foldl_modAt State.scopeGang (fun s n f => modAt_scopeGang s n f) _ _ _ _
@[simp] theorem freezeOthers_scopeEns : s.freezeOthers.scopeEns = s.scopeEns := foldl_modAt State.scopeEns (fun s n f => modAt_scopeEns s n f) _ _ _ _
@[simp] theorem freezeOthers_scopePkg : s.freezeOthers.scopePkg = s.scopePkg := foldl_modAt State.scopePkg (fun s n f => modAt_scopePkg s n f) _ _ _ _
@[simp] theorem freezeOthers_blocks : s.freezeOthers.blocks = s.blocks := foldl_modAt State.blocks (fun s n f => modAt_blocks s n f) _ _ _ _
@[simp] theorem freezeOthers_depthtab : s.freezeOthers.depthtab = s.depthtab := foldl_modAt State.depthtab (fun s n f => modAt_depthtab s n f) _ _ _ _
@[simp] theorem freezeOthers_seqs : s.freezeOthers.seqs = s.seqs := foldl_modAt State.seqs (fun s n f => modAt_seqs s n f) _ _ _ _
@[simp] theorem freezeOthers_ready : s.freezeOthers.ready = s.ready := foldl_modAt State.ready (fun s n f => modAt_ready s n f) _ _ _ _
@[simp] theorem freezeOthers_posts : s.freezeOthers.posts = s.posts := foldl_modAt State.posts (fun s n f => modAt_posts s n f) _ _ _ _
@[simp] theorem freezeOthers_waiters : s.freezeOthers.waiters = s.waiters := foldl_modAt State.waiters (fun s n f => modAt_waiters s n f) _ _ _ _
@[simp] theorem freezeOthers_rllim : s.freezeOthers.rllim = s.rllim := foldl_modAt State.rllim (fun s n f => modAt_rllim s n f) _ _ _ _
@[simp] theorem freezeOthers_scrQ : s.freezeOthers.scrQ = s.scrQ := foldl_modAt State.scrQ (fun s n f => modAt_scrQ s n f) _ _ _ _
@[simp] theorem freezeOthers_tileTab : s.freezeOthers.tileTab = s.tileTab := foldl_modAt State.tileTab (fun s n f => modAt_tileTab s n f) _ _ _ _
@[simp] theorem freezeOthers_ways : s.freezeOthers.ways = s.ways := foldl_modAt State.ways (fun s n f => modAt_ways s n f) _ _ _ _
@[simp] theorem freezeOthers_peers : s.freezeOthers.peers = s.peers := foldl_modAt State.peers (fun s n f => modAt_peers s n f) _ _ _ _
@[simp] theorem freezeOthers_portsUp : s.freezeOthers.portsUp = s.portsUp := foldl_modAt State.portsUp (fun s n f => modAt_portsUp s n f) _ _ _ _
@[simp] theorem freezeOthers_netOut : s.freezeOthers.netOut = s.netOut := foldl_modAt State.netOut (fun s n f => modAt_netOut s n f) _ _ _ _
@[simp] theorem freezeOthers_partmap : s.freezeOthers.partmap = s.partmap := foldl_modAt State.partmap (fun s n f => modAt_partmap s n f) _ _ _ _
@[simp] theorem freezeOthers_keyctl : s.freezeOthers.keyctl = s.keyctl := foldl_modAt State.keyctl (fun s n f => modAt_keyctl s n f) _ _ _ _
@[simp] theorem freezeOthers_fwslot : s.freezeOthers.fwslot = s.fwslot := foldl_modAt State.fwslot (fun s n f => modAt_fwslot s n f) _ _ _ _
@[simp] theorem freezeOthers_ctlb : s.freezeOthers.ctlb = s.ctlb := foldl_modAt State.ctlb (fun s n f => modAt_ctlb s n f) _ _ _ _
@[simp] theorem freezeOthers_queues : s.freezeOthers.queues = s.queues := foldl_modAt State.queues (fun s n f => modAt_queues s n f) _ _ _ _
@[simp] theorem freezeOthers_launches : s.freezeOthers.launches = s.launches := foldl_modAt State.launches (fun s n f => modAt_launches s n f) _ _ _ _
@[simp] theorem freezeOthers_images : s.freezeOthers.images = s.images := foldl_modAt State.images (fun s n f => modAt_images s n f) _ _ _ _
@[simp] theorem freezeOthers_launchGen : s.freezeOthers.launchGen = s.launchGen := foldl_modAt State.launchGen (fun s n f => modAt_launchGen s n f) _ _ _ _
@[simp] theorem freezeOthers_sites : s.freezeOthers.sites = s.sites := foldl_modAt State.sites (fun s n f => modAt_sites s n f) _ _ _ _
@[simp] theorem freezeOthers_preempts : s.freezeOthers.preempts = s.preempts := foldl_modAt State.preempts (fun s n f => modAt_preempts s n f) _ _ _ _
@[simp] theorem freezeOthers_saved : s.freezeOthers.saved = s.saved := foldl_modAt State.saved (fun s n f => modAt_saved s n f) _ _ _ _
@[simp] theorem freezeOthers_logV : s.freezeOthers.logV = s.logV := foldl_modAt State.logV (fun s n f => modAt_logV s n f) _ _ _ _
@[simp] theorem freezeOthers_logD : s.freezeOthers.logD = s.logD := foldl_modAt State.logD (fun s n f => modAt_logD s n f) _ _ _ _
@[simp] theorem freezeOthers_srcSeq : s.freezeOthers.srcSeq = s.srcSeq := foldl_modAt State.srcSeq (fun s n f => modAt_srcSeq s n f) _ _ _ _
@[simp] theorem freezeOthers_srcLost : s.freezeOthers.srcLost = s.srcLost := foldl_modAt State.srcLost (fun s n f => modAt_srcLost s n f) _ _ _ _
@[simp] theorem freezeOthers_notices : s.freezeOthers.notices = s.notices := foldl_modAt State.notices (fun s n f => modAt_notices s n f) _ _ _ _
@[simp] theorem freezeOthers_boot : s.freezeOthers.boot = s.boot := foldl_modAt State.boot (fun s n f => modAt_boot s n f) _ _ _ _
@[simp] theorem freezeOthers_l2v : s.freezeOthers.l2v = s.l2v := foldl_modAt State.l2v (fun s n f => modAt_l2v s n f) _ _ _ _
@[simp] theorem freezeOthers_l2d : s.freezeOthers.l2d = s.l2d := foldl_modAt State.l2d (fun s n f => modAt_l2d s n f) _ _ _ _
@[simp] theorem freezeOthers_owned : s.freezeOthers.owned = s.owned := foldl_modAt State.owned (fun s n f => modAt_owned s n f) _ _ _ _
@[simp] theorem freezeOthers_busy : s.freezeOthers.busy = s.busy := foldl_modAt State.busy (fun s n f => modAt_busy s n f) _ _ _ _
@[simp] theorem freezeOthers_arrived : s.freezeOthers.arrived = s.arrived := foldl_modAt State.arrived (fun s n f => modAt_arrived s n f) _ _ _ _
@[simp] theorem freezeOthers_grade : s.freezeOthers.grade = s.grade := foldl_modAt State.grade (fun s n f => modAt_grade s n f) _ _ _ _
@[simp] theorem freezeOthers_inbox : s.freezeOthers.inbox = s.inbox := foldl_modAt State.inbox (fun s n f => modAt_inbox s n f) _ _ _ _
@[simp] theorem freezeOthers_agenda : s.freezeOthers.agenda = s.agenda := foldl_modAt State.agenda (fun s n f => modAt_agenda s n f) _ _ _ _
@[simp] theorem freezeOthers_fresh : s.freezeOthers.fresh = s.fresh := foldl_modAt State.fresh (fun s n f => modAt_fresh s n f) _ _ _ _
@[simp] theorem takeTrap_mem (t : TrapReq) : (s.takeTrap t).mem = s.mem := by rcases takeTrap_cases s t with h | h | h <;> simp [h]
@[simp] theorem takeTrap_lines (t : TrapReq) : (s.takeTrap t).lines = s.lines := by rcases takeTrap_cases s t with h | h | h <;> simp [h]
@[simp] theorem takeTrap_tags (t : TrapReq) : (s.takeTrap t).tags = s.tags := by rcases takeTrap_cases s t with h | h | h <;> simp [h]
@[simp] theorem takeTrap_bad (t : TrapReq) : (s.takeTrap t).bad = s.bad := by rcases takeTrap_cases s t with h | h | h <;> simp [h]
@[simp] theorem takeTrap_flips (t : TrapReq) : (s.takeTrap t).flips = s.flips := by rcases takeTrap_cases s t with h | h | h <;> simp [h]
@[simp] theorem takeTrap_repairs (t : TrapReq) : (s.takeTrap t).repairs = s.repairs := by rcases takeTrap_cases s t with h | h | h <;> simp [h]
@[simp] theorem takeTrap_held (t : TrapReq) : (s.takeTrap t).held = s.held := by rcases takeTrap_cases s t with h | h | h <;> simp [h]
@[simp] theorem takeTrap_tiles (t : TrapReq) : (s.takeTrap t).tiles = s.tiles := by rcases takeTrap_cases s t with h | h | h <;> simp [h]
@[simp] theorem takeTrap_tileFmts (t : TrapReq) : (s.takeTrap t).tileFmts = s.tileFmts := by rcases takeTrap_cases s t with h | h | h <;> simp [h]
@[simp] theorem takeTrap_scopeGang (t : TrapReq) : (s.takeTrap t).scopeGang = s.scopeGang := by rcases takeTrap_cases s t with h | h | h <;> simp [h]
@[simp] theorem takeTrap_scopeEns (t : TrapReq) : (s.takeTrap t).scopeEns = s.scopeEns := by rcases takeTrap_cases s t with h | h | h <;> simp [h]
@[simp] theorem takeTrap_scopePkg (t : TrapReq) : (s.takeTrap t).scopePkg = s.scopePkg := by rcases takeTrap_cases s t with h | h | h <;> simp [h]
@[simp] theorem takeTrap_blocks (t : TrapReq) : (s.takeTrap t).blocks = s.blocks := by rcases takeTrap_cases s t with h | h | h <;> simp [h]
@[simp] theorem takeTrap_depthtab (t : TrapReq) : (s.takeTrap t).depthtab = s.depthtab := by rcases takeTrap_cases s t with h | h | h <;> simp [h]
@[simp] theorem takeTrap_seqs (t : TrapReq) : (s.takeTrap t).seqs = s.seqs := by rcases takeTrap_cases s t with h | h | h <;> simp [h]
@[simp] theorem takeTrap_ready (t : TrapReq) : (s.takeTrap t).ready = s.ready := by rcases takeTrap_cases s t with h | h | h <;> simp [h]
@[simp] theorem takeTrap_posts (t : TrapReq) : (s.takeTrap t).posts = s.posts := by rcases takeTrap_cases s t with h | h | h <;> simp [h]
@[simp] theorem takeTrap_waiters (t : TrapReq) : (s.takeTrap t).waiters = s.waiters := by rcases takeTrap_cases s t with h | h | h <;> simp [h]
@[simp] theorem takeTrap_rllim (t : TrapReq) : (s.takeTrap t).rllim = s.rllim := by rcases takeTrap_cases s t with h | h | h <;> simp [h]
@[simp] theorem takeTrap_scrQ (t : TrapReq) : (s.takeTrap t).scrQ = s.scrQ := by rcases takeTrap_cases s t with h | h | h <;> simp [h]
@[simp] theorem takeTrap_tileTab (t : TrapReq) : (s.takeTrap t).tileTab = s.tileTab := by rcases takeTrap_cases s t with h | h | h <;> simp [h]
@[simp] theorem takeTrap_ways (t : TrapReq) : (s.takeTrap t).ways = s.ways := by rcases takeTrap_cases s t with h | h | h <;> simp [h]
@[simp] theorem takeTrap_peers (t : TrapReq) : (s.takeTrap t).peers = s.peers := by rcases takeTrap_cases s t with h | h | h <;> simp [h]
@[simp] theorem takeTrap_portsUp (t : TrapReq) : (s.takeTrap t).portsUp = s.portsUp := by rcases takeTrap_cases s t with h | h | h <;> simp [h]
@[simp] theorem takeTrap_netOut (t : TrapReq) : (s.takeTrap t).netOut = s.netOut := by rcases takeTrap_cases s t with h | h | h <;> simp [h]
@[simp] theorem takeTrap_partmap (t : TrapReq) : (s.takeTrap t).partmap = s.partmap := by rcases takeTrap_cases s t with h | h | h <;> simp [h]
@[simp] theorem takeTrap_keyctl (t : TrapReq) : (s.takeTrap t).keyctl = s.keyctl := by rcases takeTrap_cases s t with h | h | h <;> simp [h]
@[simp] theorem takeTrap_fwslot (t : TrapReq) : (s.takeTrap t).fwslot = s.fwslot := by rcases takeTrap_cases s t with h | h | h <;> simp [h]
@[simp] theorem takeTrap_ctlb (t : TrapReq) : (s.takeTrap t).ctlb = s.ctlb := by rcases takeTrap_cases s t with h | h | h <;> simp [h]
@[simp] theorem takeTrap_queues (t : TrapReq) : (s.takeTrap t).queues = s.queues := by rcases takeTrap_cases s t with h | h | h <;> simp [h]
@[simp] theorem takeTrap_images (t : TrapReq) : (s.takeTrap t).images = s.images := by rcases takeTrap_cases s t with h | h | h <;> simp [h]
@[simp] theorem takeTrap_launchGen (t : TrapReq) : (s.takeTrap t).launchGen = s.launchGen := by rcases takeTrap_cases s t with h | h | h <;> simp [h]
@[simp] theorem takeTrap_sites (t : TrapReq) : (s.takeTrap t).sites = s.sites := by rcases takeTrap_cases s t with h | h | h <;> simp [h]
@[simp] theorem takeTrap_preempts (t : TrapReq) : (s.takeTrap t).preempts = s.preempts := by rcases takeTrap_cases s t with h | h | h <;> simp [h]
@[simp] theorem takeTrap_saved (t : TrapReq) : (s.takeTrap t).saved = s.saved := by rcases takeTrap_cases s t with h | h | h <;> simp [h]
@[simp] theorem takeTrap_logV (t : TrapReq) : (s.takeTrap t).logV = s.logV := by rcases takeTrap_cases s t with h | h | h <;> simp [h]
@[simp] theorem takeTrap_logD (t : TrapReq) : (s.takeTrap t).logD = s.logD := by rcases takeTrap_cases s t with h | h | h <;> simp [h]
@[simp] theorem takeTrap_srcSeq (t : TrapReq) : (s.takeTrap t).srcSeq = s.srcSeq := by rcases takeTrap_cases s t with h | h | h <;> simp [h]
@[simp] theorem takeTrap_srcLost (t : TrapReq) : (s.takeTrap t).srcLost = s.srcLost := by rcases takeTrap_cases s t with h | h | h <;> simp [h]
@[simp] theorem takeTrap_notices (t : TrapReq) : (s.takeTrap t).notices = s.notices := by rcases takeTrap_cases s t with h | h | h <;> simp [h]
@[simp] theorem takeTrap_boot (t : TrapReq) : (s.takeTrap t).boot = s.boot := by rcases takeTrap_cases s t with h | h | h <;> simp [h]
@[simp] theorem takeTrap_l2v (t : TrapReq) : (s.takeTrap t).l2v = s.l2v := by rcases takeTrap_cases s t with h | h | h <;> simp [h]
@[simp] theorem takeTrap_l2d (t : TrapReq) : (s.takeTrap t).l2d = s.l2d := by rcases takeTrap_cases s t with h | h | h <;> simp [h]
@[simp] theorem takeTrap_owned (t : TrapReq) : (s.takeTrap t).owned = s.owned := by rcases takeTrap_cases s t with h | h | h <;> simp [h]
@[simp] theorem takeTrap_busy (t : TrapReq) : (s.takeTrap t).busy = s.busy := by rcases takeTrap_cases s t with h | h | h <;> simp [h]
@[simp] theorem takeTrap_arrived (t : TrapReq) : (s.takeTrap t).arrived = s.arrived := by rcases takeTrap_cases s t with h | h | h <;> simp [h]
@[simp] theorem takeTrap_grade (t : TrapReq) : (s.takeTrap t).grade = s.grade := by rcases takeTrap_cases s t with h | h | h <;> simp [h]
@[simp] theorem takeTrap_inbox (t : TrapReq) : (s.takeTrap t).inbox = s.inbox := by rcases takeTrap_cases s t with h | h | h <;> simp [h]
@[simp] theorem takeTrap_agenda (t : TrapReq) : (s.takeTrap t).agenda = s.agenda := by rcases takeTrap_cases s t with h | h | h <;> simp [h]
@[simp] theorem takeTrap_fresh (t : TrapReq) : (s.takeTrap t).fresh = s.fresh := by rcases takeTrap_cases s t with h | h | h <;> simp [h]

end

/-! ### Error records (R401 to R403) -/

section
variable (s : State) (src cls cause : Nat) (addr detail : Word)

/-- An error record changes the logs and their counts alone. -/
theorem record_eq : ∃ a b c d, s.record src cls cause addr detail = { s with logV := a, logD := b, srcSeq := c, srcLost := d } := by
  unfold State.record
  simp only []
  repeat' split
  all_goals exact ⟨_, _, _, _, rfl⟩

@[simp] theorem record_core : (s.record src cls cause addr detail).core = s.core := by obtain ⟨_, _, _, _, h⟩ := record_eq s src cls cause addr detail; rw [h]
@[simp] theorem record_others : (s.record src cls cause addr detail).others = s.others := by obtain ⟨_, _, _, _, h⟩ := record_eq s src cls cause addr detail; rw [h]
@[simp] theorem record_mem : (s.record src cls cause addr detail).mem = s.mem := by obtain ⟨_, _, _, _, h⟩ := record_eq s src cls cause addr detail; rw [h]
@[simp] theorem record_lines : (s.record src cls cause addr detail).lines = s.lines := by obtain ⟨_, _, _, _, h⟩ := record_eq s src cls cause addr detail; rw [h]
@[simp] theorem record_tags : (s.record src cls cause addr detail).tags = s.tags := by obtain ⟨_, _, _, _, h⟩ := record_eq s src cls cause addr detail; rw [h]
@[simp] theorem record_bad : (s.record src cls cause addr detail).bad = s.bad := by obtain ⟨_, _, _, _, h⟩ := record_eq s src cls cause addr detail; rw [h]
@[simp] theorem record_flips : (s.record src cls cause addr detail).flips = s.flips := by obtain ⟨_, _, _, _, h⟩ := record_eq s src cls cause addr detail; rw [h]
@[simp] theorem record_repairs : (s.record src cls cause addr detail).repairs = s.repairs := by obtain ⟨_, _, _, _, h⟩ := record_eq s src cls cause addr detail; rw [h]
@[simp] theorem record_held : (s.record src cls cause addr detail).held = s.held := by obtain ⟨_, _, _, _, h⟩ := record_eq s src cls cause addr detail; rw [h]
@[simp] theorem record_tiles : (s.record src cls cause addr detail).tiles = s.tiles := by obtain ⟨_, _, _, _, h⟩ := record_eq s src cls cause addr detail; rw [h]
@[simp] theorem record_tileFmts : (s.record src cls cause addr detail).tileFmts = s.tileFmts := by obtain ⟨_, _, _, _, h⟩ := record_eq s src cls cause addr detail; rw [h]
@[simp] theorem record_scopeGang : (s.record src cls cause addr detail).scopeGang = s.scopeGang := by obtain ⟨_, _, _, _, h⟩ := record_eq s src cls cause addr detail; rw [h]
@[simp] theorem record_scopeEns : (s.record src cls cause addr detail).scopeEns = s.scopeEns := by obtain ⟨_, _, _, _, h⟩ := record_eq s src cls cause addr detail; rw [h]
@[simp] theorem record_scopePkg : (s.record src cls cause addr detail).scopePkg = s.scopePkg := by obtain ⟨_, _, _, _, h⟩ := record_eq s src cls cause addr detail; rw [h]
@[simp] theorem record_blocks : (s.record src cls cause addr detail).blocks = s.blocks := by obtain ⟨_, _, _, _, h⟩ := record_eq s src cls cause addr detail; rw [h]
@[simp] theorem record_depthtab : (s.record src cls cause addr detail).depthtab = s.depthtab := by obtain ⟨_, _, _, _, h⟩ := record_eq s src cls cause addr detail; rw [h]
@[simp] theorem record_seqs : (s.record src cls cause addr detail).seqs = s.seqs := by obtain ⟨_, _, _, _, h⟩ := record_eq s src cls cause addr detail; rw [h]
@[simp] theorem record_ready : (s.record src cls cause addr detail).ready = s.ready := by obtain ⟨_, _, _, _, h⟩ := record_eq s src cls cause addr detail; rw [h]
@[simp] theorem record_posts : (s.record src cls cause addr detail).posts = s.posts := by obtain ⟨_, _, _, _, h⟩ := record_eq s src cls cause addr detail; rw [h]
@[simp] theorem record_waiters : (s.record src cls cause addr detail).waiters = s.waiters := by obtain ⟨_, _, _, _, h⟩ := record_eq s src cls cause addr detail; rw [h]
@[simp] theorem record_rllim : (s.record src cls cause addr detail).rllim = s.rllim := by obtain ⟨_, _, _, _, h⟩ := record_eq s src cls cause addr detail; rw [h]
@[simp] theorem record_scrQ : (s.record src cls cause addr detail).scrQ = s.scrQ := by obtain ⟨_, _, _, _, h⟩ := record_eq s src cls cause addr detail; rw [h]
@[simp] theorem record_tileTab : (s.record src cls cause addr detail).tileTab = s.tileTab := by obtain ⟨_, _, _, _, h⟩ := record_eq s src cls cause addr detail; rw [h]
@[simp] theorem record_ways : (s.record src cls cause addr detail).ways = s.ways := by obtain ⟨_, _, _, _, h⟩ := record_eq s src cls cause addr detail; rw [h]
@[simp] theorem record_peers : (s.record src cls cause addr detail).peers = s.peers := by obtain ⟨_, _, _, _, h⟩ := record_eq s src cls cause addr detail; rw [h]
@[simp] theorem record_portsUp : (s.record src cls cause addr detail).portsUp = s.portsUp := by obtain ⟨_, _, _, _, h⟩ := record_eq s src cls cause addr detail; rw [h]
@[simp] theorem record_netOut : (s.record src cls cause addr detail).netOut = s.netOut := by obtain ⟨_, _, _, _, h⟩ := record_eq s src cls cause addr detail; rw [h]
@[simp] theorem record_partmap : (s.record src cls cause addr detail).partmap = s.partmap := by obtain ⟨_, _, _, _, h⟩ := record_eq s src cls cause addr detail; rw [h]
@[simp] theorem record_keyctl : (s.record src cls cause addr detail).keyctl = s.keyctl := by obtain ⟨_, _, _, _, h⟩ := record_eq s src cls cause addr detail; rw [h]
@[simp] theorem record_fwslot : (s.record src cls cause addr detail).fwslot = s.fwslot := by obtain ⟨_, _, _, _, h⟩ := record_eq s src cls cause addr detail; rw [h]
@[simp] theorem record_ctlb : (s.record src cls cause addr detail).ctlb = s.ctlb := by obtain ⟨_, _, _, _, h⟩ := record_eq s src cls cause addr detail; rw [h]
@[simp] theorem record_queues : (s.record src cls cause addr detail).queues = s.queues := by obtain ⟨_, _, _, _, h⟩ := record_eq s src cls cause addr detail; rw [h]
@[simp] theorem record_launches : (s.record src cls cause addr detail).launches = s.launches := by obtain ⟨_, _, _, _, h⟩ := record_eq s src cls cause addr detail; rw [h]
@[simp] theorem record_images : (s.record src cls cause addr detail).images = s.images := by obtain ⟨_, _, _, _, h⟩ := record_eq s src cls cause addr detail; rw [h]
@[simp] theorem record_launchGen : (s.record src cls cause addr detail).launchGen = s.launchGen := by obtain ⟨_, _, _, _, h⟩ := record_eq s src cls cause addr detail; rw [h]
@[simp] theorem record_sites : (s.record src cls cause addr detail).sites = s.sites := by obtain ⟨_, _, _, _, h⟩ := record_eq s src cls cause addr detail; rw [h]
@[simp] theorem record_preempts : (s.record src cls cause addr detail).preempts = s.preempts := by obtain ⟨_, _, _, _, h⟩ := record_eq s src cls cause addr detail; rw [h]
@[simp] theorem record_saved : (s.record src cls cause addr detail).saved = s.saved := by obtain ⟨_, _, _, _, h⟩ := record_eq s src cls cause addr detail; rw [h]
@[simp] theorem record_notices : (s.record src cls cause addr detail).notices = s.notices := by obtain ⟨_, _, _, _, h⟩ := record_eq s src cls cause addr detail; rw [h]
@[simp] theorem record_boot : (s.record src cls cause addr detail).boot = s.boot := by obtain ⟨_, _, _, _, h⟩ := record_eq s src cls cause addr detail; rw [h]
@[simp] theorem record_l2v : (s.record src cls cause addr detail).l2v = s.l2v := by obtain ⟨_, _, _, _, h⟩ := record_eq s src cls cause addr detail; rw [h]
@[simp] theorem record_l2d : (s.record src cls cause addr detail).l2d = s.l2d := by obtain ⟨_, _, _, _, h⟩ := record_eq s src cls cause addr detail; rw [h]
@[simp] theorem record_owned : (s.record src cls cause addr detail).owned = s.owned := by obtain ⟨_, _, _, _, h⟩ := record_eq s src cls cause addr detail; rw [h]
@[simp] theorem record_busy : (s.record src cls cause addr detail).busy = s.busy := by obtain ⟨_, _, _, _, h⟩ := record_eq s src cls cause addr detail; rw [h]
@[simp] theorem record_arrived : (s.record src cls cause addr detail).arrived = s.arrived := by obtain ⟨_, _, _, _, h⟩ := record_eq s src cls cause addr detail; rw [h]
@[simp] theorem record_grade : (s.record src cls cause addr detail).grade = s.grade := by obtain ⟨_, _, _, _, h⟩ := record_eq s src cls cause addr detail; rw [h]
@[simp] theorem record_inbox : (s.record src cls cause addr detail).inbox = s.inbox := by obtain ⟨_, _, _, _, h⟩ := record_eq s src cls cause addr detail; rw [h]
@[simp] theorem record_agenda : (s.record src cls cause addr detail).agenda = s.agenda := by obtain ⟨_, _, _, _, h⟩ := record_eq s src cls cause addr detail; rw [h]
@[simp] theorem record_fresh : (s.record src cls cause addr detail).fresh = s.fresh := by obtain ⟨_, _, _, _, h⟩ := record_eq s src cls cause addr detail; rw [h]

end

end Sys2Proof.Machine
end

