-- ==== Sys2Proof/Laws/Access.lean ====
section
/-! SUPPORT. Once for each shared operation that writes memory: it keeps the canonical form, which bytes it changes, and what of the
state it leaves. The provers cite these instead of unfolding the operations. -/

namespace Sys2Proof.Machine

/-! ### Records of errors -/

@[simp] theorem coreRecord_mem (s : State) (cls cause : Nat) (a d : Word) : (s.coreRecord cls cause a d).mem = s.mem := record_mem ..
@[simp] theorem coreRecord_core (s : State) (cls cause : Nat) (a d : Word) : (s.coreRecord cls cause a d).core = s.core := record_core ..
@[simp] theorem coreRecord_others (s : State) (cls cause : Nat) (a d : Word) : (s.coreRecord cls cause a d).others = s.others := record_others ..
/-- A property of states that every element of a fold keeps holds at its end. -/
theorem foldl_keeps {α β : Type} (P : α → Prop) (f : α → β → α) (hf : ∀ a b, P a → P (f a b)) : ∀ (l : List β) (a : α), P a → P (l.foldl f a)
  | [], _, h => h
  | b :: l, a, h => foldl_keeps P f hf l (f a b) (hf a b h)

/-- A correction that is counted leaves memory and cores. -/
@[simp] theorem countFix_mem (s : State) (st : RowStore) (b r k : Nat) : (s.countFix st b r k).mem = s.mem := by
  simp only [State.countFix]; split <;> simp only [record_mem]
@[simp] theorem countFix_core (s : State) (st : RowStore) (b r k : Nat) : (s.countFix st b r k).core = s.core := by
  simp only [State.countFix]; split <;> simp only [record_core]
@[simp] theorem countFix_others (s : State) (st : RowStore) (b r k : Nat) : (s.countFix st b r k).others = s.others := by
  simp only [State.countFix]; split <;> simp only [record_others]
@[simp] theorem countRead_mem (s : State) (k n : Nat) : (s.countRead k n).mem = s.mem :=
  foldl_keeps (fun t : State => t.mem = s.mem) _ (fun _ _ h => (countFix_mem ..).trans h) _ s rfl
@[simp] theorem countRead_core (s : State) (k n : Nat) : (s.countRead k n).core = s.core :=
  foldl_keeps (fun t : State => t.core = s.core) _ (fun _ _ h => (countFix_core ..).trans h) _ s rfl
@[simp] theorem countRead_others (s : State) (k n : Nat) : (s.countRead k n).others = s.others :=
  foldl_keeps (fun t : State => t.others = s.others) _ (fun _ _ h => (countFix_others ..).trans h) _ s rfl
@[simp] theorem countMerged_mem (s : State) (k n : Nat) : (s.countMerged k n).mem = s.mem :=
  foldl_keeps (fun t : State => t.mem = s.mem) _ (fun _ _ h => (countFix_mem ..).trans h) _ s rfl
@[simp] theorem countMerged_core (s : State) (k n : Nat) : (s.countMerged k n).core = s.core :=
  foldl_keeps (fun t : State => t.core = s.core) _ (fun _ _ h => (countFix_core ..).trans h) _ s rfl
@[simp] theorem countMerged_others (s : State) (k n : Nat) : (s.countMerged k n).others = s.others :=
  foldl_keeps (fun t : State => t.others = s.others) _ (fun _ _ h => (countFix_others ..).trans h) _ s rfl

@[simp] theorem writeUnits_mem (s : State) (k n : Nat) : (s.writeUnits k n).mem = s.mem := by simp only [State.writeUnits]; split <;> simp
@[simp] theorem writeUnits_core (s : State) (k n : Nat) : (s.writeUnits k n).core = s.core := by simp only [State.writeUnits]; split <;> simp
@[simp] theorem writeUnits_others (s : State) (k n : Nat) : (s.writeUnits k n).others = s.others := by
  simp only [State.writeUnits]; split <;> simp

/-! ### Bytes (R4, R212, R223, R331) -/

/-- The bytes that one write leaves in memory. -/
def putLoop (fg : Nat → Bool) (k : Nat) (m : Mem) (data : List Byte) : Nat × Mem :=
  data.foldl (fun (a : Nat × Mem) b => (a.1 + 1, if fg a.1 then a.2 else memPut a.2 a.1 b)) (k, m)

theorem putBytes_mem (s : State) (k : Nat) (data : List Byte) : (s.putBytes k data).mem = (putLoop s.fgByte k s.mem data).2 := rfl
@[simp] theorem putBytes_core (s : State) (k : Nat) (data : List Byte) : (s.putBytes k data).core = s.core :=
  foldl_keeps (fun t : State => t.core = s.core) _ (fun _ _ h => (writeUnits_core ..).trans h) _ s rfl
@[simp] theorem putBytes_others (s : State) (k : Nat) (data : List Byte) : (s.putBytes k data).others = s.others :=
  foldl_keeps (fun t : State => t.others = s.others) _ (fun _ _ h => (writeUnits_others ..).trans h) _ s rfl

theorem wf_ite {m : Mem} (h : m.wf = true) {c : Bool} (k : Nat) (b : Byte) : (if c then m else memPut m k b).wf = true := by
  split
  · exact h
  · exact wf_memPut h k b
theorem putLoop_wf (fg : Nat → Bool) : ∀ (data : List Byte) (k : Nat) {m : Mem}, m.wf = true → (putLoop fg k m data).2.wf = true
  | [], _, _, h => h
  | b :: r, k, m, h => by
    have : putLoop fg k m (b :: r) = putLoop fg (k + 1) (if fg k then m else memPut m k b) r := rfl
    rw [this]
    exact putLoop_wf fg r (k + 1) (wf_ite h k b)

/-- A byte outside the write stays, and so does one of an (F, G) word; any other byte is the one written. -/
theorem putLoop_get (fg : Nat → Bool) : ∀ (data : List Byte) (k : Nat) {m : Mem}, m.wf = true → ∀ i,
    memGet (putLoop fg k m data).2 i = if k ≤ i ∧ i < k + data.length ∧ fg i = false then data.getD (i - k) 0#8 else memGet m i
  | [], k, m, _, i => by simp [putLoop]; omega
  | b :: r, k, m, h, i => by
    have e : putLoop fg k m (b :: r) = putLoop fg (k + 1) (if fg k then m else memPut m k b) r := rfl
    rw [e, putLoop_get fg r (k + 1) (wf_ite h k b) i]
    by_cases hi : i = k
    · subst hi
      rw [if_neg (by omega)]
      cases hf : fg i with
      | true => simp
      | false => simp [memGet_memPut h]
    · have hm : memGet (if fg k then m else memPut m k b) i = memGet m i := by
        split
        · rfl
        · rw [memGet_memPut h, if_neg hi]
      rw [hm]
      by_cases hk : k ≤ i
      · rw [show i - k = (i - (k + 1)) + 1 by omega, List.getD_cons_succ, List.length_cons]
        by_cases hc : k + 1 ≤ i ∧ i < k + 1 + r.length ∧ fg i = false
        · rw [if_pos hc, if_pos ⟨hk, by omega, hc.2.2⟩]
        · rw [if_neg hc, if_neg (fun x => hc ⟨by omega, by omega, x.2.2⟩)]
      · rw [if_neg (by omega), if_neg (by omega)]

/-- A write keeps the canonical form. -/
theorem putBytes_wf {s : State} (h : s.mem.wf = true) (k : Nat) (data : List Byte) : (s.putBytes k data).mem.wf = true := by
  rw [putBytes_mem]; exact putLoop_wf s.fgByte data k h

/-- What a byte reads as after a write. -/
theorem putBytes_get {s : State} (h : s.mem.wf = true) (k : Nat) (data : List Byte) (i : Nat) :
    memGet (s.putBytes k data).mem i = if k ≤ i ∧ i < k + data.length ∧ s.fgByte i = false then data.getD (i - k) 0#8 else memGet s.mem i := by
  rw [putBytes_mem]; exact putLoop_get s.fgByte data k h i

/-- Bytes outside the write stay. -/
theorem putBytes_out {s : State} (h : s.mem.wf = true) {k i : Nat} {data : List Byte} (o : i < k ∨ k + data.length ≤ i) :
    memGet (s.putBytes k data).mem i = memGet s.mem i := by
  rw [putBytes_get h, if_neg (by omega)]

theorem putPieces_wf {s : State} (h : s.mem.wf = true) (ps : List StorePiece) : (s.putPieces ps).mem.wf = true :=
  foldl_keeps (fun s : State => s.mem.wf = true) _ (fun _ p h => putBytes_wf h p.key p.data) ps s h
@[simp] theorem putPieces_core (s : State) (ps : List StorePiece) : (s.putPieces ps).core = s.core :=
  foldl_keeps (fun t : State => t.core = s.core) _ (fun _ p h => (putBytes_core _ p.key p.data).trans h) ps s rfl
@[simp] theorem modInst_mem (s : State) (slot idx : Nat) (f : Inst → Inst) : (s.modInst slot idx f).mem = s.mem := rfl
@[simp] theorem modInst_core (s : State) (slot idx : Nat) (f : Inst → Inst) : (s.modInst slot idx f).core = s.core := rfl
theorem bufPut_wf {s : State} (h : s.mem.wf = true) (c : Core) (ps : List StorePiece) : (s.bufPut c ps).mem.wf = true := by
  unfold State.bufPut; split
  · exact h
  · exact h

/-! ### Lines and clocks (R224, R230, R232) -/

@[simp] theorem tick_mem (s : State) : s.tick.mem = s.mem := rfl
@[simp] theorem touchL2_mem (s : State) (l : Nat) (d : Bool) : (s.touchL2 l d).mem = s.mem := by
  simp only [State.touchL2]; (repeat' split) <;> rfl
@[simp] theorem touchL2_core (s : State) (l : Nat) (d : Bool) : (s.touchL2 l d).core = s.core := by
  simp only [State.touchL2]; (repeat' split) <;> rfl
@[simp] theorem atHome_mem (s : State) (l : Nat) (w : Bool) : (s.atHome l w).mem = s.mem := touchL2_mem ..
@[simp] theorem atHome_core (s : State) (l : Nat) (w : Bool) : (s.atHome l w).core = s.core := touchL2_core ..
@[simp] theorem putL1_mem (s : State) (l : Lease) : (s.putL1 l).mem = s.mem := by
  simp only [State.putL1]; (repeat' split) <;> simp
@[simp] theorem putL1_regs (s : State) (l : Lease) : (s.putL1 l).core.regs = s.core.regs := by
  simp only [State.putL1]; (repeat' split) <;> simp [State.tick]
@[simp] theorem putL2d_mem (s : State) (l : Lease) : (s.putL2d l).mem = s.mem := by
  simp only [State.putL2d]; split <;> rfl
@[simp] theorem putL2d_core (s : State) (l : Lease) : (s.putL2d l).core = s.core := by
  simp only [State.putL2d]; split <;> rfl
@[simp] theorem grantLease_mem (s : State) (l : Nat) : (s.grantLease l).mem = s.mem := by
  simp only [State.grantLease]; split <;> simp
@[simp] theorem ownLine_mem (s : State) (k : Nat) : (s.ownLine k).mem = s.mem := by
  simp only [State.ownLine]; (repeat' split) <;> simp
@[simp] theorem ownLine_regs (s : State) (k : Nat) : (s.ownLine k).core.regs = s.core.regs := by
  simp only [State.ownLine]; (repeat' split) <;> simp
@[simp] theorem refresh_mem (s : State) (k : Nat) : (s.refresh k).mem = s.mem := rfl
@[simp] theorem refresh_regs (s : State) (k : Nat) : (s.refresh k).core.regs = s.core.regs := rfl
@[simp] theorem dropOwn_mem (s : State) (k : Nat) : (s.dropOwn k).mem = s.mem := by
  simp only [State.dropOwn]; split <;> rfl
@[simp] theorem engineLine_mem (s : State) (c k : Nat) : (s.engineLine c k).1.mem = s.mem := by
  simp only [State.engineLine]; split <;> simp
@[simp] theorem engineLine_core (s : State) (c k : Nat) : (s.engineLine c k).1.core = s.core := by
  simp only [State.engineLine]; split <;> simp
@[simp] theorem leaseLine_mem (s : State) (k : Nat) : (s.leaseLine k).1.mem = s.mem := by
  simp only [State.leaseLine]; (repeat' split) <;> simp
theorem storeOwned_wf {s : State} (h : s.mem.wf = true) (ps : List StorePiece) : (s.storeOwned ps).mem.wf = true :=
  foldl_keeps (fun s : State => s.mem.wf = true) _ (fun _ _ h => by simpa using h) ps _
    (putPieces_wf (foldl_keeps (fun s : State => s.mem.wf = true) _ (fun _ _ h => by simpa using h) ps s h) ps)
@[simp] theorem readPieces_mem (s : State) (base : Vec) (ps : List LoadPiece) : (s.readPieces base ps).1.mem = s.mem :=
  foldl_keeps (fun a : State × Vec => a.1.mem = s.mem) _ (fun a p h => (leaseLine_mem a.1 p.key).trans h) ps (s, base) rfl
@[simp] theorem fill_mem (s : State) (i t : Nat) (v : Vec) (x : Bool) (b : Option Word) (y : Bool) : (s.fill i t v x b y).mem = s.mem := rfl
@[simp] theorem fill_regs (s : State) (i t : Nat) (v : Vec) (x : Bool) (b : Option Word) (y : Bool) :
    (s.fill i t v x b y).core.regs = s.core.regs := rfl
@[simp] theorem readClock_mem (s : State) (c : Nat) (rs : List Run) : (s.readClock c rs).1.mem = s.mem := by
  unfold State.readClock
  apply foldl_keeps (fun a : State × Nat => a.1.mem = s.mem)
  · intro a b h; exact (atHome_mem ..).trans h
  · rfl
@[simp] theorem readClock_core (s : State) (c : Nat) (rs : List Run) : (s.readClock c rs).1.core = s.core := by
  unfold State.readClock
  apply foldl_keeps (fun a : State × Nat => a.1.core = s.core)
  · intro a b h; exact (atHome_core ..).trans h
  · rfl

/-! ### Atomics and barrier objects (R232, R240, R248) -/

theorem rmw_wf {s : State} (h : s.mem.wf = true) (k n : Nat) (f : Nat → Option Nat) (sc : Bool) : (s.rmw k n f sc).1.mem.wf = true := by
  have put : ∀ t : State, t.mem.wf = true → ∀ x : Option Nat, (match x with | none => t | some v => t.putBytes k (natBytes v n)).mem.wf = true := by
    intro t ht x; cases x
    · exact ht
    · exact putBytes_wf ht ..
  have own : (s.ownLine k).mem.wf = true := by simpa using h
  have drop : (s.dropOwn k).mem.wf = true := by simpa using h
  unfold State.rmw; cases sc
  · by_cases hk : isHostKey k = true
    · simp only [hk, if_true, Bool.false_eq_true, if_false]; exact put _ drop _
    · simp only [hk, Bool.false_eq_true, if_false]; exact put _ drop _
  · exact put _ own _
theorem boUpdate_wf {s : State} (h : s.mem.wf = true) (k : Nat) (f : Nat → Nat) : (s.boUpdate k f).mem.wf = true := by
  unfold State.boUpdate; dsimp only; split
  · exact bufPut_wf h ..
  · exact putBytes_wf h ..
/-- For a core that is not provisional an object takes its new value, and no other byte changes. -/
theorem boUpdate_eq {s : State} (h : s.core.prov = false) (k : Nat) (f : Nat → Nat) :
    s.boUpdate k f = s.putBytes k (natBytes (f (s.boRead k)) 16) := by simp [State.boUpdate, h]
theorem boSet_wf {s : State} (h : s.mem.wf = true) (k e : Nat) (arm : Bool) : (s.boSet k e arm).mem.wf = true := boUpdate_wf h ..
theorem engineDone_wf {s : State} (h : s.mem.wf = true) (o n t : Nat) : (s.engineDone o n t).mem.wf = true := boUpdate_wf h ..
theorem engineFault_wf {s : State} (h : s.mem.wf = true) (o c : Nat) (x : Option Word) : (s.engineFault o c x).mem.wf = true := by
  unfold State.engineFault; apply boUpdate_wf; (repeat' split) <;> simpa using h
@[simp] theorem atomicOld_mem (s : State) (u : AtUse) (k n o : Nat) (e : Option Nat) : (s.atomicOld u k n o e).1.mem = s.mem := by
  simp only [State.atomicOld]; split <;> rfl
theorem performAtomic_wf {s : State} (h : s.mem.wf = true) (a : Coh) (u : AtUse) (k n : Nat) (ad : Word) (e : Option Nat)
    (f : Nat → Option Nat) (r : Nat → Vec) : (s.performAtomic a u k n ad e f r).mem.wf = true := by
  unfold State.performAtomic; split
  · exact h
  · have := rmw_wf (s := (s.atomicOld u k n (memNat s.mem k n) e).1) (by simpa using h) k n f (u == .sc)
    dsimp only; split <;> exact this

/-! ### Accesses at their place (R212, R223, R264) -/

/-- A coherent access at its place in T keeps the canonical form. -/
theorem performCoh_wf {s : State} (h : s.mem.wf = true) (a : Coh) : (s.performCoh a).mem.wf = true := by
  unfold State.performCoh; split
  · simpa using h
  · split
    · exact bufPut_wf h _ _
    · exact storeOwned_wf h _
  · exact performAtomic_wf h ..
  · exact performAtomic_wf h ..
  · exact boSet_wf h ..
  · dsimp only; split <;> simpa using h
@[simp] theorem readSched_mem (s : State) (b : Vec) (ps : List LoadPiece) : (s.readSched b ps).1.mem = s.mem :=
  foldl_keeps (fun a : State × Vec => a.1.mem = s.mem) _ (fun a p h => (countRead_mem a.1 p.key p.n).trans h) ps (s, b) rfl
theorem netSend_wf {s : State} (h : s.mem.wf = true) (a b c : Nat) (n : NetBody) : (s.netSend a b c n).mem.wf = true := by
  unfold State.netSend; split <;> exact h
theorem sendRead_wf {s : State} (h : s.mem.wf = true) (a : Sched) (k lat : Nat) (d : SendTo) (c : RegNo) (q : Nat) :
    (s.sendRead a k lat d c q).mem.wf = true := by
  have h' : (s.countRead k 64).mem.wf = true := by rw [countRead_mem]; exact h
  unfold State.sendRead; dsimp only; split
  · split
    · exact h'
    · show (State.coreRecord _ _ _ _ _).mem.wf = true
      rw [coreRecord_mem]; exact h'
  · split
    · exact h'
    · exact netSend_wf h' ..
/-- A scheduled access at its perform cycle keeps it. -/
theorem performSched_wf {s : State} (h : s.mem.wf = true) (a : Sched) : (s.performSched a).mem.wf = true := by
  unfold State.performSched; split
  · simpa using h
  · exact putPieces_wf h _
  · exact boSet_wf h ..
  · exact sendRead_wf h ..

/-- Acting as another core keeps what the action keeps. -/
theorem on_wf {s : State} (n : Nat) (f : State → State) (hf : ∀ t : State, t.mem.wf = true → (f t).mem.wf = true) (h : s.mem.wf = true) :
    (s.on n f).mem.wf = true := by
  unfold State.on; split
  · exact h
  · rw [focus_mem]; exact hf _ (by rw [focus_mem]; exact h)
theorem chunkDone_wf {s : State} (h : s.mem.wf = true) (q : Nat) : (s.chunkDone q).mem.wf = true := by
  unfold State.chunkDone; split
  · exact h
  · split
    · exact h
    · exact h
theorem countChunk_wf {s : State} (h : s.mem.wf = true) (c : Chunk) : (s.countChunk c).mem.wf = true := by
  unfold State.countChunk; dsimp only; split
  · rw [modAt_mem]; exact h
  · exact on_wf _ _ (fun _ h => chunkDone_wf h _) (by rw [modAt_mem]; exact h)
theorem performChunk_wf {s : State} (h : s.mem.wf = true) (c : Chunk) : (s.performChunk c).mem.wf = true := countChunk_wf (putBytes_wf h ..) c
theorem placeChunk_wf {s : State} (h : s.mem.wf = true) (c : Chunk) : (s.placeChunk c).mem.wf = true := by
  unfold State.placeChunk; dsimp only; split
  · exact performChunk_wf (s := s.takeBanks _ _) h c
  · exact putBytes_wf (s := s.takeBanks _ _) h ..
theorem arriveChunk_wf {s : State} (h : s.mem.wf = true) (c : Chunk) : (s.arriveChunk c).mem.wf = true := by
  unfold State.arriveChunk; split
  · exact h
  · exact placeChunk_wf h c

/-! ### Engines, the front end, the Scruple, save and restore (R255, R298, R331, R381) -/

theorem writeRun_wf {s : State} (h : s.mem.wf = true) (c k : Nat) (data : List Byte) : (s.writeRun c k data).1.mem.wf = true := by
  unfold State.writeRun; split
  · exact putBytes_wf h ..
  · split
    · exact bufPut_wf h ..
    · exact putBytes_wf (foldl_keeps (fun a : State × Nat => a.1.mem.wf = true) _ (fun _ _ h => by simpa using h) _ (s, c) h) ..
theorem writeRuns_wf {s : State} (h : s.mem.wf = true) (c : Nat) (rs : List Run) (data : List Byte) :
    (s.writeRuns c rs data).1.mem.wf = true :=
  foldl_keeps (fun a : State × Nat × Nat × List Byte => a.1.mem.wf = true) _ (fun _ r h => writeRun_wf h _ r.1 _) rs (s, c, 0, data) h
theorem movePieces_wf {s : State} (h : s.mem.wf = true) (c : Nat) (ps : List Piece) : (s.movePieces c ps).1.mem.wf = true :=
  writeRuns_wf (s := (s.readClock c (ps.map Piece.src).flatten).1) (by rw [readClock_mem]; exact h) _ _ _
theorem mirror_wf {s : State} (h : s.mem.wf = true) (q : Queue) : (s.mirror q).mem.wf = true := by
  unfold State.mirror
  refine foldl_keeps (fun s : State => s.mem.wf = true) _ ?_ _ s h
  intro a b ha
  exact putBytes_wf (s := (a.engineLine 0 _).1) (by rw [engineLine_mem]; exact ha) _ _
theorem putQueue_wf {s : State} (h : s.mem.wf = true) (q : Queue) : (s.putQueue q).mem.wf = true := by
  unfold State.putQueue
  refine mirror_wf ?_ q
  exact h
theorem grant_wf {s : State} (h : s.mem.wf = true) : s.grant.mem.wf = true :=
  foldl_keeps (fun s : State => s.mem.wf = true) _ (fun _ _ h => putQueue_wf h _) _ s h
theorem settle_wf {s : State} (h : s.mem.wf = true) (q : Queue) : (s.settle q).mem.wf = true := grant_wf (putQueue_wf h _)
theorem asFront_wf {α : Type} {s : State} (h : s.mem.wf = true) (p : Nat) (a : BitVec 16) (f : State → State × α)
    (hf : ∀ t : State, t.mem.wf = true → (f t).1.mem.wf = true) : (s.asFront p a f).1.mem.wf = true := hf _ h
theorem frontWrite_wf {s : State} (h : s.mem.wf = true) (p : Nat) (a : BitVec 16) (ad c : Nat) (data : List Byte) :
    (s.frontWrite p a ad c data).1.mem.wf = true :=
  asFront_wf h p a _ fun t ht => by
    split
    · exact writeRuns_wf ht ..
    · exact ht
theorem fgWrite_wf {s : State} (h : s.mem.wf = true) (k c f g : Nat) : (s.fgWrite k c f g).1.mem.wf = true := by
  simp only [State.fgWrite]; exact wf_memPutList _ _ (by simpa using h)
/-- Merging saved bytes back keeps the form, whatever was saved and wherever it goes (R381). -/
theorem restoreBytes_wf (g : Nat → Nat) (l : List (Nat × Byte)) {m : Mem} (h : m.wf = true) :
    (l.foldl (fun m p => memPut m (g p.1) p.2) m).wf = true :=
  foldl_keeps (fun m : Mem => m.wf = true) _ (fun _ p h => wf_memPut h (g p.1) p.2) l m h
@[simp] theorem putCore_mem (s : State) (c : Core) : (s.putCore c).mem = s.mem := by unfold State.putCore; split <;> rfl
@[simp] theorem pairMode_mem (s : State) (id : Nat) (b : Bool) : (s.pairMode id b).mem = s.mem := modAt_mem ..
theorem restoreInst_wf {s : State} (h : s.mem.wf = true) (v : Saved) (rest : List Saved) (place : List (Nat × Nat)) :
    (s.restoreInst v rest place).mem.wf = true := by
  unfold State.restoreInst; dsimp only
  have hf : ∀ (l : List Core) (u : State) (g : State → Core → State), (∀ a b, (g a b).mem = a.mem) → u.mem.wf = true →
      (l.foldl g u).mem.wf = true := fun l u g hg hu =>
    foldl_keeps (fun s : State => s.mem.wf = true) _ (fun a b h => (hg a b).symm ▸ h) l u hu
  split <;> exact restoreBytes_wf _ _ (cwf_filter _ (hf _ s _ (fun a b => (pairMode_mem ..).trans (putCore_mem ..)) h))
theorem fullStateRestore_wf {s t : State} (h : s.mem.wf = true) (e : execFullStateRestore s = .next t) : t.mem.wf = true := by
  unfold execFullStateRestore at e
  split at e
  · cases e; exact h
  · rename_i v rest _
    have hx : ∀ x : Option (List (Nat × Nat)), (match x with
        | none => Host.Outcome.next { s with saved := { v with wanted := true } :: rest }
        | some place => .next (s.restoreInst v rest place) : Out) = .next t → t.mem.wf = true := fun x e => by
      cases x with
      | none => cases e; exact h
      | some place => cases e; exact restoreInst_wf h ..
    exact hx _ e
/-- A load keeps the canonical form of memory; one that is refused has no next state at all (R71). -/
theorem loadImage_wf {s t : State} (h : s.mem.wf = true) {l : LoadSrc} {part : Nat} {asid : BitVec 16} {lo hi : BitVec 12} {root : BitVec 44}
    (e : s.loadImage l part asid lo hi root = .ok t) : t.mem.wf = true := by
  unfold State.loadImage at e
  dsimp only at e; split at e
  · cases e
  · cases e
    have hf : ∀ (u : State) (d : Nat × List Byte), u.mem.wf = true →
        (if d.2.isEmpty then u else (u.frontWrite part asid d.1 0 d.2).1).mem.wf = true := fun u d hu => by
      split
      · exact hu
      · exact frontWrite_wf hu ..
    refine foldl_keeps (fun u : State => u.mem.wf = true) _ hf _ _ ?_
    show (if _ then s else s.startContext lo hi).mem.wf = true
    split <;> exact h
/-- The monitor's control queues, a change of partitions, and the reserved scratchpad bytes (R354, R371, R415). -/
theorem createControl_wf {s : State} (h : s.mem.wf = true) (p : Nat) : (s.createControl p).mem.wf = true := wf_memPutList _ _ h
theorem createControls_wf {s : State} (h : s.mem.wf = true) : s.createControls.mem.wf = true :=
  foldl_keeps (fun s : State => s.mem.wf = true) _ (fun _ _ h => createControl_wf h _) _ _ h
theorem putPartmap_wf {s : State} (h : s.mem.wf = true) (v : Word) : (s.putPartmap v).mem.wf = true := createControls_wf h
theorem dropReserved_wf {s : State} (h : s.mem.wf = true) (n : Nat) : (s.dropReserved n).mem.wf = true := cwf_filter _ h
/-- A contribution's element, a part of the draft-state region, the writes of an instance that commits, a preset object (R236, R267, R279,
R333). -/
theorem recvElem_wf {s : State} (h : s.mem.wf = true) (ty : Ty) (a b l n e : Nat) : (s.recvElem ty a b l n e).mem.wf = true := putBytes_wf h ..
theorem writePart_wf {s : State} (h : s.mem.wf = true) (k fg : Nat) (pos gen : BitVec 32) (ls : List (Nat × List Byte)) :
    (s.writePart k fg pos gen ls).mem.wf = true := by
  unfold State.writePart; (repeat' split)
  · exact h
  · simpa using h
  · exact h
  · exact foldl_keeps (fun s : State => s.mem.wf = true) _ (fun _ _ h => putBytes_wf h ..) ls _ (by simpa using h)
theorem commitWrites_wf {s : State} (h : s.mem.wf = true) (ps : List StorePiece) (c : Nat) : (s.commitWrites ps c).1.mem.wf = true :=
  putPieces_wf (foldl_keeps (fun s : State => s.mem.wf = true) _ (fun a _ h => (atHome_mem a ..).symm ▸ h) _ s h) ps
theorem presetPbo_wf {s : State} (h : s.mem.wf = true) (l : Launch) (cs : List (Nat × Nat × Nat)) : (s.presetPbo l cs).mem.wf = true := by
  unfold State.presetPbo; dsimp only; (repeat' split)
  · exact h
  · exact h
  · exact foldl_keeps (fun s : State => s.mem.wf = true) _ (fun _ _ h => putBytes_wf h ..) cs s h
  · refine foldl_keeps (fun s : State => s.mem.wf = true) _ (fun a b h => ?_) cs s h
    split
    · exact putBytes_wf h ..
    · exact h
  · exact h
  · have : ∀ (f : State → State × Unit), (∀ t : State, t.mem.wf = true → (f t).1.mem.wf = true) →
        ((s.asFront l.part l.asid f).1.modLaunch l.slot fun l => { l with preset := true }).mem.wf = true := fun f hf => asFront_wf h _ _ f hf
    apply this
    intro t ht; split <;> first | exact writeRuns_wf ht .. | exact ht
/-! ### Engines before they act -/

@[simp] theorem countRuns_mem (s : State) (rs : List Run) : (s.countRuns rs).mem = s.mem := by
  unfold State.countRuns; split
  · rfl
  · exact foldl_keeps (fun t : State => t.mem = s.mem) _ (fun _ _ h => (countRead_mem ..).trans h) _ s rfl
@[simp] theorem countRuns_core (s : State) (rs : List Run) : (s.countRuns rs).core = s.core := by
  unfold State.countRuns; split
  · rfl
  · exact foldl_keeps (fun t : State => t.core = s.core) _ (fun _ _ h => (countRead_core ..).trans h) _ s rfl
@[simp] theorem countRuns_others (s : State) (rs : List Run) : (s.countRuns rs).others = s.others := by
  unfold State.countRuns; split
  · rfl
  · exact foldl_keeps (fun t : State => t.others = s.others) _ (fun _ _ h => (countRead_others ..).trans h) _ s rfl

/-- Asking for bank cycles, or taking them, changes the core's list of grants and nothing else (R216). -/
theorem engineTurn_eq (s : State) (eng seq : Nat) (rs : List Run) :
    ∃ l, (s.engineTurn eng seq rs).1 = s.modPort fun p => { p with grants := l } := by
  simp only [State.engineTurn]
  split
  · exact ⟨_, rfl⟩
  · split
    · exact ⟨_, rfl⟩
    · exact ⟨_, rfl⟩
    · exact ⟨s.core.port.grants, rfl⟩
/-- So does the gate of an engine access, but for the corrections that it counts (R226, R397). -/
theorem engineGate_core (s : State) (eng : Nat) (j : Issued) (rs : List Run) :
    ∃ l, (s.engineGate eng j rs).1.core = { s.core with port := { s.core.port with grants := l } } := by
  obtain ⟨l, h⟩ := engineTurn_eq s eng j.seq rs
  unfold State.engineGate
  split
  · refine ⟨l, ?_⟩
    dsimp only
    split <;> simp only [countRuns_core, h] <;> rfl
  · exact ⟨s.core.port.grants, rfl⟩
@[simp] theorem engineGate_mem (s : State) (eng : Nat) (j : Issued) (rs : List Run) : (s.engineGate eng j rs).1.mem = s.mem := by
  obtain ⟨l, h⟩ := engineTurn_eq s eng j.seq rs
  unfold State.engineGate
  split
  · dsimp only; split <;> simp only [countRuns_mem, h] <;> rfl
  · rfl
@[simp] theorem engineGate_others (s : State) (eng : Nat) (j : Issued) (rs : List Run) : (s.engineGate eng j rs).1.others = s.others := by
  obtain ⟨l, h⟩ := engineTurn_eq s eng j.seq rs
  unfold State.engineGate
  split
  · dsimp only; split <;> simp only [countRuns_others, h] <;> rfl
  · rfl
/-- A gate that is not open changes nothing. -/
theorem engineGate_closed (s : State) (eng : Nat) (j : Issued) (rs : List Run) (h : s.engineOpen j rs = false) : s.engineGate eng j rs = (s, false) := by
  simp [State.engineGate, h]

/-- A core's clock after its engines' writes (R230, R234). -/
@[simp] theorem afterEngines_mem (s : State) : s.afterEngines.mem = s.mem := rfl
@[simp] theorem afterEngines_others (s : State) : s.afterEngines.others = s.others := rfl
@[simp] theorem afterEngines_regs (s : State) : s.afterEngines.core.regs = s.core.regs := rfl
@[simp] theorem afterEngines_pts (s : State) : s.afterEngines.core.port.pts = max s.core.port.pts s.core.port.stamp := rfl

/-- Power-on leaves an empty memory, a package reset the one it was (log entry 15). -/
@[simp] theorem powerOn_mem (s : State) : s.powerOn.mem = [] := rfl
@[simp] theorem rebooted_mem (s : State) : s.rebooted.mem = s.mem := rfl
theorem reset_wf : State.reset.mem.wf = true := rfl

end Sys2Proof.Machine
end

