-- ==== Sys2Proof/Laws/PerInstr.lean ====
section
/-! SUPPORT. One law of each instruction as syntax: what the encoder gives for it fits an operation slot and its two extension bits
(R43, R44, R46). -/

namespace Sys2Proof.Laws.EncodingFits

open Sys2Proof

/-- Extension bits below 4 and a word below 2^32, wherever the instruction has an encoding. -/
def Statement (i : Instr) : Prop := ∀ e w, encode i = some (e, w) → e < 4 ∧ w < 2 ^ 32

/-! ### The widths of the fields -/

theorem encDst_lt (d : Dst) : encDst d < 32 := by cases d with | reg n => exact Nat.lt_trans n.isLt (by decide) | queue => decide
theorem encSrc_lt (a : Src) : encSrc a < 32 := by cases a <;> simp only [encSrc] <;> omega
theorem encTy_lt (t : Ty) : encTy t < 16 := by cases t <;> decide
theorem encFTy_lt (t : FTy) : encFTy t < 4 := by cases t <;> decide
theorem encRm_lt (r : Rm) : encRm r < 8 := by cases r <;> decide
theorem encCond_lt (c : Cond) : encCond c < 16 := by cases c <;> decide
theorem encVCond_lt (c : VCond) : encVCond c < 8 := by cases c <;> decide
theorem encBf_lt (b : Bf) : encBf b < 16 := by cases b <;> decide
theorem encAtTy_lt (t : AtTy) : encAtTy t < 4 := by cases t <;> decide
theorem encAtUse_lt (u : AtUse) : encAtUse u < 8 := by cases u <;> decide
theorem encScope_lt (c : Scope) : encScope c < 8 := by cases c <;> decide
theorem encBool_lt (b : Bool) : encBool b < 2 := by cases b <;> decide

/-- The extension bits of a widened immediate are two bits. -/
theorem extE_lt (n x : Nat) (h : x < 2 ^ (n + 2)) : extE n x < 4 := by
  have : x / 2 ^ n < 4 := by
    rw [Nat.div_lt_iff_lt_mul (Nat.two_pow_pos n)]
    rw [Nat.pow_add] at h
    omega
  unfold extE; generalize x / 2 ^ n = q at *
  split <;> omega

theorem of_code {i : Instr} {e w : Nat} (h : encode i = some (e, w)) (he : e < 4) (hw : w < 2 ^ 32) : Statement i := by
  intro e' w' h'
  rw [h] at h'
  cases h'
  exact ⟨he, hw⟩

/-- An event, or a header, which is no operation of a slot. -/
theorem of_none {i : Instr} (h : encode i = none) : Statement i := by intro e w h'; rw [h] at h'; cases h'

/-! ### The instructions -/

theorem headerTransfer (l : Bool) (stall : BitVec 4) (xc : Xc) (tb : Small) (ext : BitVec 14) : Statement (.headerTransfer l stall xc tb ext) := of_none rfl
theorem lockHeader (l : Bool) (stall : BitVec 4) (cnt : BitVec 3) (banks : BitVec 16) : Statement (.lockHeader l stall cnt banks) := of_none rfl
theorem add (d : Dst) (a : Src) (b : Src) : Statement (.add d a b) :=
  of_code rfl (by decide) (by have h0 := encDst_lt d; have h1 := encSrc_lt a; have h2 := encSrc_lt b; simp only [encR]; omega)
theorem sub (d : Dst) (a : Src) (b : Src) : Statement (.sub d a b) :=
  of_code rfl (by decide) (by have h0 := encDst_lt d; have h1 := encSrc_lt a; have h2 := encSrc_lt b; simp only [encR]; omega)
theorem and (d : Dst) (a : Src) (b : Src) : Statement (.and d a b) :=
  of_code rfl (by decide) (by have h0 := encDst_lt d; have h1 := encSrc_lt a; have h2 := encSrc_lt b; simp only [encR]; omega)
theorem or (d : Dst) (a : Src) (b : Src) : Statement (.or d a b) :=
  of_code rfl (by decide) (by have h0 := encDst_lt d; have h1 := encSrc_lt a; have h2 := encSrc_lt b; simp only [encR]; omega)
theorem xor (d : Dst) (a : Src) (b : Src) : Statement (.xor d a b) :=
  of_code rfl (by decide) (by have h0 := encDst_lt d; have h1 := encSrc_lt a; have h2 := encSrc_lt b; simp only [encR]; omega)
theorem andn (d : Dst) (a : Src) (b : Src) : Statement (.andn d a b) :=
  of_code rfl (by decide) (by have h0 := encDst_lt d; have h1 := encSrc_lt a; have h2 := encSrc_lt b; simp only [encR]; omega)
theorem shl (d : Dst) (a : Src) (b : Src) : Statement (.shl d a b) :=
  of_code rfl (by decide) (by have h0 := encDst_lt d; have h1 := encSrc_lt a; have h2 := encSrc_lt b; simp only [encR]; omega)
theorem shr (d : Dst) (a : Src) (b : Src) : Statement (.shr d a b) :=
  of_code rfl (by decide) (by have h0 := encDst_lt d; have h1 := encSrc_lt a; have h2 := encSrc_lt b; simp only [encR]; omega)
theorem sra (d : Dst) (a : Src) (b : Src) : Statement (.sra d a b) :=
  of_code rfl (by decide) (by have h0 := encDst_lt d; have h1 := encSrc_lt a; have h2 := encSrc_lt b; simp only [encR]; omega)
theorem rol (d : Dst) (a : Src) (b : Src) : Statement (.rol d a b) :=
  of_code rfl (by decide) (by have h0 := encDst_lt d; have h1 := encSrc_lt a; have h2 := encSrc_lt b; simp only [encR]; omega)
theorem minI64 (d : Dst) (a : Src) (b : Src) : Statement (.minI64 d a b) :=
  of_code rfl (by decide) (by have h0 := encDst_lt d; have h1 := encSrc_lt a; have h2 := encSrc_lt b; simp only [encR]; omega)
theorem minN64 (d : Dst) (a : Src) (b : Src) : Statement (.minN64 d a b) :=
  of_code rfl (by decide) (by have h0 := encDst_lt d; have h1 := encSrc_lt a; have h2 := encSrc_lt b; simp only [encR]; omega)
theorem maxI64 (d : Dst) (a : Src) (b : Src) : Statement (.maxI64 d a b) :=
  of_code rfl (by decide) (by have h0 := encDst_lt d; have h1 := encSrc_lt a; have h2 := encSrc_lt b; simp only [encR]; omega)
theorem maxN64 (d : Dst) (a : Src) (b : Src) : Statement (.maxN64 d a b) :=
  of_code rfl (by decide) (by have h0 := encDst_lt d; have h1 := encSrc_lt a; have h2 := encSrc_lt b; simp only [encR]; omega)
theorem clz (d : Dst) (a : Src) : Statement (.clz d a) :=
  of_code rfl (by decide) (by have h0 := encDst_lt d; have h1 := encSrc_lt a; simp only [encR]; omega)
theorem ctz (d : Dst) (a : Src) : Statement (.ctz d a) :=
  of_code rfl (by decide) (by have h0 := encDst_lt d; have h1 := encSrc_lt a; simp only [encR]; omega)
theorem popc (d : Dst) (a : Src) : Statement (.popc d a) :=
  of_code rfl (by decide) (by have h0 := encDst_lt d; have h1 := encSrc_lt a; simp only [encR]; omega)
theorem mov (d : Dst) (a : Src) : Statement (.mov d a) :=
  of_code rfl (by decide) (by have h0 := encDst_lt d; have h1 := encSrc_lt a; simp only [encR]; omega)
theorem sel (d : Dst) (a : Src) (b : Src) (p : Small) : Statement (.sel d a b p) :=
  of_code rfl (by decide) (by have h0 := encDst_lt d; have h1 := encSrc_lt a; have h2 := encSrc_lt b; have h3 := p.isLt; simp only [encR]; omega)
theorem bext (d : Dst) (a : Src) (b : Src) : Statement (.bext d a b) :=
  of_code rfl (by decide) (by have h0 := encDst_lt d; have h1 := encSrc_lt a; have h2 := encSrc_lt b; simp only [encR]; omega)
theorem bins (d : Dst) (a : Src) (b : Src) (c : Src) : Statement (.bins d a b c) :=
  of_code rfl (by decide) (by have h0 := encDst_lt d; have h1 := encSrc_lt a; have h2 := encSrc_lt b; have h3 := encSrc_lt c; simp only [encR]; omega)
theorem sextI8 (d : Dst) (a : Src) : Statement (.sextI8 d a) :=
  of_code rfl (by decide) (by have h0 := encDst_lt d; have h1 := encSrc_lt a; simp only [encR]; omega)
theorem sextI16 (d : Dst) (a : Src) : Statement (.sextI16 d a) :=
  of_code rfl (by decide) (by have h0 := encDst_lt d; have h1 := encSrc_lt a; simp only [encR]; omega)
theorem sextI32 (d : Dst) (a : Src) : Statement (.sextI32 d a) :=
  of_code rfl (by decide) (by have h0 := encDst_lt d; have h1 := encSrc_lt a; simp only [encR]; omega)
theorem lea (d : Dst) (a : Src) (b : Src) (s : BitVec 2) : Statement (.lea d a b s) :=
  of_code rfl (by decide) (by have h0 := encDst_lt d; have h1 := encSrc_lt a; have h2 := encSrc_lt b; have h3 := s.isLt; simp only [encR]; omega)
theorem wrap (d : Dst) (a : Src) (b : Src) : Statement (.wrap d a b) :=
  of_code rfl (by decide) (by have h0 := encDst_lt d; have h1 := encSrc_lt a; have h2 := encSrc_lt b; simp only [encR]; omega)
theorem mul (d : Dst) (a : Src) (b : Src) : Statement (.mul d a b) :=
  of_code rfl (by decide) (by have h0 := encDst_lt d; have h1 := encSrc_lt a; have h2 := encSrc_lt b; simp only [encR]; omega)
theorem mulhI64 (d : Dst) (a : Src) (b : Src) : Statement (.mulhI64 d a b) :=
  of_code rfl (by decide) (by have h0 := encDst_lt d; have h1 := encSrc_lt a; have h2 := encSrc_lt b; simp only [encR]; omega)
theorem mulhN64 (d : Dst) (a : Src) (b : Src) : Statement (.mulhN64 d a b) :=
  of_code rfl (by decide) (by have h0 := encDst_lt d; have h1 := encSrc_lt a; have h2 := encSrc_lt b; simp only [encR]; omega)
theorem divI64 (d : Dst) (a : Src) (b : Src) : Statement (.divI64 d a b) :=
  of_code rfl (by decide) (by have h0 := encDst_lt d; have h1 := encSrc_lt a; have h2 := encSrc_lt b; simp only [encR]; omega)
theorem divN64 (d : Dst) (a : Src) (b : Src) : Statement (.divN64 d a b) :=
  of_code rfl (by decide) (by have h0 := encDst_lt d; have h1 := encSrc_lt a; have h2 := encSrc_lt b; simp only [encR]; omega)
theorem remI64 (d : Dst) (a : Src) (b : Src) : Statement (.remI64 d a b) :=
  of_code rfl (by decide) (by have h0 := encDst_lt d; have h1 := encSrc_lt a; have h2 := encSrc_lt b; simp only [encR]; omega)
theorem remN64 (d : Dst) (a : Src) (b : Src) : Statement (.remN64 d a b) :=
  of_code rfl (by decide) (by have h0 := encDst_lt d; have h1 := encSrc_lt a; have h2 := encSrc_lt b; simp only [encR]; omega)
theorem cmp (p : Small) (cc : Cond) (a : Src) (b : Src) : Statement (.cmp p cc a b) :=
  of_code rfl (by decide) (by have h0 := p.isLt; have h1 := encCond_lt cc; have h2 := encSrc_lt a; have h3 := encSrc_lt b; simp only [encR]; omega)
theorem cmpImm (p : Small) (cc : Cond) (a : Src) (imm : BitVec 15) : Statement (.cmpImm p cc a imm) :=
  of_code rfl (extE_lt 13 _ imm.isLt) (by have h0 := p.isLt; have h1 := encCond_lt cc; have h2 := encSrc_lt a; have h3 := imm.isLt; omega)
theorem pand (pd : Small) (pa : Small) (pb : Small) : Statement (.pand pd pa pb) :=
  of_code rfl (by decide) (by have h0 := pd.isLt; have h1 := pa.isLt; have h2 := pb.isLt; simp only [encR]; omega)
theorem por (pd : Small) (pa : Small) (pb : Small) : Statement (.por pd pa pb) :=
  of_code rfl (by decide) (by have h0 := pd.isLt; have h1 := pa.isLt; have h2 := pb.isLt; simp only [encR]; omega)
theorem pnot (pd : Small) (pa : Small) : Statement (.pnot pd pa) :=
  of_code rfl (by decide) (by have h0 := pd.isLt; have h1 := pa.isLt; simp only [encR]; omega)
theorem addImm (d : Dst) (a : Src) (imm : BitVec 17) : Statement (.addImm d a imm) :=
  of_code rfl (extE_lt 15 _ imm.isLt) (by have h0 := encDst_lt d; have h1 := encSrc_lt a; have h2 := imm.isLt; omega)
theorem andImm (d : Dst) (a : Src) (imm : BitVec 17) : Statement (.andImm d a imm) :=
  of_code rfl (extE_lt 15 _ imm.isLt) (by have h0 := encDst_lt d; have h1 := encSrc_lt a; have h2 := imm.isLt; omega)
theorem orImm (d : Dst) (a : Src) (imm : BitVec 17) : Statement (.orImm d a imm) :=
  of_code rfl (extE_lt 15 _ imm.isLt) (by have h0 := encDst_lt d; have h1 := encSrc_lt a; have h2 := imm.isLt; omega)
theorem xorImm (d : Dst) (a : Src) (imm : BitVec 17) : Statement (.xorImm d a imm) :=
  of_code rfl (extE_lt 15 _ imm.isLt) (by have h0 := encDst_lt d; have h1 := encSrc_lt a; have h2 := imm.isLt; omega)
theorem shlImm (d : Dst) (a : Src) (n : BitVec 6) : Statement (.shlImm d a n) :=
  of_code rfl (by decide) (by have h0 := encDst_lt d; have h1 := encSrc_lt a; have h2 := n.isLt; omega)
theorem shrImm (d : Dst) (a : Src) (n : BitVec 6) : Statement (.shrImm d a n) :=
  of_code rfl (by decide) (by have h0 := encDst_lt d; have h1 := encSrc_lt a; have h2 := n.isLt; omega)
theorem sraImm (d : Dst) (a : Src) (n : BitVec 6) : Statement (.sraImm d a n) :=
  of_code rfl (by decide) (by have h0 := encDst_lt d; have h1 := encSrc_lt a; have h2 := n.isLt; omega)
theorem rolImm (d : Dst) (a : Src) (n : BitVec 6) : Statement (.rolImm d a n) :=
  of_code rfl (by decide) (by have h0 := encDst_lt d; have h1 := encSrc_lt a; have h2 := n.isLt; omega)
theorem mulImm (d : Dst) (a : Src) (imm : BitVec 17) : Statement (.mulImm d a imm) :=
  of_code rfl (extE_lt 15 _ imm.isLt) (by have h0 := encDst_lt d; have h1 := encSrc_lt a; have h2 := imm.isLt; omega)
theorem li (d : Dst) (imm : BitVec 22) : Statement (.li d imm) :=
  of_code rfl (extE_lt 20 _ imm.isLt) (by have h0 := encDst_lt d; have h1 := imm.isLt; omega)
theorem lih (d : RegNo) (imm : BitVec 22) : Statement (.lih d imm) :=
  of_code rfl (by have := imm.isLt; omega) (by have h0 := d.isLt; have h1 := imm.isLt; omega)
theorem ptb (tb : Small) (lk : Bool) (off : BitVec 22) : Statement (.ptb tb lk off) :=
  of_code rfl (extE_lt 20 _ off.isLt) (by have h0 := tb.isLt; have h1 := encBool_lt lk; have h2 := off.isLt; omega)
theorem ptbReg (tb : Small) (lk : Bool) (a : Src) : Statement (.ptbReg tb lk a) :=
  of_code rfl (by decide) (by have h0 := tb.isLt; have h1 := encBool_lt lk; have h2 := encSrc_lt a; simp only [encR]; omega)
theorem tbReady (tb : Small) : Statement (.tbReady tb) := of_none rfl
theorem ctlr (d : Dst) (idx : BitVec 12) : Statement (.ctlr d idx) :=
  of_code rfl (by decide) (by have h0 := encDst_lt d; have h1 := idx.isLt; omega)
theorem ctlw (idx : BitVec 12) (a : Src) : Statement (.ctlw idx a) :=
  of_code rfl (by decide) (by have h0 := idx.isLt; have h1 := encSrc_lt a; omega)
theorem ctlwArrmode (a : Src) : Statement (.ctlwArrmode a) :=
  of_code rfl (by decide) (by have h0 := encSrc_lt a; omega)
theorem ctlwCvcur (a : Src) : Statement (.ctlwCvcur a) :=
  of_code rfl (by decide) (by have h0 := encSrc_lt a; omega)
theorem ctlwEvt (a : Src) : Statement (.ctlwEvt a) :=
  of_code rfl (by decide) (by have h0 := encSrc_lt a; omega)
theorem ctlwAsid (a : Src) : Statement (.ctlwAsid a) :=
  of_code rfl (by decide) (by have h0 := encSrc_lt a; omega)
theorem ctlwPtroot (a : Src) : Statement (.ctlwPtroot a) :=
  of_code rfl (by decide) (by have h0 := encSrc_lt a; omega)
theorem ctlwPartmap (a : Src) : Statement (.ctlwPartmap a) :=
  of_code rfl (by decide) (by have h0 := encSrc_lt a; omega)
theorem ctlwKeyctl (a : Src) : Statement (.ctlwKeyctl a) :=
  of_code rfl (by decide) (by have h0 := encSrc_lt a; omega)
theorem ld (d : Dst) (a : Src) (sz : BitVec 2) (sx : Bool) (off : BitVec 6) (dl : Delay) : Statement (.ld d a sz sx off dl) :=
  of_code rfl ((dl).e.isLt) (by have h0 := encDst_lt d; have h1 := encSrc_lt a; have h2 := sz.isLt; have h3 := encBool_lt sx; have h4 := off.isLt; have h5 := dl.lat.isLt; have h6 := dl.e.isLt; omega)
theorem ldAcq (d : Dst) (a : Src) (sz : BitVec 2) (sx : Bool) (off : BitVec 6) (dl : Delay) : Statement (.ldAcq d a sz sx off dl) :=
  of_code rfl ((dl).e.isLt) (by have h0 := encDst_lt d; have h1 := encSrc_lt a; have h2 := sz.isLt; have h3 := encBool_lt sx; have h4 := off.isLt; have h5 := dl.lat.isLt; have h6 := dl.e.isLt; omega)
theorem st (b : Src) (a : Src) (sz : BitVec 2) (off : BitVec 15) : Statement (.st b a sz off) :=
  of_code rfl (extE_lt 13 _ off.isLt) (by have h0 := encSrc_lt b; have h1 := encSrc_lt a; have h2 := sz.isLt; have h3 := off.isLt; omega)
theorem stRel (b : Src) (a : Src) (sz : BitVec 2) (off : BitVec 15) : Statement (.stRel b a sz off) :=
  of_code rfl (extE_lt 13 _ off.isLt) (by have h0 := encSrc_lt b; have h1 := encSrc_lt a; have h2 := sz.isLt; have h3 := off.isLt; omega)
theorem amoAdd (a : Src) (b : Src) (ty : AtTy) (use : AtUse) (dl : Delay) : Statement (.amoAdd a b ty use dl) :=
  of_code rfl ((dl).e.isLt) (by have h0 := encSrc_lt a; have h1 := encSrc_lt b; have h2 := encAtTy_lt ty; have h3 := encAtUse_lt use; have h4 := dl.lat.isLt; have h5 := dl.e.isLt; omega)
theorem amoAnd (a : Src) (b : Src) (ty : AtTy) (use : AtUse) (dl : Delay) : Statement (.amoAnd a b ty use dl) :=
  of_code rfl ((dl).e.isLt) (by have h0 := encSrc_lt a; have h1 := encSrc_lt b; have h2 := encAtTy_lt ty; have h3 := encAtUse_lt use; have h4 := dl.lat.isLt; have h5 := dl.e.isLt; omega)
theorem amoOr (a : Src) (b : Src) (ty : AtTy) (use : AtUse) (dl : Delay) : Statement (.amoOr a b ty use dl) :=
  of_code rfl ((dl).e.isLt) (by have h0 := encSrc_lt a; have h1 := encSrc_lt b; have h2 := encAtTy_lt ty; have h3 := encAtUse_lt use; have h4 := dl.lat.isLt; have h5 := dl.e.isLt; omega)
theorem amoXor (a : Src) (b : Src) (ty : AtTy) (use : AtUse) (dl : Delay) : Statement (.amoXor a b ty use dl) :=
  of_code rfl ((dl).e.isLt) (by have h0 := encSrc_lt a; have h1 := encSrc_lt b; have h2 := encAtTy_lt ty; have h3 := encAtUse_lt use; have h4 := dl.lat.isLt; have h5 := dl.e.isLt; omega)
theorem amoSwap (a : Src) (b : Src) (ty : AtTy) (use : AtUse) (dl : Delay) : Statement (.amoSwap a b ty use dl) :=
  of_code rfl ((dl).e.isLt) (by have h0 := encSrc_lt a; have h1 := encSrc_lt b; have h2 := encAtTy_lt ty; have h3 := encAtUse_lt use; have h4 := dl.lat.isLt; have h5 := dl.e.isLt; omega)
theorem amoMin (a : Src) (b : Src) (ty : AtTy) (use : AtUse) (dl : Delay) : Statement (.amoMin a b ty use dl) :=
  of_code rfl ((dl).e.isLt) (by have h0 := encSrc_lt a; have h1 := encSrc_lt b; have h2 := encAtTy_lt ty; have h3 := encAtUse_lt use; have h4 := dl.lat.isLt; have h5 := dl.e.isLt; omega)
theorem amoMax (a : Src) (b : Src) (ty : AtTy) (use : AtUse) (dl : Delay) : Statement (.amoMax a b ty use dl) :=
  of_code rfl ((dl).e.isLt) (by have h0 := encSrc_lt a; have h1 := encSrc_lt b; have h2 := encAtTy_lt ty; have h3 := encAtUse_lt use; have h4 := dl.lat.isLt; have h5 := dl.e.isLt; omega)
theorem cas (a : Src) (b : Src) (c : Src) (w : Bool) (use : AtUse) (dl : Delay) : Statement (.cas a b c w use dl) :=
  of_code rfl ((dl).e.isLt) (by have h0 := encSrc_lt a; have h1 := encSrc_lt b; have h2 := encSrc_lt c; have h3 := encBool_lt w; have h4 := encAtUse_lt use; have h5 := dl.lat.isLt; have h6 := dl.e.isLt; omega)
theorem fence (sc : Scope) : Statement (.fence sc) :=
  of_code rfl (by decide) (by have h0 := encScope_lt sc; omega)
theorem fenceX (sc : Scope) : Statement (.fenceX sc) :=
  of_code rfl (by decide) (by have h0 := encScope_lt sc; omega)
theorem boinit (a : Src) (b : Src) : Statement (.boinit a b) :=
  of_code rfl (by decide) (by have h0 := encSrc_lt a; have h1 := encSrc_lt b; simp only [encR]; omega)
theorem boarm (a : Src) (b : Src) : Statement (.boarm a b) :=
  of_code rfl (by decide) (by have h0 := encSrc_lt a; have h1 := encSrc_lt b; simp only [encR]; omega)
theorem bowait (a : Src) : Statement (.bowait a) :=
  of_code rfl (by decide) (by have h0 := encSrc_lt a; simp only [encR]; omega)
theorem cwb (a : Src) (b : Src) : Statement (.cwb a b) :=
  of_code rfl (by decide) (by have h0 := encSrc_lt a; have h1 := encSrc_lt b; simp only [encR]; omega)
theorem cinv (a : Src) (b : Src) : Statement (.cinv a b) :=
  of_code rfl (by decide) (by have h0 := encSrc_lt a; have h1 := encSrc_lt b; simp only [encR]; omega)
theorem sev (a : Src) : Statement (.sev a) :=
  of_code rfl (by decide) (by have h0 := encSrc_lt a; simp only [encR]; omega)
theorem fork (task : BitVec 17) (a : Src) (b : Src) : Statement (.fork task a b) :=
  of_code rfl (by have := task.isLt; omega) (by have h0 := task.isLt; have h1 := encSrc_lt a; have h2 := encSrc_lt b; omega)
theorem launch (d : Dst) (a : Src) : Statement (.launch d a) :=
  of_code rfl (by decide) (by have h0 := encDst_lt d; have h1 := encSrc_lt a; simp only [encR]; omega)
theorem shape (a : Src) (b : Src) : Statement (.shape a b) :=
  of_code rfl (by decide) (by have h0 := encSrc_lt a; have h1 := encSrc_lt b; simp only [encR]; omega)
theorem qsigSet (a : Src) (b : Src) : Statement (.qsigSet a b) :=
  of_code rfl (by decide) (by have h0 := encSrc_lt a; have h1 := encSrc_lt b; simp only [encR]; omega)
theorem qsigAdd (a : Src) (b : Src) : Statement (.qsigAdd a b) :=
  of_code rfl (by decide) (by have h0 := encSrc_lt a; have h1 := encSrc_lt b; simp only [encR]; omega)
theorem qsigOr (a : Src) (b : Src) : Statement (.qsigOr a b) :=
  of_code rfl (by decide) (by have h0 := encSrc_lt a; have h1 := encSrc_lt b; simp only [encR]; omega)
theorem pqpush (a : Src) (b : Src) : Statement (.pqpush a b) :=
  of_code rfl (by decide) (by have h0 := encSrc_lt a; have h1 := encSrc_lt b; simp only [encR]; omega)
theorem sqrun (a : Src) (b : Src) : Statement (.sqrun a b) :=
  of_code rfl (by decide) (by have h0 := encSrc_lt a; have h1 := encSrc_lt b; simp only [encR]; omega)
theorem sqcfg (d : Dst) (a : Src) (b : Src) : Statement (.sqcfg d a b) :=
  of_code rfl (by decide) (by have h0 := encDst_lt d; have h1 := encSrc_lt a; have h2 := encSrc_lt b; simp only [encR]; omega)
theorem pqtake (d : Dst) (dl : Delay) : Statement (.pqtake d dl) :=
  of_code rfl ((dl).e.isLt) (by have h0 := encDst_lt d; have h1 := dl.lat.isLt; have h2 := dl.e.isLt; omega)
theorem depth (d : Dst) (a : Src) (dl : Delay) : Statement (.depth d a dl) :=
  of_code rfl ((dl).e.isLt) (by have h0 := encDst_lt d; have h1 := encSrc_lt a; have h2 := dl.lat.isLt; have h3 := dl.e.isLt; omega)
theorem rbread (d : Dst) (dl : Delay) : Statement (.rbread d dl) :=
  of_code rfl ((dl).e.isLt) (by have h0 := encDst_lt d; have h1 := dl.lat.isLt; have h2 := dl.e.isLt; omega)
theorem sysc (a : Src) : Statement (.sysc a) :=
  of_code rfl (by decide) (by have h0 := encSrc_lt a; simp only [encR]; omega)
theorem tlbiVa (a : Src) (b : Src) : Statement (.tlbiVa a b) :=
  of_code rfl (by decide) (by have h0 := encSrc_lt a; have h1 := encSrc_lt b; simp only [encR]; omega)
theorem tlbiAsid (b : Src) : Statement (.tlbiAsid b) :=
  of_code rfl (by decide) (by have h0 := encSrc_lt b; simp only [encR]; omega)
theorem lockw (d : Dst) (a : Src) : Statement (.lockw d a) :=
  of_code rfl (by decide) (by have h0 := encDst_lt d; have h1 := encSrc_lt a; simp only [encR]; omega)
theorem prmt (d : Dst) (a : Src) (b : Src) : Statement (.prmt d a b) :=
  of_code rfl (by decide) (by have h0 := encDst_lt d; have h1 := encSrc_lt a; have h2 := encSrc_lt b; simp only [encR]; omega)
theorem rsum (d : Dst) (a : Src) : Statement (.rsum d a) :=
  of_code rfl (by decide) (by have h0 := encDst_lt d; have h1 := encSrc_lt a; simp only [encR]; omega)
theorem trap (code : BitVec 17) : Statement (.trap code) :=
  of_code rfl (by have := code.isLt; omega) (by have h0 := code.isLt; omega)
theorem vadd (d : Dst) (a : Src) (b : Src) (k : Small) (ty : Ty) : Statement (.vadd d a b k ty) :=
  of_code rfl (by decide) (by have h0 := encDst_lt d; have h1 := encSrc_lt a; have h2 := encSrc_lt b; have h3 := k.isLt; have h4 := encTy_lt ty; simp only [encV]; omega)
theorem vsub (d : Dst) (a : Src) (b : Src) (k : Small) (ty : Ty) : Statement (.vsub d a b k ty) :=
  of_code rfl (by decide) (by have h0 := encDst_lt d; have h1 := encSrc_lt a; have h2 := encSrc_lt b; have h3 := k.isLt; have h4 := encTy_lt ty; simp only [encV]; omega)
theorem vmul (d : Dst) (a : Src) (b : Src) (k : Small) (ty : Ty) : Statement (.vmul d a b k ty) :=
  of_code rfl (by decide) (by have h0 := encDst_lt d; have h1 := encSrc_lt a; have h2 := encSrc_lt b; have h3 := k.isLt; have h4 := encTy_lt ty; simp only [encV]; omega)
theorem vmin (d : Dst) (a : Src) (b : Src) (k : Small) (ty : Ty) : Statement (.vmin d a b k ty) :=
  of_code rfl (by decide) (by have h0 := encDst_lt d; have h1 := encSrc_lt a; have h2 := encSrc_lt b; have h3 := k.isLt; have h4 := encTy_lt ty; simp only [encV]; omega)
theorem vmax (d : Dst) (a : Src) (b : Src) (k : Small) (ty : Ty) : Statement (.vmax d a b k ty) :=
  of_code rfl (by decide) (by have h0 := encDst_lt d; have h1 := encSrc_lt a; have h2 := encSrc_lt b; have h3 := k.isLt; have h4 := encTy_lt ty; simp only [encV]; omega)
theorem vdiv (d : Dst) (a : Src) (b : Src) (k : Small) (ty : Ty) : Statement (.vdiv d a b k ty) :=
  of_code rfl (by decide) (by have h0 := encDst_lt d; have h1 := encSrc_lt a; have h2 := encSrc_lt b; have h3 := k.isLt; have h4 := encTy_lt ty; simp only [encV]; omega)
theorem vabs (d : Dst) (a : Src) (k : Small) (ty : Ty) : Statement (.vabs d a k ty) :=
  of_code rfl (by decide) (by have h0 := encDst_lt d; have h1 := encSrc_lt a; have h2 := k.isLt; have h3 := encTy_lt ty; simp only [encV]; omega)
theorem vneg (d : Dst) (a : Src) (k : Small) (ty : Ty) : Statement (.vneg d a k ty) :=
  of_code rfl (by decide) (by have h0 := encDst_lt d; have h1 := encSrc_lt a; have h2 := k.isLt; have h3 := encTy_lt ty; simp only [encV]; omega)
theorem vand (d : Dst) (a : Src) (b : Src) (k : Small) (ty : Ty) : Statement (.vand d a b k ty) :=
  of_code rfl (by decide) (by have h0 := encDst_lt d; have h1 := encSrc_lt a; have h2 := encSrc_lt b; have h3 := k.isLt; have h4 := encTy_lt ty; simp only [encV]; omega)
theorem vor (d : Dst) (a : Src) (b : Src) (k : Small) (ty : Ty) : Statement (.vor d a b k ty) :=
  of_code rfl (by decide) (by have h0 := encDst_lt d; have h1 := encSrc_lt a; have h2 := encSrc_lt b; have h3 := k.isLt; have h4 := encTy_lt ty; simp only [encV]; omega)
theorem vxor (d : Dst) (a : Src) (b : Src) (k : Small) (ty : Ty) : Statement (.vxor d a b k ty) :=
  of_code rfl (by decide) (by have h0 := encDst_lt d; have h1 := encSrc_lt a; have h2 := encSrc_lt b; have h3 := k.isLt; have h4 := encTy_lt ty; simp only [encV]; omega)
theorem vshl (d : Dst) (a : Src) (b : Src) (k : Small) (ty : Ty) : Statement (.vshl d a b k ty) :=
  of_code rfl (by decide) (by have h0 := encDst_lt d; have h1 := encSrc_lt a; have h2 := encSrc_lt b; have h3 := k.isLt; have h4 := encTy_lt ty; simp only [encV]; omega)
theorem vshr (d : Dst) (a : Src) (b : Src) (k : Small) (ty : Ty) : Statement (.vshr d a b k ty) :=
  of_code rfl (by decide) (by have h0 := encDst_lt d; have h1 := encSrc_lt a; have h2 := encSrc_lt b; have h3 := k.isLt; have h4 := encTy_lt ty; simp only [encV]; omega)
theorem vsra (d : Dst) (a : Src) (b : Src) (k : Small) (ty : Ty) : Statement (.vsra d a b k ty) :=
  of_code rfl (by decide) (by have h0 := encDst_lt d; have h1 := encSrc_lt a; have h2 := encSrc_lt b; have h3 := k.isLt; have h4 := encTy_lt ty; simp only [encV]; omega)
theorem vsel (d : Dst) (a : Src) (b : Src) (k : Small) (ty : Ty) : Statement (.vsel d a b k ty) :=
  of_code rfl (by decide) (by have h0 := encDst_lt d; have h1 := encSrc_lt a; have h2 := encSrc_lt b; have h3 := k.isLt; have h4 := encTy_lt ty; simp only [encV]; omega)
theorem vsqrt (d : Dst) (a : Src) (k : Small) (ty : Ty) : Statement (.vsqrt d a k ty) :=
  of_code rfl (by decide) (by have h0 := encDst_lt d; have h1 := encSrc_lt a; have h2 := k.isLt; have h3 := encTy_lt ty; simp only [encV]; omega)
theorem vrcp (d : Dst) (a : Src) (k : Small) (ty : Ty) : Statement (.vrcp d a k ty) :=
  of_code rfl (by decide) (by have h0 := encDst_lt d; have h1 := encSrc_lt a; have h2 := k.isLt; have h3 := encTy_lt ty; simp only [encV]; omega)
theorem vrsq (d : Dst) (a : Src) (k : Small) (ty : Ty) : Statement (.vrsq d a k ty) :=
  of_code rfl (by decide) (by have h0 := encDst_lt d; have h1 := encSrc_lt a; have h2 := k.isLt; have h3 := encTy_lt ty; simp only [encV]; omega)
theorem vfex2 (d : Dst) (a : Src) (k : Small) (ty : Ty) : Statement (.vfex2 d a k ty) :=
  of_code rfl (by decide) (by have h0 := encDst_lt d; have h1 := encSrc_lt a; have h2 := k.isLt; have h3 := encTy_lt ty; simp only [encV]; omega)
theorem vlg2 (d : Dst) (a : Src) (k : Small) (ty : Ty) : Statement (.vlg2 d a k ty) :=
  of_code rfl (by decide) (by have h0 := encDst_lt d; have h1 := encSrc_lt a; have h2 := k.isLt; have h3 := encTy_lt ty; simp only [encV]; omega)
theorem vgetx (d : Dst) (a : Src) (k : Small) (ty : Ty) : Statement (.vgetx d a k ty) :=
  of_code rfl (by decide) (by have h0 := encDst_lt d; have h1 := encSrc_lt a; have h2 := k.isLt; have h3 := encTy_lt ty; simp only [encV]; omega)
theorem vinsx (d : Dst) (a : Src) (b : Src) (k : Small) (ty : Ty) : Statement (.vinsx d a b k ty) :=
  of_code rfl (by decide) (by have h0 := encDst_lt d; have h1 := encSrc_lt a; have h2 := encSrc_lt b; have h3 := k.isLt; have h4 := encTy_lt ty; simp only [encV]; omega)
theorem vrndi (d : Dst) (a : Src) (rm : Rm) (k : Small) (ty : Ty) : Statement (.vrndi d a rm k ty) :=
  of_code rfl (by decide) (by have h0 := encDst_lt d; have h1 := encSrc_lt a; have h2 := encRm_lt rm; have h3 := k.isLt; have h4 := encTy_lt ty; simp only [encV]; omega)
theorem vfma (d : Dst) (a : Src) (b : Src) (c : Src) (tf : FTy) (k : Small) : Statement (.vfma d a b c tf k) :=
  of_code rfl (by decide) (by have h0 := encDst_lt d; have h1 := encSrc_lt a; have h2 := encSrc_lt b; have h3 := encSrc_lt c; have h4 := encFTy_lt tf; have h5 := k.isLt; simp only [encR]; omega)
theorem vfms (d : Dst) (a : Src) (b : Src) (c : Src) (tf : FTy) (k : Small) : Statement (.vfms d a b c tf k) :=
  of_code rfl (by decide) (by have h0 := encDst_lt d; have h1 := encSrc_lt a; have h2 := encSrc_lt b; have h3 := encSrc_lt c; have h4 := encFTy_lt tf; have h5 := k.isLt; simp only [encR]; omega)
theorem vfnma (d : Dst) (a : Src) (b : Src) (c : Src) (tf : FTy) (k : Small) : Statement (.vfnma d a b c tf k) :=
  of_code rfl (by decide) (by have h0 := encDst_lt d; have h1 := encSrc_lt a; have h2 := encSrc_lt b; have h3 := encSrc_lt c; have h4 := encFTy_lt tf; have h5 := k.isLt; simp only [encR]; omega)
theorem vcvt (d : Dst) (a : Src) (tyd : Ty) (tys : Ty) (rm : Rm) (k : Small) (sat : Bool) : Statement (.vcvt d a tyd tys rm k sat) :=
  of_code rfl (by decide) (by have h0 := encDst_lt d; have h1 := encSrc_lt a; have h2 := encTy_lt tyd; have h3 := encTy_lt tys; have h4 := encRm_lt rm; have h5 := k.isLt; have h6 := encBool_lt sat; omega)
theorem vcmp (kd : Small) (cc : VCond) (a : Src) (b : Src) (k : Small) (ty : Ty) : Statement (.vcmp kd cc a b k ty) :=
  of_code rfl (by decide) (by have h0 := kd.isLt; have h1 := encVCond_lt cc; have h2 := encSrc_lt a; have h3 := encSrc_lt b; have h4 := k.isLt; have h5 := encTy_lt ty; simp only [encV]; omega)
theorem kand (kd : Small) (ka : Small) (kb : Small) : Statement (.kand kd ka kb) :=
  of_code rfl (by decide) (by have h0 := kd.isLt; have h1 := ka.isLt; have h2 := kb.isLt; simp only [encV]; omega)
theorem kor (kd : Small) (ka : Small) (kb : Small) : Statement (.kor kd ka kb) :=
  of_code rfl (by decide) (by have h0 := kd.isLt; have h1 := ka.isLt; have h2 := kb.isLt; simp only [encV]; omega)
theorem knot (kd : Small) (ka : Small) : Statement (.knot kd ka) :=
  of_code rfl (by decide) (by have h0 := kd.isLt; have h1 := ka.isLt; simp only [encV]; omega)
theorem kpopc (d : Dst) (ka : Small) : Statement (.kpopc d ka) :=
  of_code rfl (by decide) (by have h0 := encDst_lt d; have h1 := ka.isLt; simp only [encV]; omega)
theorem vctw (ka : Small) : Statement (.vctw ka) :=
  of_code rfl (by decide) (by have h0 := ka.isLt; simp only [encV]; omega)
theorem vbcast (d : Dst) (a : Src) (k : Small) (ty : Ty) : Statement (.vbcast d a k ty) :=
  of_code rfl (by decide) (by have h0 := encDst_lt d; have h1 := encSrc_lt a; have h2 := k.isLt; have h3 := encTy_lt ty; simp only [encV]; omega)
theorem vext (d : Dst) (a : Src) (b : Src) (ty : Ty) : Statement (.vext d a b ty) :=
  of_code rfl (by decide) (by have h0 := encDst_lt d; have h1 := encSrc_lt a; have h2 := encSrc_lt b; have h3 := encTy_lt ty; simp only [encV]; omega)
theorem vins (d : Dst) (a : Src) (b : Src) (k : Small) (ty : Ty) : Statement (.vins d a b k ty) :=
  of_code rfl (by decide) (by have h0 := encDst_lt d; have h1 := encSrc_lt a; have h2 := encSrc_lt b; have h3 := k.isLt; have h4 := encTy_lt ty; simp only [encV]; omega)
theorem viota (d : Dst) (k : Small) (ty : Ty) : Statement (.viota d k ty) :=
  of_code rfl (by decide) (by have h0 := encDst_lt d; have h1 := k.isLt; have h2 := encTy_lt ty; simp only [encV]; omega)
theorem vperm (d : Dst) (a : Src) (b : Src) (k : Small) (ty : Ty) : Statement (.vperm d a b k ty) :=
  of_code rfl (by decide) (by have h0 := encDst_lt d; have h1 := encSrc_lt a; have h2 := encSrc_lt b; have h3 := k.isLt; have h4 := encTy_lt ty; simp only [encV]; omega)
theorem vredadd (d : Dst) (a : Src) (k : Small) (ty : Ty) : Statement (.vredadd d a k ty) :=
  of_code rfl (by decide) (by have h0 := encDst_lt d; have h1 := encSrc_lt a; have h2 := k.isLt; have h3 := encTy_lt ty; simp only [encV]; omega)
theorem vredmax (d : Dst) (a : Src) (k : Small) (ty : Ty) : Statement (.vredmax d a k ty) :=
  of_code rfl (by decide) (by have h0 := encDst_lt d; have h1 := encSrc_lt a; have h2 := k.isLt; have h3 := encTy_lt ty; simp only [encV]; omega)
theorem vredmin (d : Dst) (a : Src) (k : Small) (ty : Ty) : Statement (.vredmin d a k ty) :=
  of_code rfl (by decide) (by have h0 := encDst_lt d; have h1 := encSrc_lt a; have h2 := k.isLt; have h3 := encTy_lt ty; simp only [encV]; omega)
theorem vmaxb (d : Dst) (a : Src) (bf : Bf) : Statement (.vmaxb d a bf) :=
  of_code rfl (by decide) (by have h0 := encDst_lt d; have h1 := encSrc_lt a; have h2 := encBf_lt bf; simp only [encV]; omega)
theorem vqnt (d : Dst) (a : Src) (bf : Bf) : Statement (.vqnt d a bf) :=
  of_code rfl (by decide) (by have h0 := encDst_lt d; have h1 := encSrc_lt a; have h2 := encBf_lt bf; simp only [encV]; omega)
theorem vdqnt (d : Dst) (a : Src) (b : Src) (bf : Bf) : Statement (.vdqnt d a b bf) :=
  of_code rfl (by decide) (by have h0 := encDst_lt d; have h1 := encSrc_lt a; have h2 := encSrc_lt b; have h3 := encBf_lt bf; simp only [encV]; omega)
theorem vdefer (v : RegNo) (n : BitVec 2) (b : Src) (k : Small) : Statement (.vdefer v n b k) :=
  of_code rfl (by decide) (by have h0 := v.isLt; have h1 := n.isLt; have h2 := encSrc_lt b; have h3 := k.isLt; omega)
theorem vdrain (v : RegNo) (n : BitVec 2) (b : Src) : Statement (.vdrain v n b) :=
  of_code rfl (by decide) (by have h0 := v.isLt; have h1 := n.isLt; have h2 := encSrc_lt b; omega)
theorem vld (d : Dst) (a : Src) (off : BitVec 6) (k : Small) (dl : Delay) : Statement (.vld d a off k dl) :=
  of_code rfl ((dl).e.isLt) (by have h0 := encDst_lt d; have h1 := encSrc_lt a; have h2 := off.isLt; have h3 := k.isLt; have h4 := dl.lat.isLt; have h5 := dl.e.isLt; omega)
theorem vlds (d : Dst) (a : Src) (b : Src) (k : Small) (dl : Delay) : Statement (.vlds d a b k dl) :=
  of_code rfl ((dl).e.isLt) (by have h0 := encDst_lt d; have h1 := encSrc_lt a; have h2 := encSrc_lt b; have h3 := k.isLt; have h4 := dl.lat.isLt; have h5 := dl.e.isLt; omega)
theorem vgath (d : Dst) (a : Src) (vi : Src) (w64 : Bool) (k : Small) (dl : Delay) : Statement (.vgath d a vi w64 k dl) :=
  of_code rfl ((dl).e.isLt) (by have h0 := encDst_lt d; have h1 := encSrc_lt a; have h2 := encSrc_lt vi; have h3 := encBool_lt w64; have h4 := k.isLt; have h5 := dl.lat.isLt; have h6 := dl.e.isLt; omega)
theorem vldl (d : Dst) (a : Src) (off : BitVec 6) (k : Small) (dl : Delay) : Statement (.vldl d a off k dl) :=
  of_code rfl ((dl).e.isLt) (by have h0 := encDst_lt d; have h1 := encSrc_lt a; have h2 := off.isLt; have h3 := k.isLt; have h4 := dl.lat.isLt; have h5 := dl.e.isLt; omega)
theorem vldv (d : Dst) (a : Src) (b : Src) (k : Small) (dl : Delay) : Statement (.vldv d a b k dl) :=
  of_code rfl ((dl).e.isLt) (by have h0 := encDst_lt d; have h1 := encSrc_lt a; have h2 := encSrc_lt b; have h3 := k.isLt; have h4 := dl.lat.isLt; have h5 := dl.e.isLt; omega)
theorem vst (b : Src) (a : Src) (off : BitVec 14) (k : Small) : Statement (.vst b a off k) :=
  of_code rfl (extE_lt 12 _ off.isLt) (by have h0 := encSrc_lt b; have h1 := encSrc_lt a; have h2 := off.isLt; have h3 := k.isLt; simp only [encVs]; omega)
theorem vsts (b : Src) (a : Src) (sb : Src) (k : Small) : Statement (.vsts b a sb k) :=
  of_code rfl (by decide) (by have h0 := encSrc_lt b; have h1 := encSrc_lt a; have h2 := encSrc_lt sb; have h3 := k.isLt; simp only [encVs]; omega)
theorem vscat (b : Src) (a : Src) (vi : Src) (w64 : Bool) (k : Small) : Statement (.vscat b a vi w64 k) :=
  of_code rfl (by decide) (by have h0 := encSrc_lt b; have h1 := encSrc_lt a; have h2 := encSrc_lt vi; have h3 := encBool_lt w64; have h4 := k.isLt; simp only [encVs]; omega)
theorem vstl (b : Src) (a : Src) (off : BitVec 14) (k : Small) : Statement (.vstl b a off k) :=
  of_code rfl (extE_lt 12 _ off.isLt) (by have h0 := encSrc_lt b; have h1 := encSrc_lt a; have h2 := off.isLt; have h3 := k.isLt; simp only [encVs]; omega)
theorem vstv (b : Src) (a : Src) (sb : Src) (k : Small) : Statement (.vstv b a sb k) :=
  of_code rfl (by decide) (by have h0 := encSrc_lt b; have h1 := encSrc_lt a; have h2 := encSrc_lt sb; have h3 := k.isLt; simp only [encVs]; omega)
theorem mstrm (s : RegNo) (a : Src) : Statement (.mstrm s a) :=
  of_code rfl (by decide) (by have h0 := s.isLt; have h1 := encSrc_lt a; omega)
theorem mnest (a : Src) : Statement (.mnest a) :=
  of_code rfl (by decide) (by have h0 := encSrc_lt a; omega)
theorem mgo (sa : RegNo) (sb : RegNo) (acc : Small) (accum : Bool) (ser : Bool) : Statement (.mgo sa sb acc accum ser) :=
  of_code rfl (by decide) (by have h0 := sa.isLt; have h1 := sb.isLt; have h2 := acc.isLt; have h3 := encBool_lt accum; have h4 := encBool_lt ser; omega)
theorem mza (acc : Small) : Statement (.mza acc) :=
  of_code rfl (by decide) (by have h0 := acc.isLt; omega)
theorem mepi (acc : Small) (a : Src) : Statement (.mepi acc a) :=
  of_code rfl (by decide) (by have h0 := acc.isLt; have h1 := encSrc_lt a; omega)
theorem mtov (d : Dst) (acc : Small) (row : BitVec 6) (part : BitVec 2) : Statement (.mtov d acc row part) :=
  of_code rfl (by decide) (by have h0 := encDst_lt d; have h1 := acc.isLt; have h2 := row.isLt; have h3 := part.isLt; omega)
theorem mfromv (a : Src) (acc : Small) (row : BitVec 6) (part : BitVec 2) : Statement (.mfromv a acc row part) :=
  of_code rfl (by decide) (by have h0 := encSrc_lt a; have h1 := acc.isLt; have h2 := row.isLt; have h3 := part.isLt; omega)
theorem speshp (sh : BitVec 6) (a : Src) : Statement (.speshp sh a) :=
  of_code rfl (by decide) (by have h0 := sh.isLt; have h1 := encSrc_lt a; omega)
theorem speld (a : Src) (z : BitVec 12) : Statement (.speld a z) :=
  of_code rfl (by decide) (by have h0 := encSrc_lt a; have h1 := z.isLt; omega)
theorem spest (d : Dst) (z : BitVec 12) : Statement (.spest d z) :=
  of_code rfl (by decide) (by have h0 := encDst_lt d; have h1 := z.isLt; omega)
theorem speup (sh : BitVec 6) (tm : BitVec 4) (z : BitVec 12) : Statement (.speup sh tm z) :=
  of_code rfl (by decide) (by have h0 := sh.isLt; have h1 := tm.isLt; have h2 := z.isLt; omega)
theorem spedn (sh : BitVec 6) (tm : BitVec 4) (z : BitVec 12) : Statement (.spedn sh tm z) :=
  of_code rfl (by decide) (by have h0 := sh.isLt; have h1 := tm.isLt; have h2 := z.isLt; omega)
theorem specvtF32Sp32 (z : BitVec 12) : Statement (.specvtF32Sp32 z) :=
  of_code rfl (by decide) (by have h0 := z.isLt; omega)
theorem specvtSp32F32 (z : BitVec 12) : Statement (.specvtSp32F32 z) :=
  of_code rfl (by decide) (by have h0 := z.isLt; omega)
theorem speza (z : BitVec 12) : Statement (.speza z) :=
  of_code rfl (by decide) (by have h0 := z.isLt; omega)
theorem cpy (o : Src) (a : Src) (b : Src) (c : Src) : Statement (.cpy o a b c) :=
  of_code rfl (by decide) (by have h0 := encSrc_lt o; have h1 := encSrc_lt a; have h2 := encSrc_lt b; have h3 := encSrc_lt c; simp only [encR]; omega)
theorem cpyp (o : Src) (a : Src) (b : Src) (c : Src) : Statement (.cpyp o a b c) :=
  of_code rfl (by decide) (by have h0 := encSrc_lt o; have h1 := encSrc_lt a; have h2 := encSrc_lt b; have h3 := encSrc_lt c; simp only [encR]; omega)
theorem cpyg (o : Src) (a : Src) (b : Src) (c : Src) : Statement (.cpyg o a b c) :=
  of_code rfl (by decide) (by have h0 := encSrc_lt o; have h1 := encSrc_lt a; have h2 := encSrc_lt b; have h3 := encSrc_lt c; simp only [encR]; omega)
theorem stbind (o : Src) (s : RegNo) (c : Src) : Statement (.stbind o s c) :=
  of_code rfl (by decide) (by have h0 := encSrc_lt o; have h1 := s.isLt; have h2 := encSrc_lt c; simp only [encR]; omega)
theorem cpys (o : Src) (a : Src) (b : Src) (c : Src) : Statement (.cpys o a b c) :=
  of_code rfl (by decide) (by have h0 := encSrc_lt o; have h1 := encSrc_lt a; have h2 := encSrc_lt b; have h3 := encSrc_lt c; simp only [encR]; omega)
theorem smrg (o : Src) (a : Src) (b : Src) : Statement (.smrg o a b) :=
  of_code rfl (by decide) (by have h0 := encSrc_lt o; have h1 := encSrc_lt a; have h2 := encSrc_lt b; simp only [encR]; omega)
theorem copyEngineRun (eng : Fin 2) : Statement (.copyEngineRun eng) := of_none rfl
theorem cpysRecordUpdate (eng : Fin 2) : Statement (.cpysRecordUpdate eng) := of_none rfl
theorem smrgRecordUpdate (eng : Fin 2) : Statement (.smrgRecordUpdate eng) := of_none rfl
theorem boAddition (obj : Nat) (n : Nat) (stamp : Nat) : Statement (.boAddition obj n stamp) := of_none rfl
theorem send (o : Src) (a : Src) (b : Src) (c : Src) : Statement (.send o a b c) :=
  of_code rfl (by decide) (by have h0 := encSrc_lt o; have h1 := encSrc_lt a; have h2 := encSrc_lt b; have h3 := encSrc_lt c; simp only [encR]; omega)
theorem remoteChunkArrival (win : Bool) (off : BitVec 22) (ctr : RegNo) (data : List Byte) : Statement (.remoteChunkArrival win off ctr data) := of_none rfl
theorem recv (a : Src) (b : Src) : Statement (.recv a b) :=
  of_code rfl (by decide) (by have h0 := encSrc_lt a; have h1 := encSrc_lt b; simp only [encR]; omega)
theorem recvadd (o : Src) (a : Src) (b : Src) (c : Src) : Statement (.recvadd o a b c) :=
  of_code rfl (by decide) (by have h0 := encSrc_lt o; have h1 := encSrc_lt a; have h2 := encSrc_lt b; have h3 := encSrc_lt c; simp only [encR]; omega)
theorem ttset (o : Src) (a : Src) (b : Src) : Statement (.ttset o a b) :=
  of_code rfl (by decide) (by have h0 := encSrc_lt o; have h1 := encSrc_lt a; have h2 := encSrc_lt b; simp only [encR]; omega)
theorem tready (a : Src) : Statement (.tready a) :=
  of_code rfl (by decide) (by have h0 := encSrc_lt a; simp only [encR]; omega)
theorem twait (a : Src) : Statement (.twait a) :=
  of_code rfl (by decide) (by have h0 := encSrc_lt a; simp only [encR]; omega)
theorem tileFiringStart (die : Bool) (idx : Nat) : Statement (.tileFiringStart die idx) := of_none rfl
theorem tileChunkStage (die : Bool) (idx : Nat) (chunk : TileChunk) : Statement (.tileChunkStage die idx chunk) := of_none rfl
theorem tileFiringComplete (die : Bool) (idx : Nat) : Statement (.tileFiringComplete die idx) := of_none rfl
theorem sendPhaseEnd (die : Bool) (answer : PeerAnswer) : Statement (.sendPhaseEnd die answer) := of_none rfl
theorem transportTimeout (what : NetOp) : Statement (.transportTimeout what) := of_none rfl
theorem landingDataArrival (issue : Nat) (slot : Nat) : Statement (.landingDataArrival issue slot) := of_none rfl
theorem engineBankAccess (eng : Fin 2) : Statement (.engineBankAccess eng) := of_none rfl
theorem instanceLoad (launch : Nat) (inst : Nat) : Statement (.instanceLoad launch inst) := of_none rfl
theorem instanceComplete (launch : Nat) (inst : Nat) : Statement (.instanceComplete launch inst) := of_none rfl
theorem launchPacket (part : Fin 4) (q : Nat) : Statement (.launchPacket part q) := of_none rfl
theorem waitPacket (part : Fin 4) (q : Nat) : Statement (.waitPacket part q) := of_none rfl
theorem signalPacket (part : Fin 4) (q : Nat) : Statement (.signalPacket part q) := of_none rfl
theorem signalReread (part : Fin 4) (q : Nat) : Statement (.signalReread part q) := of_none rfl
theorem queuePark (part : Fin 4) (q : Nat) : Statement (.queuePark part q) := of_none rfl
theorem priorityRaise (part : Fin 4) (q : Nat) : Statement (.priorityRaise part q) := of_none rfl
theorem queueTimeout (part : Fin 4) (q : Nat) : Statement (.queueTimeout part q) := of_none rfl
theorem instancePlace (launch : Nat) (inst : Nat) : Statement (.instancePlace launch inst) := of_none rfl
theorem provisionalEvict (launch : Nat) (inst : Nat) : Statement (.provisionalEvict launch inst) := of_none rfl
theorem shapeSignalRead (launch : Nat) : Statement (.shapeSignalRead launch) := of_none rfl
theorem launchComplete (launch : Nat) : Statement (.launchComplete launch) := of_none rfl
theorem trapForward (grant : Bool) : Statement (.trapForward grant) := of_none rfl
theorem bankFailMark (store : RowStore) (bank : Nat) : Statement (.bankFailMark store bank) := of_none rfl
theorem rebuildRow (store : RowStore) : Statement (.rebuildRow store) := of_none rfl
theorem scrubRow (store : RowStore) (row : Nat) : Statement (.scrubRow store row) := of_none rfl
theorem clockChange (up : Bool) : Statement (.clockChange up) := of_none rfl
theorem hostWrite (addr : Nat) (data : List Byte) : Statement (.hostWrite addr data) := of_none rfl
theorem hostRead (addr : Nat) (n : Nat) : Statement (.hostRead addr n) := of_none rfl
theorem repairPacket (part : Fin 4) : Statement (.repairPacket part) := of_none rfl
theorem qcreate (part : Fin 4) : Statement (.qcreate part) := of_none rfl
theorem scrblk (part : Fin 4) : Statement (.scrblk part) := of_none rfl
theorem rllimit (part : Fin 4) : Statement (.rllimit part) := of_none rfl
theorem peerset (part : Fin 4) : Statement (.peerset part) := of_none rfl
theorem firmwareUpdate (img : FwImage) : Statement (.firmwareUpdate img) := of_none rfl
theorem recoveryUpdate (img : FwImage) : Statement (.recoveryUpdate img) := of_none rfl
theorem svnRaise (svn : BitVec 32) : Statement (.svnRaise svn) := of_none rfl
theorem keyLoad (key : List Byte) : Statement (.keyLoad key) := of_none rfl
theorem getVersion (msg : List Byte) : Statement (.getVersion msg) := of_none rfl
theorem getCapabilities (msg : List Byte) : Statement (.getCapabilities msg) := of_none rfl
theorem negotiateAlgorithms (msg : List Byte) : Statement (.negotiateAlgorithms msg) := of_none rfl
theorem getDigests (msg : List Byte) : Statement (.getDigests msg) := of_none rfl
theorem getCertificate (msg : List Byte) : Statement (.getCertificate msg) := of_none rfl
theorem challenge (msg : List Byte) : Statement (.challenge msg) := of_none rfl
theorem getMeasurements (msg : List Byte) : Statement (.getMeasurements msg) := of_none rfl
theorem keyExchange (msg : List Byte) : Statement (.keyExchange msg) := of_none rfl
theorem finish (msg : List Byte) : Statement (.finish msg) := of_none rfl
theorem keyUpdate (msg : List Byte) : Statement (.keyUpdate msg) := of_none rfl
theorem endSession (msg : List Byte) : Statement (.endSession msg) := of_none rfl
theorem pldmBase (msg : List Byte) : Statement (.pldmBase msg) := of_none rfl
theorem pldmPlatformMonitoring (msg : List Byte) : Statement (.pldmPlatformMonitoring msg) := of_none rfl
theorem pldmFru (msg : List Byte) : Statement (.pldmFru msg) := of_none rfl
theorem pldmFirmwareUpdate (img : FwImage) : Statement (.pldmFirmwareUpdate img) := of_none rfl
theorem powerLoss (cut : FlashCut) : Statement (.powerLoss cut) := of_none rfl
theorem portDown (port : Fin 8) (up : Bool) : Statement (.portDown port up) := of_none rfl
theorem nop : Statement .nop :=
  of_code rfl (by decide) (by decide)
theorem lockHoldEnd : Statement .lockHoldEnd := of_none rfl
theorem splitCycle : Statement .splitCycle := of_none rfl
theorem cvadv : Statement .cvadv :=
  of_code rfl (by decide) (by decide)
theorem isync : Statement .isync :=
  of_code rfl (by decide) (by decide)
theorem stRelPerform : Statement .stRelPerform := of_none rfl
theorem comAtomicApply : Statement .comAtomicApply := of_none rfl
theorem cacheOpComplete : Statement .cacheOpComplete := of_none rfl
theorem bar : Statement .bar :=
  of_code rfl (by decide) (by decide)
theorem ebar : Statement .ebar :=
  of_code rfl (by decide) (by decide)
theorem barRelease : Statement .barRelease := of_none rfl
theorem ebarRelease : Statement .ebarRelease := of_none rfl
theorem wfe : Statement .wfe :=
  of_code rfl (by decide) (by decide)
theorem eventLanding : Statement .eventLanding := of_none rfl
theorem join : Statement .join :=
  of_code rfl (by decide) (by decide)
theorem taskend : Statement .taskend :=
  of_code rfl (by decide) (by decide)
theorem exit : Statement .exit :=
  of_code rfl (by decide) (by decide)
theorem stealProbe : Statement .stealProbe := of_none rfl
theorem taskDispatch : Statement .taskDispatch := of_none rfl
theorem completionNotice : Statement .completionNotice := of_none rfl
theorem noticePost : Statement .noticePost := of_none rfl
theorem sqcfgApply : Statement .sqcfgApply := of_none rfl
theorem tlbiAll : Statement .tlbiAll :=
  of_code rfl (by decide) (by decide)
theorem idle : Statement .idle :=
  of_code rfl (by decide) (by decide)
theorem bkpt : Statement .bkpt :=
  of_code rfl (by decide) (by decide)
theorem eret : Statement .eret :=
  of_code rfl (by decide) (by decide)
theorem scaleLatchWrite : Statement .scaleLatchWrite := of_none rfl
theorem draftPartWrite : Statement .draftPartWrite := of_none rfl
theorem arrayStep : Statement .arrayStep := of_none rfl
theorem mgoComplete : Statement .mgoComplete := of_none rfl
theorem msync : Statement .msync :=
  of_code rfl (by decide) (by decide)
theorem epilogueRun : Statement .epilogueRun := of_none rfl
theorem sendChunkLanding : Statement .sendChunkLanding := of_none rfl
theorem recvaddCombine : Statement .recvaddCombine := of_none rfl
theorem ttsetApply : Statement .ttsetApply := of_none rfl
theorem resultWrite : Statement .resultWrite := of_none rfl
theorem landing : Statement .landing := of_none rfl
theorem scheduledAccessPerform : Statement .scheduledAccessPerform := of_none rfl
theorem coherentAccessPerform : Statement .coherentAccessPerform := of_none rfl
theorem ptsDrift : Statement .ptsDrift := of_none rfl
theorem pageWalkComplete : Statement .pageWalkComplete := of_none rfl
theorem roundEntryProcess : Statement .roundEntryProcess := of_none rfl
theorem preemptionStop : Statement .preemptionStop := of_none rfl
theorem urgentRelease : Statement .urgentRelease := of_none rfl
theorem urgentComplete : Statement .urgentComplete := of_none rfl
theorem fullStateSave : Statement .fullStateSave := of_none rfl
theorem trapEntry : Statement .trapEntry := of_none rfl
theorem monitorTrapHandle : Statement .monitorTrapHandle := of_none rfl
theorem trapResume : Statement .trapResume := of_none rfl
theorem scrubPassEnd : Statement .scrubPassEnd := of_none rfl
theorem thermalTrip : Statement .thermalTrip := of_none rfl
theorem boot : Statement .boot := of_none rfl
theorem packageReset : Statement .packageReset := of_none rfl
theorem fullStateRestore : Statement .fullStateRestore := of_none rfl

end Sys2Proof.Laws.EncodingFits
end

