-- ==== Sys2Proof/Tests/Slice0.lean ====
section
/-! SUPPORT. Tests of one step or less each, expected values computed by hand from the rules named, and for the hypotheses of the
statements concrete states and operands that meet them (`wit_…`). -/

namespace Sys2Proof.Tests

open Sys2Proof Sys2Proof.Machine

-- one theorem at a time: each of them is small, but together they would hold the memory of many threads
set_option Elab.async false

/-! ### Small states -/

/-- The reset state with some general registers set. -/
def gs (l : List (RegNo × Nat)) : State :=
  State.reset.modRegs fun r => { r with g := l.foldl (fun g x => g.set x.1 (.ofNat 64 x.2)) r.g }

/-- The reset state with some vector registers set. -/
def vs (l : List (RegNo × Nat)) : State :=
  State.reset.modRegs fun r => { r with v := l.foldl (fun v x => v.set x.1 (.ofNat 1024 x.2)) r.v }

/-- Both. -/
def gvs (l v : List (RegNo × Nat)) : State :=
  (gs l).modRegs fun r => { r with v := v.foldl (fun v x => v.set x.1 (.ofNat 1024 x.2)) r.v }

/-- At a privilege level. -/
def lvl (n : Nat) (s : State) : State := s.modExc fun e => { e with level := .ofNat 2 n }

/-- As an urgent context. -/
def urgent (s : State) : State := s.modCore fun c => { c with urg := true }

/-- With a result due now. -/
def posted (r : Result) : State := State.reset.post 0 r

/-- With bytes of memory at a key. -/
def withMem (k : Nat) (bs : List Nat) (s : State) : State := { s with mem := memPutList s.mem k (bs.map fun b => .ofNat 8 b) }

/-- With one scheduled or coherent access, or landing. -/
def withSched (a : Sched) (s : State) : State := s.modPort fun p => { p with sched := [a] }
def withCoh (k : CohKind) (s : State) : State := s.modPort fun p => { p with cohQ := [⟨0, 0, 0, k⟩] }
def withLanding (l : Landing) (s : State) : State := s.modPort fun p => { p with landings := [l] }

/-- A landing of the operation at cycle 0, slot 0. -/
def land (dst : LandDst) (val : Option Vec) : Landing := ⟨0, 0, 0, dst, val, true, none, true, true, 0⟩

/-- What an engine keeps of an operation issued first of all, and the same with its clock. -/
def job0 : Issued := ⟨0, 0, 0, 2#2, 0#16, 0#44, none⟩
def job1 : Issued := { job0 with clock := some 0 }

/-- The same state some cycles later, an engine having the bank cycles of the accesses at some places, or of that operation. -/
def grantedAt (eng : Nat) (places : List Nat) (s : State) : State :=
  { s with core := { s.core with clock := 16, port := { s.core.port with grants := places.map fun n => (eng, n, []) } },
           others := s.others.map fun c => { c with clock := 16 } }
def granted (eng : Nat) (s : State) : State := grantedAt eng [0] s

/-- The state after an operation or event; a stop leaves it. -/
def run (i : Instr) (s : State) : State := match exec i s with | .next t => t | _ => s

/-- The scalar that an operation posts last. -/
def outS (i : Instr) (s : State) : Option Word := (run i s).core.port.pend.getLast?.bind fun p => match p.act with | .scalar _ v => some v | _ => none

/-- A lane of the vector that an operation posts first. -/
def outV (w j : Nat) (i : Instr) (s : State) : Option Nat := (run i s).core.port.pend.head?.bind fun p => match p.act with | .vector _ v => some (laneGet w v j) | _ => none

/-- The flags that an operation posts. -/
def outF (i : Instr) (s : State) : Option (BitVec 8) := (run i s).core.port.pend.getLast?.bind fun p => match p.act with | .flags f => some f | _ => none

/-- The predicate that an operation posts. -/
def outP (i : Instr) (s : State) : Option Bool := (run i s).core.port.pend.getLast?.bind fun p => match p.act with | .pred _ b => some b | _ => none

/-- The cause and `TRAPINFO` of a trap entered. -/
def trapOf (i : Instr) (s : State) : BitVec 8 × Word := ((run i s).core.exc.cause, (run i s).core.exc.info)

/-- An instance of index 0, a launch that has some instances, and the core in focus as a provisional one, its instance's writes as given. -/
def inst0 (st : IState) (cs : List (Nat × Nat × Nat)) : Inst := ⟨0, st, cs, false, [], [], none, [], false⟩
def launch0 (insts : List Inst) : Launch :=
  { slot := 0, gen := 0, part := 0, asid := 0#16, qnum := 1, pkt := 0, parent := none, image := 0, floor := 1, ceil := 1, src := 0, pred := false,
    site := 0, evt := false, sig := 0#64, done := 0#64, pbo := 0#64, pexp := 0, shape := none, low := false, tail := false, err := false,
    fin := false, clock := 0, top := 0, since := 0, paused := 0, preset := false, urgent := none, insts := insts }
def provCore (buf : List StorePiece) (s : State) : State :=
  { s with core := { s.core with prov := true, launch := some (0, 0) }, launches := [launch0 [{ inst0 .runProv [(0, 0, 0)] with loaded := true, buf := buf }]] }

/-! ### WellFormed: one ill-formed term for each check -/

theorem test_wf_header_tb : (Instr.headerTransfer false 0#4 .never 1 0#14).wf = false := by decide
theorem test_wf_header_ext : (Instr.headerTransfer false 0#4 .never 0 64#14).wf = false := by decide
theorem test_wf_lock_banks : (Instr.lockHeader false 0#4 0#3 0#16).wf = false := by decide
theorem test_wf_ctlw_own_row : (Instr.ctlw 0x00A#12 (.reg 1)).wf = false := by decide
theorem test_wf_ld_sign_64 : (Instr.ld .queue (.reg 1) 3#2 true 0#6 ⟨1#6, 0#2⟩).wf = false := by decide
theorem test_wf_ldAcq_sign_64 : (Instr.ldAcq .queue (.reg 1) 3#2 true 0#6 ⟨1#6, 0#2⟩).wf = false := by decide
theorem test_wf_amo_com_delay : (Instr.amoAdd (.reg 1) (.reg 2) .i64 .com ⟨1#6, 0#2⟩).wf = false := by decide
theorem test_wf_swap_com : (Instr.amoSwap (.reg 1) (.reg 2) .i64 .com ⟨0#6, 0#2⟩).wf = false := by decide
theorem test_wf_cas_com : (Instr.cas (.reg 1) (.reg 2) (.reg 3) false .com ⟨0#6, 0#2⟩).wf = false := by decide
theorem test_wf_vadd_ty : (Instr.vadd .queue (.reg 1) (.reg 2) 0 .i16).wf = false := by decide
theorem test_wf_vdiv_ty : (Instr.vdiv .queue (.reg 1) (.reg 2) 0 .bf16).wf = false := by decide
theorem test_wf_vabs_ty : (Instr.vabs .queue (.reg 1) 0 .n32).wf = false := by decide
theorem test_wf_vand_ty : (Instr.vand .queue (.reg 1) (.reg 2) 0 .f16).wf = false := by decide
theorem test_wf_vcvt_sat : (Instr.vcvt .queue (.reg 1) .f32 .i32 .rne 0 true).wf = false := by decide
theorem test_wf_vdefer_range : (Instr.vdefer 13 3#2 (.reg 1) 0).wf = false := by decide
theorem test_wf_vdrain_range : (Instr.vdrain 15 1#2 (.reg 1)).wf = false := by decide
theorem test_wf_holds : (Instr.vdefer 13 2#2 (.reg 1) 0).wf = true ∧ (Instr.headerTransfer true 15#4 .always 7 0x3FFF#14).wf = true := by
  decide

/-! ### Headers and bundles (R43 to R47, R59) -/

/-- The header of the worked example: plain, STALL 2, transfer when p2 is 0 through tb1, extension 1 for slot 1. -/
theorem test_decode_header : decodeHeader 0xF0A44001 = .ok (.headerTransfer false 2#4 (.notPred 1) 1 1#14) := by rfl
theorem test_decode_lock : decodeHeader 0xF92C0003 = .ok (.lockHeader true 2#4 6#3 3#16) := by rfl
/-- R59: a reserved XC, TB with XC 0, EXT above slot 3 in one word, a lock without banks, a reserved type. -/
theorem test_decode_headers_refused : [0xF0140000, 0xF0004000, 0xF0000040, 0xF8000000, 0xFA000001].all
    (fun w => match decodeHeader w with | .error _ => true | .ok _ => false) = true := by decide
/-- R59: a nonzero NOP, major 0x70, a header in a slot, a type not accepted, a nonzero RZ bit, e without a field, a bad destination. -/
theorem test_decode_slots_refused : [(0, 1), (0, 0xE0000000), (0, 0xF0000000), (0, 0x60114008), (0, 0x0A001060), (1, 0), (0, 0x03000000)].all
    (fun x => match decodeSlot x.1 x.2 with | .error _ => true | .ok _ => false) = true := by decide
/-- The bundle of the worked example: LD at position 1, VADD at 2, VFMA at 3. -/
theorem test_decode_bundle : (match decodeBundle 0x66531D086011404840322182F0A44001#128 0#128 false with
    | .ok b => b.ops.map Prod.fst == [1, 2, 3] && b.stall == 2 && !b.two && b.bad.isNone
    | .error _ => false) = true := by decide
/-- R27: two S operations in one bundle. -/
theorem test_decode_class_limit : (match decodeBundle 0x03F1140103F11401#128 0#128 false with | .error .classLimit => true | _ => false) = true := by
  decide

/-! ### Decoding: words written out from the encodings of R44 to R56, one for each operation -/

/-- Every word of a list, under its extension bits, decodes to the operation beside it. -/
def decodesAll (l : List (Nat × Nat × Instr)) : Bool :=
  l.all fun x => match decodeSlot x.1 x.2.1 with | .ok i => i == x.2.2 | .error _ => false

theorem test_decode_alu : decodesAll [
    (0, 0x0201C000, .add (.reg 0) (.reg 3) (.age 0)), (0, 0x02124401, .sub (.reg 1) (.reg 4) (.age 1)),
    (0, 0x0222C802, .and (.reg 2) (.reg 5) (.age 2)), (0, 0x02334C03, .or (.reg 3) (.reg 6) (.age 3)),
    (0, 0x0243D004, .xor (.reg 4) (.reg 7) (.age 4)), (0, 0x02545405, .andn (.reg 5) (.reg 8) (.age 5)),
    (0, 0x0264D806, .shl (.reg 6) (.reg 9) (.age 6)), (0, 0x02755C07, .shr (.reg 7) (.reg 10) (.age 7)),
    (0, 0x0285E008, .sra (.reg 8) (.reg 11) (.age 8)), (0, 0x02966409, .rol (.reg 9) (.reg 12) (.age 9)),
    (0, 0x02A6E80A, .minI64 (.reg 10) (.reg 13) (.age 10)), (0, 0x02B76C0B, .minN64 (.reg 11) (.reg 14) (.age 11)),
    (0, 0x02C7F00C, .maxI64 (.reg 12) (.reg 15) (.age 12)), (0, 0x02D0740D, .maxN64 (.reg 13) (.reg 0) (.age 13)),
    (0, 0x03F7000E, .clz .queue (.reg 14)), (0, 0x03F7800F, .ctz .queue (.reg 15)), (0, 0x03F00010, .popc .queue (.reg 0)),
    (0, 0x03F08011, .mov .queue (.reg 1)), (0, 0x03F28015, .sextI8 .queue (.reg 5)), (0, 0x03F30016, .sextI16 .queue (.reg 6)),
    (0, 0x03F38017, .sextI32 .queue (.reg 7)), (0, 0x027424B2, .sel (.reg 7) (.reg 8) (.reg 9) 5),
    (0, 0x027FA413, .bext (.reg 7) (.age 15) (.reg 9)), (0, 0x027426B4, .bins (.reg 7) (.reg 8) (.reg 9) (.age 5)),
    (0, 0x02742478, .lea (.reg 7) (.reg 8) (.reg 9) 3#2), (0, 0x02742419, .wrap (.reg 7) (.reg 8) (.reg 9)),
    (0, 0x04110C00, .mul (.reg 1) (.reg 2) (.reg 3)), (0, 0x04210C01, .mulhI64 (.reg 2) (.reg 2) (.reg 3)),
    (0, 0x04310C02, .mulhN64 (.reg 3) (.reg 2) (.reg 3)), (0, 0x04410C03, .divI64 (.reg 4) (.reg 2) (.reg 3)),
    (0, 0x04510C04, .divN64 (.reg 5) (.reg 2) (.reg 3)), (0, 0x04610C05, .remI64 (.reg 6) (.reg 2) (.reg 3)),
    (0, 0x04710C06, .remN64 (.reg 7) (.reg 2) (.reg 3))] = true := by decide

theorem test_decode_imm : decodesAll [
    (0, 0x06608809, .cmp 6 .geN (.reg 1) (.reg 2)), (1, 0x08A26001, .cmpImm 2 .leI (.age 1) 0x2001#15), (0, 0x0A110C00, .pand 1 2 3),
    (0, 0x0A429801, .por 4 5 6), (0, 0x0A708002, .pnot 7 1), (0, 0x10324001, .addImm (.reg 3) (.reg 4) 0x1C001#17),
    (1, 0x12324001, .andImm (.reg 3) (.reg 4) 0x14001#17), (2, 0x14324001, .orImm (.reg 3) (.reg 4) 0xC001#17),
    (3, 0x16324001, .xorImm (.reg 3) (.reg 4) 0x4001#17), (0, 0x1832003F, .shlImm (.reg 3) (.reg 4) 63#6),
    (0, 0x1A32003E, .shrImm (.reg 3) (.reg 4) 62#6), (0, 0x1C32003D, .sraImm (.reg 3) (.reg 4) 61#6),
    (0, 0x1E32003C, .rolImm (.reg 3) (.reg 4) 60#6), (2, 0x20323FFF, .mulImm (.reg 3) (.reg 4) 0x13FFF#17),
    (0, 0x23F80000, .li .queue 0x380000#22), (3, 0x249ABCDE, .lih 9 0x3ABCDE#22), (0, 0x27A00010, .ptb 6 true 0x10#22),
    (0, 0x28550001, .ptbReg 5 true (.reg 10)), (0, 0x2A210300, .ctlr (.reg 2) 0x103#12), (0, 0x2A200E01, .ctlw 0x00E#12 (.reg 2)),
    (0, 0x2B200101, .ctlwArrmode (.age 2)), (0, 0x2B200A01, .ctlwCvcur (.age 2)), (0, 0x2B200F01, .ctlwEvt (.age 2)),
    (0, 0x2B210401, .ctlwAsid (.age 2)), (0, 0x2B210501, .ctlwPtroot (.age 2)), (0, 0x2B220001, .ctlwPartmap (.age 2)),
    (0, 0x2B220301, .ctlwKeyctl (.age 2)), (0, 0x2C000000, .cvadv), (0, 0x2C000001, .isync), (0, 0x00000000, .nop)] = true := by decide

theorem test_decode_mem : decodesAll [
    (2, 0x403222FF, .ld (.reg 3) (.reg 4) 1#2 true 0x3F#6 ⟨17#6, 2#2⟩),
    (0, 0x43F27FA0, .ldAcq .queue (.reg 4) 3#2 false 0x20#6 ⟨63#6, 0#2⟩), (3, 0x44325000, .st (.reg 3) (.reg 4) 2#2 0x1000#15),
    (0, 0x46320FFF, .stRel (.reg 3) (.reg 4) 0#2 0xFFF#15), (1, 0x48531200, .amoAdd (.reg 5) (.reg 6) .i64 .sc ⟨9#6, 1#2⟩),
    (1, 0x48531252, .amoAnd (.reg 5) (.reg 6) .n64 .unp ⟨9#6, 1#2⟩), (1, 0x485312A6, .amoOr (.reg 5) (.reg 6) .i32 .nor ⟨9#6, 1#2⟩),
    (1, 0x485312F8, .amoXor (.reg 5) (.reg 6) .n32 .qua ⟨9#6, 1#2⟩), (1, 0x4853130A, .amoSwap (.reg 5) (.reg 6) .i64 .spc ⟨9#6, 1#2⟩),
    (1, 0x48531360, .amoMin (.reg 5) (.reg 6) .i32 .sc ⟨9#6, 1#2⟩), (1, 0x485313B2, .amoMax (.reg 5) (.reg 6) .n32 .unp ⟨9#6, 1#2⟩),
    (0, 0x48530054, .amoAnd (.reg 5) (.reg 6) .n64 .com ⟨0#6, 0#2⟩),
    (3, 0x4A110E85, .cas (.reg 1) (.reg 2) (.reg 3) false .spc ⟨40#6, 3#2⟩), (0, 0x4C800000, .fence .ensemble),
    (0, 0x4C200000, .fenceX .core), (0, 0x4E008800, .boinit (.reg 1) (.reg 2)), (0, 0x4E008801, .boarm (.reg 1) (.reg 2)),
    (0, 0x4E018002, .bowait (.reg 3)), (0, 0x4E008803, .cwb (.reg 1) (.reg 2)), (0, 0x4E008804, .cinv (.reg 1) (.reg 2))] = true := by decide

theorem test_decode_sys : decodesAll [
    (0, 0x50000000, .bar), (0, 0x50000001, .ebar), (0, 0x50000002, .wfe), (0, 0x50000004, .join), (0, 0x50000005, .taskend),
    (0, 0x50000006, .exit), (0, 0x50048003, .sev (.reg 9)), (3, 0x52747FFF, .fork 0x1FFFF#17 (.reg 7) (.reg 8)),
    (0, 0x54320000, .launch (.reg 3) (.reg 4)), (0, 0x54021401, .shape (.reg 4) (.reg 5)), (0, 0x54021402, .qsigSet (.reg 4) (.reg 5)),
    (0, 0x54021422, .qsigAdd (.reg 4) (.reg 5)), (0, 0x54021442, .qsigOr (.reg 4) (.reg 5)), (0, 0x56021400, .pqpush (.reg 4) (.reg 5)),
    (0, 0x56021401, .sqrun (.reg 4) (.reg 5)), (0, 0x56321402, .sqcfg (.reg 3) (.reg 4) (.reg 5)),
    (1, 0x58307800, .pqtake (.reg 3) ⟨60#6, 1#2⟩), (0, 0x58327801, .depth (.reg 3) (.reg 4) ⟨60#6, 0#2⟩),
    (0, 0x59F00A02, .rbread .queue ⟨5#6, 0#2⟩), (0, 0x5A020000, .sysc (.reg 4)), (0, 0x5A021401, .tlbiVa (.reg 4) (.reg 5)),
    (0, 0x5A001421, .tlbiAsid (.reg 5)), (0, 0x5A000041, .tlbiAll), (0, 0x5A000002, .idle), (0, 0x5A320003, .lockw (.reg 3) (.reg 4)),
    (0, 0x5A321404, .prmt (.reg 3) (.reg 4) (.reg 5)), (0, 0x5A320005, .rsum (.reg 3) (.reg 4)), (2, 0x5C001234, .trap 0x11234#17),
    (0, 0x5E000000, .eret), (0, 0x5E000001, .bkpt)] = true := by decide

theorem test_decode_varith : decodesAll [
    (0, 0x60114CD0, .vadd (.reg 1) (.reg 2) (.age 3) 1 .bf16), (0, 0x60114D59, .vsub (.reg 1) (.reg 2) (.age 3) 2 .f16),
    (0, 0x60114D92, .vmul (.reg 1) (.reg 2) (.age 3) 3 .i32), (0, 0x60114E33, .vmin (.reg 1) (.reg 2) (.age 3) 4 .n32),
    (0, 0x60114E9C, .vmax (.reg 1) (.reg 2) (.age 3) 5 .i64), (0, 0x60114F45, .vdiv (.reg 1) (.reg 2) (.age 3) 6 .f64),
    (0, 0x6011039E, .vabs (.reg 1) (.reg 2) 7 .i64), (0, 0x6011004F, .vneg (.reg 1) (.reg 2) 0 .f32),
    (0, 0x63F10C10, .vand .queue (.reg 2) (.reg 3) 0 .i32), (0, 0x63F10CB1, .vor .queue (.reg 2) (.reg 3) 1 .n32),
    (0, 0x63F10D1A, .vxor .queue (.reg 2) (.reg 3) 2 .i64), (0, 0x63F10DBB, .vshl .queue (.reg 2) (.reg 3) 3 .n64),
    (0, 0x63F10E4C, .vshr .queue (.reg 2) (.reg 3) 4 .f32), (0, 0x63F10E95, .vsra .queue (.reg 2) (.reg 3) 5 .i32),
    (0, 0x63F10F46, .vsel .queue (.reg 2) (.reg 3) 6 .f64), (0, 0x64110040, .vsqrt (.reg 1) (.reg 2) 0 .f64),
    (0, 0x641100C9, .vrcp (.reg 1) (.reg 2) 1 .f32), (0, 0x64110142, .vrsq (.reg 1) (.reg 2) 2 .f64),
    (0, 0x641101CB, .vfex2 (.reg 1) (.reg 2) 3 .f32), (0, 0x64110244, .vlg2 (.reg 1) (.reg 2) 4 .f64),
    (0, 0x641102CD, .vgetx (.reg 1) (.reg 2) 5 .f32), (0, 0x64110F4E, .vinsx (.reg 1) (.reg 2) (.reg 3) 6 .f32),
    (0, 0x641110C7, .vrndi (.reg 1) (.reg 2) .rna 1 .f64)] = true := by decide

theorem test_decode_vlane : decodesAll [
    (0, 0x66110C85, .vfma (.reg 1) (.reg 2) (.reg 3) (.reg 4) .f64 5),
    (0, 0x68110C95, .vfms (.reg 1) (.reg 2) (.reg 3) (.reg 4) .bf16 5),
    (0, 0x6A110C9D, .vfnma (.reg 1) (.reg 2) (.reg 3) (.reg 4) .f16 5), (0, 0x6C1125B9, .vcvt (.reg 1) (.reg 2) .n8 .f16 .rdn 4 true),
    (0, 0x6E308ADE, .vcmp 3 .un (.reg 1) (.reg 2) 5 .f16), (0, 0x70110C00, .kand 1 2 3), (0, 0x70110C01, .kor 1 2 3),
    (0, 0x70110002, .knot 1 2), (0, 0x70C10003, .kpopc (.reg 12) 2), (0, 0x70010004, .vctw 2),
    (0, 0x721101C8, .vbcast (.reg 1) (.reg 2) 3 .f32), (0, 0x72111419, .vext (.reg 1) (.reg 2) (.reg 5) .i64),
    (0, 0x72111712, .vins (.reg 1) (.reg 2) (.reg 5) 6 .i32), (0, 0x721001BB, .viota (.reg 1) 3 .n64),
    (0, 0x741115C8, .vperm (.reg 1) (.reg 2) (.reg 5) 3 .f32), (0, 0x761101C8, .vredadd (.reg 1) (.reg 2) 3 .f32),
    (0, 0x761101B1, .vredmax (.reg 1) (.reg 2) 3 .n32), (0, 0x761101C2, .vredmin (.reg 1) (.reg 2) 3 .f64),
    (0, 0x78110020, .vmaxb (.reg 1) (.reg 2) .mx8e5), (0, 0x78110041, .vqnt (.reg 1) (.reg 2) .mxi8),
    (0, 0x78110C02, .vdqnt (.reg 1) (.reg 2) (.reg 3) .px2), (0, 0x7AD2E800, .vdefer 13 2#2 (.reg 5) 6),
    (0, 0x7CF28000, .vdrain 15 0#2 (.reg 5))] = true := by decide

theorem test_decode_vmem : decodesAll [
    (1, 0x801142FE, .vld (.reg 1) (.reg 2) 0x3E#6 3 ⟨33#6, 1#2⟩), (0, 0x821142C5, .vlds (.reg 1) (.reg 2) (.reg 5) 3 ⟨33#6, 0#2⟩),
    (0, 0x841142E6, .vgath (.reg 1) (.reg 2) (.reg 6) true 3 ⟨33#6, 0#2⟩), (0, 0x86110E01, .vldl (.reg 1) (.reg 2) 1#6 0 ⟨7#6, 0#2⟩),
    (0, 0x88110F09, .vldv (.reg 1) (.reg 2) (.reg 9) 4 ⟨7#6, 0#2⟩), (2, 0x8A1137FF, .vst (.reg 1) (.reg 2) 0x27FF#14 3),
    (0, 0x8C113480, .vsts (.reg 1) (.reg 2) (.reg 9) 3), (0, 0x8E113A40, .vscat (.reg 1) (.reg 2) (.reg 9) true 3),
    (0, 0x90113FFF, .vstl (.reg 1) (.reg 2) 0x3FFF#14 3), (0, 0x92113480, .vstv (.reg 1) (.reg 2) (.reg 9) 3)] = true := by decide

theorem test_decode_mcn : decodesAll [
    (0, 0xA1620000, .mstrm 11 (.reg 4)), (0, 0xA2020000, .mnest (.reg 4)), (0, 0xA5E39000, .mgo 15 1 6 false true),
    (0, 0xA6000000, .msync), (0, 0xA9C00000, .mza 7), (0, 0xAAC20000, .mepi 3 (.reg 4)), (0, 0xAC95FA00, .mtov (.reg 9) 2 63#6 1#2),
    (0, 0xAF942E00, .mfromv (.age 9) 2 5#6 3#2), (0, 0xB1F90000, .speshp 63#6 (.reg 4)), (0, 0xB24FE000, .speld (.reg 4) 0xFE0#12),
    (0, 0xB5FFE000, .spest .queue 0xFE0#12), (0, 0xB70CD5E0, .speup 33#6 9#4 0xABC#12), (0, 0xB90B55E0, .spedn 33#6 6#4 0xABC#12),
    (0, 0xBA246000, .specvtF32Sp32 0x123#12), (0, 0xBA247000, .specvtSp32F32 0x123#12), (0, 0xBDFFE000, .speza 0xFFF#12),
    (0, 0xC0110C80, .cpy (.reg 1) (.reg 2) (.reg 3) (.reg 4)), (0, 0xC0110C81, .cpyp (.reg 1) (.reg 2) (.reg 3) (.reg 4)),
    (0, 0xC0110C82, .cpyg (.reg 1) (.reg 2) (.reg 3) (.reg 4)), (0, 0xC0170083, .stbind (.reg 1) 14 (.reg 4)),
    (0, 0xC2110C80, .cpys (.reg 1) (.reg 2) (.reg 3) (.reg 4)), (0, 0xC2110C01, .smrg (.reg 1) (.reg 2) (.reg 3)),
    (0, 0xD0110C80, .send (.reg 1) (.reg 2) (.reg 3) (.reg 4)), (0, 0xD0010C01, .recv (.reg 2) (.reg 3)),
    (0, 0xD0110C82, .recvadd (.reg 1) (.reg 2) (.reg 3) (.reg 4)), (0, 0xD2110C00, .ttset (.reg 1) (.reg 2) (.reg 3)),
    (0, 0xD2010001, .tready (.reg 2)), (0, 0xD2010002, .twait (.reg 2))] = true := by decide

/-! ### Scalar operations (R91 to R97) -/

theorem test_add_wraps : outS (.add (.reg 3) (.reg 1) (.reg 2)) (gs [(1, 2 ^ 64 - 1), (2, 2)]) = some 1#64 := by decide
theorem test_sub_borrows : outS (.sub .queue (.reg 1) (.reg 2)) (gs [(1, 1), (2, 2)]) = some 0xFFFFFFFFFFFFFFFF#64 := by decide
theorem test_andn : outS (.andn .queue (.reg 1) (.reg 2)) (gs [(1, 0xF0F0), (2, 0xFF00)]) = some 0x00F0#64 := by decide
theorem test_sra_sign : outS (.sra .queue (.reg 1) (.reg 2)) (gs [(1, 2 ^ 63), (2, 64 + 63)]) = some 0xFFFFFFFFFFFFFFFF#64 := by decide
theorem test_rol : outS (.rol .queue (.reg 1) (.reg 2)) (gs [(1, 0x8000000000000001), (2, 1)]) = some 3#64 := by decide
theorem test_lea : outS (.lea .queue (.reg 1) (.reg 2) 3#2) (gs [(1, 5), (2, 2 ^ 61)]) = some 5#64 := by decide
theorem test_min_signed : outS (.minI64 .queue (.reg 1) (.reg 2)) (gs [(1, 1), (2, 2 ^ 64 - 1)]) = some 0xFFFFFFFFFFFFFFFF#64 := by decide
theorem test_max_natural : outS (.maxN64 .queue (.reg 1) (.reg 2)) (gs [(1, 1), (2, 2 ^ 64 - 1)]) = some 0xFFFFFFFFFFFFFFFF#64 := by decide
theorem test_wrap_at_bound : outS (.wrap .queue (.reg 1) (.reg 2)) (gs [(1, 7), (2, 7)]) = some 0#64 := by decide
theorem test_wrap_zero : outS (.wrap .queue (.reg 1) (.reg 2)) (gs [(1, 7)]) = some 7#64 := by decide
theorem test_clz : outS (.clz .queue (.reg 1)) (gs [(1, 1)]) = some 63#64 ∧ outS (.clz .queue (.reg 2)) (gs []) = some 64#64 := by decide
theorem test_ctz : outS (.ctz .queue (.reg 1)) (gs [(1, 8)]) = some 3#64 := by decide
theorem test_popc : outS (.popc .queue (.reg 1)) (gs [(1, 0xFF01)]) = some 9#64 := by decide
theorem test_sext8 : outS (.sextI8 .queue (.reg 1)) (gs [(1, 0x180)]) = some 0xFFFFFFFFFFFFFF80#64 := by decide
/-- R92: position 60, length 8: bits above 63 read as zero. -/
theorem test_bext_edge : outS (.bext .queue (.reg 1) (.reg 2)) (gs [(1, 0xA000000000000000), (2, 60 + 8 * 64)]) = some 0xA#64 := by decide
theorem test_bins : outS (.bins .queue (.reg 1) (.reg 2) (.reg 3)) (gs [(1, 0xFFFF), (2, 4 + 8 * 64), (3, 0x1AB)]) = some 0xFABF#64 := by decide
theorem test_mulh_signed : outS (.mulhI64 .queue (.reg 1) (.reg 2)) (gs [(1, 2 ^ 64 - 1), (2, 2)]) = some 0xFFFFFFFFFFFFFFFF#64 := by decide
theorem test_mulh_natural : outS (.mulhN64 .queue (.reg 1) (.reg 2)) (gs [(1, 2 ^ 64 - 1), (2, 2)]) = some 1#64 := by decide
/-- R94: -7 / 2 is -3 with remainder -1. -/
theorem test_div_toward_zero : outS (.divI64 .queue (.reg 1) (.reg 2)) (gs [(1, 2 ^ 64 - 7), (2, 2)]) = some 0xFFFFFFFFFFFFFFFD#64 ∧
    outS (.remI64 .queue (.reg 1) (.reg 2)) (gs [(1, 2 ^ 64 - 7), (2, 2)]) = some 0xFFFFFFFFFFFFFFFF#64 := by decide
theorem test_div_zero_flag : outF (.divN64 .queue (.reg 1) (.reg 2)) (gs [(1, 9)]) = some 0x02#8 := by decide
theorem test_cmp_natural : outP (.cmp 1 .ltN (.reg 1) (.reg 2)) (gs [(1, 1), (2, 2 ^ 64 - 1)]) = some true ∧
    outP (.cmp 1 .ltI (.reg 1) (.reg 2)) (gs [(1, 1), (2, 2 ^ 64 - 1)]) = some false := by decide
theorem test_cmpImm_sign : outP (.cmpImm 1 .eq (.reg 1) 0x7FFF#15) (gs [(1, 2 ^ 64 - 1)]) = some true := by decide
theorem test_pnot_p0 : outP (.pnot 1 0) State.reset = some false ∧ outP (.por 1 2 3) State.reset = some false := by decide
theorem test_addImm_negative : outS (.addImm .queue (.reg 1) 0x1FFFF#17) (gs [(1, 5)]) = some 4#64 := by decide
theorem test_andImm_extends : outS (.andImm .queue (.reg 1) 0x1FFF0#17) (gs [(1, 2 ^ 64 - 1)]) = some 0xFFFFFFFFFFFFFFF0#64 := by decide
theorem test_mulImm : outS (.mulImm .queue (.reg 1) 0x1FFFE#17) (gs [(1, 3)]) = some 0xFFFFFFFFFFFFFFFA#64 := by decide
theorem test_shlImm : outS (.shlImm .queue (.reg 1) 63#6) (gs [(1, 3)]) = some 0x8000000000000000#64 := by decide
theorem test_li_sign : outS (.li .queue 0x200000#22) State.reset = some 0xFFFFFFFFFFE00000#64 := by decide
theorem test_lih : outS (.lih 1 0x3FFFFF#22) (gs [(1, 1)]) = some 0x7FFFFF#64 := by decide

theorem wit_ScalarProductsAndQuotients : let s := gs [(1, 2 ^ 63), (2, 2 ^ 64 - 1)]
    (s.gS (.reg 1)).toInt = -2 ^ 63 ∧ (s.gS (.reg 2)).toInt = -1 ∧ s.gS (.reg 2) ≠ 0#64 ∧ s.gS (.reg 3) = 0#64 := by decide
theorem wit_ComparesAndPredicates : let s := gs [(2, 2 ^ 64 - 1)]
    ((fun cc => Instr.cmp 1 cc (.reg 1) (.reg 2)) = (fun cc => .cmp 1 cc (.reg 1) (.reg 2)) ∧ s.gS (.reg 2) = s.gS (.reg 2)) ∧
    (BitVec.allOnes 64).toInt = (0x7FFF#15).toInt := ⟨⟨rfl, rfl⟩, by decide⟩

/-! ### Results and control flow -/

/-- Every kind of result can be the one that is due: the hypotheses of the two statements on result writes. -/
theorem wit_ResultWritesReachTheirRegister (r : Result) :
    (posted r).core.port.nextPend = some ⟨0, 0, 0, r⟩ ∧ (⟨0, 0, 0, r⟩ : Pending).due ≤ (posted r).core.unf := ⟨rfl, Nat.le_refl _⟩
/-- The further hypotheses of single clauses: distinct indexes at both ends of the scratch registers and of the tiles, canonical storage,
a frame, an event for the core itself and for another. -/
theorem wit_ControlResultsTakeEffect :
    let zs := [(0, 1#32), (4095, 2#32)]
    let ts := [(0, 1#32), (32767, 2#32)]
    (zs.map Prod.fst).Nodup ∧ (∀ z ∈ zs, z.1 < 4096) ∧ cwf 0#32 (posted (.scratch zs)).core.spe.z = true ∧
    (ts.map Prod.fst).Nodup ∧ cwf 0#32 (posted (.tile ts)).tiles = true ∧
    (posted (.fork ⟨1#8, 0, 0#64, 0#64, 0⟩)).core.tasks.frames = ⟨0, 0#12, 0, 0, 0⟩ :: [] ∧
    (let s := (posted .cvadv).modPort fun p => { p with events := [(9, 0), (0, 1024)] }
     (s.core.port.events.find? fun e => decide (e.1 ≤ s.core.unf)) = some (0, 1024) ∧ (1024 : Nat) ≠ s.core.name) ∧
    (let s := State.reset.modPort fun p => { p with events := [(0, 0)] }
     (s.core.port.events.find? fun e => decide (e.1 ≤ s.core.unf)) = some (0, 0) ∧ (0 : Nat) = s.core.name ∧ s.core.tasks.wait ≠ .exited) ∧
    ∀ e ∈ (State.reset.modPort fun p => { p with events := [(1, 0)] }).core.port.events, State.reset.core.unf < e.1 := by decide

/-- R287, R289: an event sets the latch of its target in its cycle, but of a core that has exited. -/
theorem test_event_lands : let s := State.reset.modPort fun p => { p with events := [(0, 1024)] }
    (run .eventLanding s).others.map (fun c => c.ctl.latch) = [true] ∧ (run .eventLanding s).core.port.events = [] := by decide

theorem test_write_p0_discarded : (run .resultWrite (posted (.pred 0 true))).core.regs.p.get 0 = false := by decide
theorem test_write_named_enters_queue : let t := run .resultWrite (posted (.scalar (.reg 3) 7#64))
    t.core.regs.g.get 3 = 7#64 ∧ t.core.regs.q.head? = some 7#64 ∧ t.core.regs.q.length = 16 := by decide
theorem test_write_link_no_queue : let t := run .resultWrite (posted (.link 7#64))
    t.core.regs.g.get 15 = 7#64 ∧ t.core.regs.q.head? = some 0#64 := by decide
theorem test_flags_w1c : (run .resultWrite ((State.reset.modCtl fun c => { c with flags := 0x15#8 }).post 0 (.ctl 0x00E#12 0x05#64))).core.ctl.flags = 0x10#8 := by
  decide
theorem test_keyctl_locked : (run .resultWrite { posted (.ctl 0x203#12 0x0500#64) with keyctl := 1#64 }).keyctl = 1#64 := by decide

/-- A target-buffer entry that is ready, plain or linking. -/
def tbReady (lk : Bool) : State := State.reset.modFlow fun f => { f with pc := 4094#12, tb := f.tb.set 2 ⟨.ready, 100#12, lk, 0, []⟩ }

theorem test_transfer_taken : (run (.headerTransfer false 0#4 .always 2 0#14) (tbReady false)).core.flow.nextPc = 100#12 := by decide
/-- R104: the link is the word after a two-word bundle at 4,094, which wraps to 0. -/
theorem test_transfer_links : ((run (.headerTransfer true 0#4 .always 2 0#14) (tbReady true)).core.port.pend.map Pending.act) = [.link 0#64] := by
  decide
theorem test_transfer_empty_traps : trapOf (.headerTransfer false 0#4 .always 1 0#14) (tbReady false) = (1#8, 4094#64) := by decide
theorem test_transfer_not_taken : (run (.headerTransfer false 0#4 (.pred 0) 2 0#14) (tbReady false)).core.flow.nextPc = 4095#12 := by decide

theorem wit_HeaderTransferChoosesTheNextWord :
    (urgent State.reset).core.urg = true ∧ ((tbReady true).core.flow.tb.get 2).st ≠ .empty ∧ ((tbReady true).core.flow.tb.get 1).st = .empty ∧
    (tbReady true).core.urg = false ∧ (tbReady true).core.regs.p.get 7 = false ∧ (tbReady true).core.flow.cur.getLsbD 0 = false := by decide

theorem test_ptb_target : let e := (run (.ptb 3 true 0x3FFFFF#22) (tbReady false)).core.flow.tb.get 3
    e.st = .filling ∧ e.target = 4093#12 ∧ e.lk = true ∧ e.readyAt = 4 := by decide
theorem test_ptb_outside : trapOf (.ptb 3 true 2#22) (tbReady false) = (1#8, 4094#64) := by decide

theorem wit_TargetPreparationAndRefill : let s := tbReady false
    ((s.core.flow.pc.toNat : Int) + (1#22).toInt = (4095 : Nat)) ∧ ((s.core.flow.pc.toNat : Int) + (0x3FF002#22).toInt = (0 : Nat)) ∧
    4096 ≤ (s.core.flow.pc.toNat : Int) + (2#22).toInt ∧ (s.core.flow.pc.toNat : Int) + (0x3FF001#22).toInt < 0 ∧
    ((gs [(1, 4095)]).gS (.reg 1)).toNat < 4096 ∧ 4096 ≤ ((gs [(1, 4096)]).gS (.reg 1)).toNat ∧
    (let f := run (.ptb 3 false 0#22) s
     let g := f.modCore fun c => { c with clock := 4 }
     (g.core.flow.tb.get 3).st = .filling ∧ (g.core.flow.tb.get 3).readyAt ≤ g.core.clock) ∧
    -- both sides of the monitor's words, for supervisor firmware
    (let f := lvl 1 (gs [(1, 2047), (2, 2048)])
     (f.core.fw = true ∧ f.core.exc.level = 1#2 ∧ (f.gS (.reg 1)).toNat < 2048 ∧ ¬ (f.gS (.reg 2)).toNat < 2048) ∧
     (f.core.flow.pc.toNat : Int) + (2047#22).toInt = (2047 : Nat) ∧ (f.core.flow.pc.toNat : Int) + (2048#22).toInt = (2048 : Nat)) := by decide

theorem test_ptb_monitor_word : trapOf (.ptbReg 3 false (.reg 1)) (lvl 1 (gs [(1, 2047)])) = (5#8, 2047#64) := by decide

/-- A core with a lock hold of banks 0 and 1 whose span is over, and an urgent context of the same core that holds them. -/
def holding : State := State.reset.modFlow fun f => { f with hold := some ⟨3#16, [5]⟩ }
def heldByOther : State := { State.reset with others := [((Core.reset 0).enter ⟨1#8, 0, 0#64, false, false⟩)].map fun c =>
  { c with urg := true, flow := { c.flow with hold := some ⟨3#16, [5]⟩ } } }

theorem wit_LockHeadersAndSmallEffects :
    (State.reset.modFlow fun f => { f with lock := some ⟨1, 1#16⟩ }).core.flow.lock ≠ none ∧
    (∃ x ∈ heldByOther.others, x.id = heldByOther.core.id ∧ ∃ h, x.flow.hold = some h ∧ h.banks &&& 1#16 ≠ 0#16) ∧
    (¬ ∃ x ∈ State.reset.others, x.id = State.reset.core.id ∧ ∃ h, x.flow.hold = some h ∧ h.banks &&& 1#16 ≠ 0#16) ∧
    holding.core.flow.hold = some ⟨3#16, [5]⟩ ∧ holding.core.flow.lock = none ∧ (∀ a ∈ holding.core.port.sched, a.issue ∉ [5]) ∧ holding.held = [] ∧
    State.reset.core.urg = false ∧ (urgent State.reset).core.urg = true ∧
    (State.reset.modCore fun c => { c with clock := 64 }).core.port.drift ≤ 64 := by
  refine ⟨by decide, ⟨_, List.mem_singleton.2 rfl, rfl, _, rfl, by decide⟩, ?_, by decide⟩
  rintro ⟨x, hx, hid, -⟩
  simp [State.reset, Core.reset] at hx
  subst hx
  exact absurd hid (by decide)

theorem test_lock_span : (run (.lockHeader false 0#4 7#3 3#16) State.reset).core.flow.lock = some ⟨9, 3#16⟩ := by decide
theorem test_lock_inside_span : (trapOf (.lockHeader false 0#4 7#3 3#16) (State.reset.modFlow fun f => { f with lock := some ⟨1, 1#16⟩ })).1 = 7#8 := by decide

/-! ### Control registers and traps -/

theorem test_ctlr_core : outS (.ctlr .queue 0x003#12) ((State.reset).focus 1024) = some 1024#64 := by decide
theorem test_ctlr_priv : trapOf (.ctlr .queue 0x100#12) (lvl 0 State.reset) = (2#8, 0x1000000#64) := by decide
theorem test_ctlr_unassigned : (trapOf (.ctlr .queue 0x012#12) State.reset).1 = 1#8 := by decide
theorem test_ctlw_reserved : (trapOf (.ctlw 0x00B#12 (.reg 1)) (gs [(1, 2)])).1 = 1#8 := by decide
theorem test_ctlw_posts : (run (.ctlw 0x00D#12 (.reg 1)) (gs [(1, 9)])).core.port.pend = [⟨1, 0, 0, .ctl 0x00D#12 9#64⟩] := by decide

/-- Every range of the register indexes, at both of its ends, at the levels that it asks about. -/
theorem wit_ControlRegisterReads :
    (lvl 1 State.reset).core.exc.level.toNat = 1 ∧ State.reset.core.exc.level.toNat = 2 ∧ (lvl 0 State.reset).core.exc.level.toNat = 0 ∧
    (0x107#12).toNat = 0x107 ∧ (0x203#12).toNat = 0x203 ∧ ((urgent State.reset).core.urg = true ∧ (0x011#12).toNat ∈ [0x011]) ∧
    (0x011 < (0x012#12).toNat ∧ (0x0FF#12).toNat < 0x100) ∧ (0x107 < (0x108#12).toNat ∧ (0x1FF#12).toNat < 0x200) ∧
    (0x203 < (0x204#12).toNat ∧ (0x2FF#12).toNat < 0x300) ∧ 0x300 ≤ (0x300#12).toNat := by decide
theorem wit_ControlRegisterWrites :
    let s := gs [(1, 1), (2, 0x0000001000000000), (3, 0x0000000000001000), (4, 2 + 20 * 256 + 1), (5, 1), (6, 0x2000000000000000)]
    -- no reserved bit at PARTMAP, ASID; a reserved bit of FLAGS; a range TTLO above TTHI; a split without partitions
    ((s.gS (.reg 4)).toNat &&& ctlRz 0x200 = 0) ∧ ((s.gS (.reg 2)).toNat &&& ctlRz 0x104 = 0) ∧ ((s.gS (.reg 6)).toNat &&& ctlRz 0x00E ≠ 0) ∧
    ((s.gS (.reg 2)).toNat / 2 ^ 28 % 4096 = 256 ∧ (s.gS (.reg 2)).toNat / 2 ^ 16 % 4096 = 0) ∧
    ((0x00010000#64).toNat / 2 ^ 28 % 4096 < (0x00010000#64).toNat / 2 ^ 16 % 4096) ∧
    ((s.gS (.reg 5)).toNat % 2 = 1 ∧ (s.gS (.reg 5)).toNat / 2 % 16 = 0) ∧
    ((s.gS (.reg 4)).toNat / 2 % 16 ≠ 0 ∧ (s.gS (.reg 4)).toNat / 2 ^ 8 % 256 = 20) ∧ s.queues = [] ∧ (∀ y ∈ s.cores, y.launch = none) := by decide

/-- The partner of a pair: a program core of another gang, and one whose array has work. -/
def withPartner (q : List ArrJob) : State :=
  { State.reset with others := [{ Core.reset 1 with fw := false, launch := some (0, 0), mtx := { Mtx.reset with arrQ := q } }] }

theorem wit_ArrayModeWrites :
    let s := gs [(1, 1), (2, 0)]
    s.core.urg = false ∧ (s.gS (.reg 1)).toNat < 4 ∧ (s.gS (.reg 1)).getLsbD 0 ≠ s.core.ctl.solo ∧ s.partnerForeign = false ∧
    (withPartner []).partnerForeign = true ∧
    (let o := State.reset.modCtl fun c => { c with solo := true, own := false }
     (o.gS (.reg 2)).getLsbD 0 = false ∧ o.core.ctl.solo = true ∧ o.core.ctl.own = false) ∧
    (s.gS (.reg 2)).getLsbD 0 = s.core.ctl.solo ∧ s.core.mtx.arrQ = [] ∧ s.coreAt 1 = none ∧
    -- array work of an earlier bundle, the core's own and its partner's
    (let b := s.modMtx fun m => { m with arrQ := [.mepi ⟨⟨0, 5, 0, 2#2, 0#16, 0#44, none⟩, 0, none, 0#64, false, none, false, 0⟩] }
     b.partnerForeign = false ∧ b.core.mtx.arrQ.any (fun j => match j with | .mgo n => n.issue != b.core.unf | .mepi e => e.issue != b.core.unf) = true) ∧
    (withPartner [.mepi ⟨⟨0, 5, 0, 2#2, 0#16, 0#44, none⟩, 0, none, 0#64, false, none, false, 0⟩]).coreAt (0 ^^^ 1) ≠ none := by decide

/-- R142: a write that changes nothing waits for the array work of an earlier bundle too. -/
theorem test_arrmode_waits : (run (.ctlwArrmode (.reg 2)) ((gs [(2, 0)]).modMtx fun m => { m with
    arrQ := [.mepi ⟨⟨0, 5, 0, 2#2, 0#16, 0#44, none⟩, 0, none, 0#64, false, none, false, 0⟩] })).core.flow.verdict = .waits .arrayWork := by decide

theorem test_trap_enters : let t := run (.trap 5#17) ((lvl 0 State.reset).modFlow fun f => { f with pc := 4095#12 })
    t.core.exc.cause = 0x0B#8 ∧ t.core.exc.info = 5#64 ∧ t.core.exc.trappc = 0#12 ∧ t.core.exc.plvl = 0#2 ∧ t.core.exc.level = 2#2 := by decide
theorem test_sysc_at_monitor_illop : (trapOf (.sysc (.reg 1)) State.reset).1 = 1#8 := by decide
theorem test_eret_returns : let s := run (.trap 5#17) (State.reset.modFlow fun f => { f with pc := 7#12 })
    (run .eret s).core.exc.level = 2#2 ∧ (run .eret s).core.flow.nextPc = 8#12 ∧ (run .eret s).core.exc.shadow = none := by decide
theorem test_eret_priv : trapOf .eret (lvl 0 State.reset) = (2#8, 0#64) := by decide

theorem wit_TrapEntryAndReturn :
    let s := State.reset
    let h := run (.trap 5#17) s
    s.core.fw = true ∧ s.core.prov = false ∧ s.core.port.pend = [] ∧ s.core.port.landings = [] ∧ s.core.port.sched = [] ∧
    s.core.owed = 0 ∧ s.core.lost = 0 ∧ s.core.exc.shadow = none ∧ h.core.exc.shadow ≠ none ∧
    (lvl 1 s).core.exc.level ≠ 2#2 ∧ s.core.exc.level = 2#2 ∧ (lvl 0 s).core.exc.level = 0#2 ∧
    ((lvl 1 s).modExc fun e => { e with plvl := 2#2 }).core.exc.plvl.toNat = 2 ∧
    (1 ≤ h.core.exc.level.toNat ∧ h.core.exc.plvl.toNat ≤ h.core.exc.level.toNat ∧ h.core.drained = true ∧ h.core.exc.shadow.isSome) ∧
    (1 ≤ h.core.exc.level.toNat ∧ (h.post 1 .cvadv).core.drained = false) := by decide

/-- A core on its way into a handler. -/
def held (q : TrapReq) (fw : Bool) (l : Nat) : State :=
  { State.reset with core := { Core.reset 0 with fw := fw, exc := { Exc.reset with level := .ofNat 2 l, entering := some q } } }

theorem wit_TrapDrainForwardResume :
    let q : TrapReq := ⟨0x0C#8, 0, 0#64, true, false⟩
    let a := held q true 2
    let b := held q false 1
    let f := State.reset.modCore fun c => { c with trapFrozen := true }
    let m := (run (.sysc (.reg 1)) (lvl 1 State.reset))
    (a.core.exc.entering = some q ∧ a.core.prov = false ∧ a.core.stopped = false ∧ a.core.fw = true ∧ a.core.port.pend = [] ∧ a.core.port.landings = [] ∧
      a.core.port.sched = [] ∧ a.core.owed = 0 ∧ a.core.lost = 0) ∧
    (b.core.exc.entering = some q ∧ q.code = 0x0C#8 ∧ b.core.fw = false ∧ b.core.exc.level = 1#2 ∧ b.core.prov = false ∧ b.core.port.pend = [] ∧
      b.core.port.landings = [] ∧ b.core.port.sched = [] ∧ b.core.owed = 0 ∧ b.core.lost = 0) ∧
    -- a core below level 2 with a landing pending, one that is on its way to the monitor
    (let p := (lvl 0 State.reset).post 1 .cvadv
     p.core.prov = false ∧ p.core.port.pend ≠ [] ∧ (p.modExc fun e => { e with entering := some q }).core.exc.entering = some q) ∧
    (b.logV.length + 2 ≤ 4096 ∧ b.logD.length + 2 ≤ 4096 ∧ b.core.launch = none ∧ b.core.port.chunks = [] ∧ b.held = []) ∧
    (f.core.trapFrozen = true ∧ f.gang = [0] ∧ f.core.name = 0 ∧ f.core.exc.shadow = none ∧ f.core.exc.entering = none) ∧
    (m.core.fw = true ∧ m.core.exc.level = 2#2 ∧ m.core.exc.plvl = 1#2 ∧ m.core.exc.cause = 0x0C#8 ∧ m.core.exc.shadow ≠ none) := by decide

theorem test_trap_waits_for_drain : let t := run (.trap 5#17) (State.reset.post 1 .cvadv)
    t.core.exc.entering.isSome = true ∧ t.core.exc.shadow = none := by decide

/-! ### Loads, stores, landings (R36, R37, R98 to R101, R212 to R224) -/

/-- Bases of the windows (R209). -/
def chipBase : Nat := 0xFFFF000000000000
def sharedBase : Nat := 0xFFFF000100000000
def spadBase : Nat := 0xFFFF000200000000
def laneBase : Nat := 0xFFFF000300000000

def fullLandings (s : State) : State := s.modPort fun p => { p with landings := List.replicate 64 (land .nest none) }

theorem test_ld_align : trapOf (.ld .queue (.reg 1) 3#2 false 0#6 ⟨8#6, 0#2⟩) (gs [(1, 4)]) = (6#8, 4#64) := by decide
/-- R210: an access that straddles the end of a window lies in no window. -/
theorem test_ld_winspan : trapOf (.ld .queue (.reg 1) 3#2 false 0#6 ⟨8#6, 0#2⟩) (gs [(1, laneBase + 2 ^ 15)]) = (5#8, 0xFFFF000300008000#64) := by decide
theorem test_ldAcq_scheduled : (trapOf (.ldAcq .queue (.reg 1) 3#2 false 0#6 ⟨8#6, 0#2⟩) (gs [(1, laneBase)])).1 = 1#8 := by decide
/-- R36, R46, R212: D = 16 × 4 = 64, perform offset 3 of the scratchpad. -/
theorem test_ld_delay : let p := (run (.ld .queue (.reg 1) 3#2 false 0x3F#6 ⟨16#6, 1#2⟩) (gs [(1, spadBase + 16)])).core.port
    p.landings.map Landing.due = [64] ∧ p.sched.map Sched.due = [3] ∧
    p.sched.map Sched.kind = [.load 0#1024 [⟨0, keySpad 0 8, 8⟩] (.ofNat 64 (spadBase + 8))] := by decide +kernel
theorem test_ld_tlb_miss : (run (.ld .queue (.reg 1) 3#2 false 0#6 ⟨8#6, 0#2⟩) (lvl 0 (gs [(1, 64)]))).core.flow.verdict = .waits .tlbMiss := by decide
theorem test_st_bytes : (run (.st (.reg 2) (.reg 1) 1#2 1#15) (gs [(1, 64), (2, 0xABCD12)])).core.port.cohQ.map Coh.kind = [.store [⟨66, [0x12#8, 0xCD#8]⟩] false] := by
  decide
theorem test_stRel_scheduled : (trapOf (.stRel (.reg 2) (.reg 1) 1#2 0#15) (gs [(1, spadBase)])).1 = 1#8 := by decide

/-- A scheduled store of three bytes that is due, and a due load of what lies there. -/
def dueStore : State := withSched ⟨0, 0, 0, .store [⟨keySpad 0 5, [1#8, 2#8, 3#8]⟩]⟩ State.reset
def dueLoad : State := withLanding (land (.scalar (.reg 4) 4 true) none) (withSched ⟨0, 0, 0, .load 0#1024 [⟨0, keySpad 0 4, 4⟩] 0#64⟩
  (withMem (keySpad 0 4) [0xFE, 0xFF, 0xFF, 0xFF] State.reset))

theorem test_store_performs : let m := (run .scheduledAccessPerform dueStore).mem
    [4, 5, 6, 7, 8].map (fun j => memGet m (keySpad 0 j)) = [0#8, 1#8, 2#8, 3#8, 0#8] := by decide
theorem test_load_performs : ((run .scheduledAccessPerform dueLoad).core.port.landings.map fun l => (l.val.map BitVec.toNat, l.arrived)) = [(some 0xFFFFFFFE, true)] := by
  decide +kernel
theorem test_landing_sign : (run .landing (run .scheduledAccessPerform dueLoad)).core.regs.g.get 4 = 0xFFFFFFFFFFFFFFFE#64 := by decide +kernel
/-- R224: a store's timestamp is above the line's lease. -/
theorem test_store_clock : let s := { withCoh (.store [⟨256, [7#8]⟩] false) State.reset with lines := [(1, (3, 40))] }
    let t := run .coherentAccessPerform s
    t.lines = [(1, (41, 41))] ∧ t.core.port.pts = 41 ∧ memGet t.mem 256 = 7#8 := by decide

theorem wit_LoadRequests :
    let s := gs [(1, 1), (2, 2 ^ 48), (3, laneBase + 2 ^ 15 - 8), (4, 2 ^ 48 - 8), (5, 384 * 2 ^ 30 - 8), (6, laneBase)]
    1 % 2 ^ (1#2).toNat ≠ 0 ∧ s.window s.core (2 ^ 48) 8 = none ∧ s.window s.core (laneBase + 2 ^ 15 - 8) 8 = some (.lane, 2 ^ 15 - 8) ∧
    s.window s.core (2 ^ 48 - 8) 8 = some (.global, 2 ^ 48 - 8) ∧ s.landingRoom = true ∧ (fullLandings s).landingRoom = false ∧
    (match s.checkKey .global (384 * 2 ^ 30 - 8) false false with | .ok k => k == 384 * 2 ^ 30 - 8 | _ => false) = true ∧
    (match s.checkKey .global (2 ^ 48 - 8) false false with | .bad .. => true | _ => false) = true ∧
    (match (lvl 0 s).checkKey .global 0 false false with | .miss q => q == ⟨0, false, false⟩ | _ => false) = true ∧
    -- with CHK set, two words of one bank and one cycle (R215)
    (let t := (withSched ⟨3, 0, 0, .load 0#1024 [⟨0, keySpad 0 0, 8⟩] 0#64⟩ s).modCtl fun c => { c with chk := true }
     t.core.ctl.chk = true ∧ t.missedBank 3 (.load 0#1024 [⟨0, keySpad 0 1024, 8⟩] 0#64) = some 0 ∧
     t.missedBank 3 (.load 0#1024 [⟨0, keySpad 0 64, 8⟩] 0#64) = none) := by decide

theorem wit_StoreRequests : let s := gs [(1, 3), (2, chipBase + 2 ^ 28), (3, chipBase + 2 ^ 28 - 1), (4, spadBase + 2 ^ 20 - 8)]
    s.core.prov = false ∧ s.storeAddr (.reg 1) 0#2 0#15 % 1 = 0 ∧ s.storeAddr (.reg 1) 1#2 0#15 % 2 ≠ 0 ∧
    s.window s.core (s.storeAddr (.reg 2) 0#2 0#15) 1 = none ∧
    s.window s.core (s.storeAddr (.reg 2) 0#2 0x7FFF#15) 1 = some (.chip, 2 ^ 28 - 1) ∧
    s.window s.core (s.storeAddr (.reg 4) 3#2 0#15) 8 = some (.spad, 2 ^ 20 - 8) ∧
    (match s.checkKey .chip (2 ^ 28 - 1) true false with | .ok k => k == keyChip (2 ^ 28 - 1) | _ => false) = true ∧
    -- a provisional core: a page of the host, which it waits for, and memory
    (let p := provCore [] ((lvl 0 s).modPort fun p => { p with tlb := [⟨0#16, false, 0, 2 ^ 16, 0, true, true, true⟩] })
     p.core.prov = true ∧ (p.instOf p.core).isSome = true ∧
     (match p.checkKey .global 8 true false with | .ok k => k == keyHost 8 && isHostKey k && p.heldHost [(k, 8)] | _ => false) = true ∧
     (match p.checkKey .chip 0 true false with | .ok k => !p.heldHost [(k, 8)] | _ => false) = true) := by decide +kernel

theorem wit_StoresPerformTheirBytesOnly :
    (dueStore.mem.wf = true ∧ (∀ j < 3, dueStore.fgByte (keySpad 0 5 + j) = false) ∧ dueStore.core.port.nq = [] ∧ dueStore.domain = [dueStore.core.name] ∧
      dueStore.core.port.sched = [⟨0, 0, 0, .store [⟨keySpad 0 5, [1#8, 2#8, 3#8]⟩]⟩]) ∧
    (let s := withCoh (.store [⟨0, [1#8]⟩] true) State.reset
     s.core.port.cohQ = ⟨0, 0, 0, .store [⟨0, [1#8]⟩] true⟩ :: [] ∧ s.core.prov = false ∧ s.core.port.nq = [] ∧
       s.core.port.cq0 ++ s.core.port.cq1 = []) ∧
    (let s := (withCoh (.store [⟨keyHost 0, [1#8]⟩] true) State.reset).modPort fun p =>
      { p with cohQ := p.cohQ.map fun a => { a with seq := 1 }, cq0 := [⟨job0, 0, .cpy 0#64 0#64 0#64, 0, 0⟩] }
     isHostKey (keyHost 0) = true ∧ (∃ j ∈ s.core.port.cq0 ++ s.core.port.cq1, j.seq < 1)) ∧
    (let s := provCore [] (withCoh (.store [⟨0, [1#8]⟩] false) State.reset)
     s.core.port.cohQ = ⟨0, 0, 0, .store [⟨0, [1#8]⟩] false⟩ :: [] ∧ s.core.prov = true ∧ s.core.launch = some (0, 0) ∧ (s.launchAt 0).isSome = true) := by
  refine ⟨by decide, by decide, ⟨by decide, ⟨_, List.mem_singleton.2 rfl, by decide⟩⟩, by decide⟩

/-- R236: a provisional store enters the buffer of its instance, not memory. -/
theorem test_provisional_store : let t := run .coherentAccessPerform (provCore [] (withCoh (.store [⟨256, [7#8]⟩] false) State.reset))
    memGet t.mem 256 = 0#8 ∧ (t.launches.map fun l => l.insts.map Inst.buf) = [[[⟨256, [7#8]⟩]]] := by decide +kernel

theorem wit_LoadsObtainMemorysBytes :
    (dueLoad.flips = [] ∧ dueLoad.bad = [] ∧ dueLoad.core.prov = false ∧ dueLoad.domain = [dueLoad.core.name] ∧
      dueLoad.core.port.sched = [⟨0, 0, 0, .load 0#1024 [⟨0, keySpad 0 4, 4⟩] 0#64⟩] ∧
      dueLoad.core.port.landings = [land (.scalar (.reg 4) 4 true) none]) ∧
    (let s := withLanding (land (.scalar .queue 8 false) none) (withCoh (.load 0#1024 [⟨0, 256, 8⟩] 256#64 true) State.reset)
     s.core.port.cohQ = [⟨0, 0, 0, .load 0#1024 [⟨0, 256, 8⟩] 256#64 true⟩] ∧ isHostKey 256 = false ∧ s.core.port.region = [] ∧
     s.core.port.comQ = [] ∧ s.core.port.nq = [] ∧ (∀ x ∈ s.core.port.l1 ++ s.l2d, x.line ≠ 1) ∧ s.core.port.landings = [land (.scalar .queue 8 false) none]) ∧
    (land .nest (some 1#1024)).val ≠ none ∧
    (let s := provCore [⟨256, [7#8]⟩] (withLanding (land (.scalar .queue 8 false) none) (withCoh (.load 0#1024 [⟨0, 256, 8⟩] 256#64 false) State.reset))
     s.core.prov = true ∧ s.core.port.cohQ = [⟨0, 0, 0, .load 0#1024 [⟨0, 256, 8⟩] 256#64 false⟩] ∧
     ((s.instOf s.core).bind fun i => bufByte i.buf 256) = some 7#8 ∧ ((s.instOf s.core).bind fun i => bufByte i.buf 257) = none) := by decide +kernel

/-- Each destination of a landing, good and bad. -/
theorem wit_LandingsWriteTheirDestination (dst : LandDst) (bad : Option Word) :
    let l := { land dst (some 5#1024) with bad := bad }
    let s := withLanding l State.reset
    s.core.nextLanding = some l ∧ l.val = some 5#1024 ∧ l.due ≤ s.core.unf ∧ l.arrived = true ∧ cwf 0#256 s.core.spe.shapes = true :=
  ⟨rfl, rfl, Nat.le_refl _, rfl, rfl⟩
/-- An epilogue that waits for its descriptor. -/
def noDesc : Epi := ⟨job0, 0, none, 0#64, false, none, false, 0⟩
theorem wit_mepi_landing : let s := withLanding (land .mepi (some 5#1024)) (State.reset.modMtx fun m => { m with arrQ := [.mepi noDesc] })
    s.core.mtx.arrQ = [] ++ .mepi noDesc :: [] ∧ noDesc.desc = none ∧ (s.core.nextLanding.map Landing.dst) = some .mepi := by decide
/-- R179: the reserved bits of a shape are not kept. -/
theorem test_shape_landing : cget 0#256 (run .landing (withLanding (land (.shape 3) (some (BitVec.allOnes 1024))) State.reset)).core.spe.shapes 3 =
    .ofNat 256 (2 ^ 30 - 1 + (2 ^ 23 - 1) * 2 ^ 32 + (2 ^ 112 - 1) * 2 ^ 64) := by decide +kernel
/-- R326: a notice's timestamp is taken into the clock. -/
theorem test_notice_landing : (run .landing (withLanding (land (.notice (.reg 2)) (some (.ofNat 1024 (5 + 9 * 2 ^ 64)))) State.reset)).core.port.pts = 9 := by
  decide +kernel
theorem test_bad_landing_reports : let t := run .landing (withLanding { land (.scalar (.reg 4) 8 false) (some 5#1024) with bad := some 9#64 } State.reset)
    t.core.regs.g.get 4 = 0#64 ∧ t.core.port.mcheck = some 9#64 := by decide

/-- Tables at 4,096 × (1 + level), each entry 0 of which points to the next; the last one as given. -/
def walkState (q : WalkReq) (leaf : Nat) : State :=
  let w := fun (k x : Nat) (s : State) => withMem k ((natBytes x 8).map BitVec.toNat) s
  ((lvl 0 (w 4096 (8192 + 1) (w 8192 (12288 + 1) (w 12288 (16384 + 1) (w 16384 leaf State.reset))))).modExc fun e => { e with ptroot := 1#44 }).modPort fun p =>
    { p with walk := some q }
theorem wit_PageWalksFillTheTlbs :
    let q : WalkReq := ⟨8, true, false⟩
    let table := fun i : Nat => 4096 * (i + 1)
    -- a page of 64 KiB that may be written and used at level 0
    let s := walkState q (65536 + 15)
    let entry := fun i => memNat s.mem (table i + 8 * walkIndex q.va i) 8
    (s.core.port.walk = some q ∧ s.core.stopped = false ∧ s.core.port.cohQ = [] ∧ s.ctlb = [] ∧ s.core.prov = false ∧ s.bad = [] ∧ s.flips = [] ∧
      s.core.port.walkOwn = [] ∧ s.core.port.l1 = [] ∧ s.l2d = [] ∧ table 0 = s.core.exc.ptroot.toNat * 4096 ∧ s.core.exc.level = 0#2 ∧
      s.core.port.walkFault = [] ∧ s.core.port.walkBad = []) ∧
    (∀ i < 3, (entry i).testBit 0 = true ∧ (entry i).testBit 1 = false ∧ entry i / 2 ^ 6 % 4 = 0 ∧ entry i / 2 ^ 56 = 0 ∧ entry i / 4 % 16 = 0 ∧
      entry i / 2 ^ 8 % 2 ^ 48 * 256 = table (i + 1) ∧ table (i + 1) % 4096 = 0) ∧
    (∀ i ≤ 3, s.walkRange s.core (table i) (if i < 3 then 4096 else 256) = true) ∧
    (entry 3 = 65536 + 15 ∧ (65536 + 15) / 2 ^ 6 % 4 = 0 ∧ s.walkRange s.core 65536 (2 ^ 16) = true) ∧
    -- the ways in which a walk does not fill: a store to come, a stopped core, a clustered entry, a root outside, an uncorrectable entry
    ((s.modPort fun p => { p with cohQ := [⟨0, 0, 0, .store [] false⟩] }).core.port.cohQ.any fun a => match a.kind with | .store _ _ => true | _ => false) = true ∧
    (let e : TlbEntry := ⟨0#16, false, 0, 2 ^ 16, 65536, true, true, false⟩
     ({ s with ctlb := [(0, e)] }.ctlb.find? fun e => e.1 == clusterOf s.core.id && e.2.hits s.core.exc.asid q.va &&
       (e.2.denies s.core.exc.level.toNat q.write q.atomic).isNone) = some (0, e)) ∧
    s.walkRange s.core (2 ^ 44 * 4096 - 4096) 4096 = false ∧ { s with bad := [.bytes 4096 256] }.badBytes 4096 8 = true ∧
    -- and the faults at each of R358's steps: absent, malformed, outside, no level 0, read only, an atomic on a page of the host
    (memNat (walkState q 0).mem 16384 8).testBit 0 = false ∧ (65536 + 15 + 64) / 2 ^ 6 % 4 ≠ 0 ∧ s.walkRange s.core (2 ^ 55) (2 ^ 16) = false ∧
    (65536 + 7 : Nat).testBit 3 = false ∧ (65536 + 11 : Nat).testBit 2 = false ∧ ((65536 + 31 : Nat).testBit 4 = true ∧ s.hostRange s.core 65536 (2 ^ 16) = true) := by
  decide +kernel
/-- R359, R360: the walk fills both TLBs and the address translates. -/
theorem test_walk_fills : let t := run .pageWalkComplete (walkState ⟨8, true, false⟩ (65536 + 15))
    t.core.port.tlb = [⟨0#16, false, 0, 2 ^ 16, 65536, true, true, false⟩] ∧ t.ctlb = [(0, ⟨0#16, false, 0, 2 ^ 16, 65536, true, true, false⟩)] ∧
    t.core.port.walk = none := by decide +kernel
theorem test_walk_read_only : (run .pageWalkComplete (walkState ⟨8, true, false⟩ (65536 + 11))).core.port.walkFault = [(⟨8, true, false⟩, 3#3)] := by
  decide +kernel
theorem test_walk_not_present : (run .pageWalkComplete ((lvl 0 State.reset).modPort fun p => { p with walk := some ⟨0, false, false⟩ })).core.port.walkFault =
    [(⟨0, false, false⟩, 1#3)] := by decide

/-! ### Atomics, fences, barrier objects (R232 to R252) -/

def amoState (op : AtOp) (ty : AtTy) (old b : Nat) : State :=
  withLanding (land (.scalar .queue 8 false) none) (withCoh (.atomic op ty .sc 256 (.ofNat 64 b) 256#64 none)
    (withMem 256 ((natBytes old 8).map BitVec.toNat) State.reset))

theorem test_amo_add_32 : let t := run .coherentAccessPerform (amoState .add .n32 0x11111111FFFFFFFF 2)
    memNat t.mem 256 8 = 0x1111111100000001 := by decide
theorem test_amo_min_signed : memNat (run .coherentAccessPerform (amoState .min .i64 (2 ^ 64 - 1) 1)).mem 256 8 = 2 ^ 64 - 1 := by decide
theorem test_amo_max_natural : memNat (run .coherentAccessPerform (amoState .max .n64 1 (2 ^ 64 - 1))).mem 256 8 = 2 ^ 64 - 1 := by decide
theorem test_amo_returns_old : ((run .coherentAccessPerform (amoState .swap .i32 0xFFFFFFFF 1)).core.port.landings.map fun l => l.val.map fun v => (v.setWidth 64).toNat) =
    [some (2 ^ 64 - 1)] := by decide +kernel
theorem test_cas_mismatch : let s := withLanding (land (.scalar .queue 8 false) none) (withCoh (.cas .sc 256 4 1#64 9#64 256#64 none) (withMem 256 [2] State.reset))
    memNat (run .coherentAccessPerform s).mem 256 4 = 2 := by decide

theorem wit_AtomicRequests : let s := gs [(1, 4), (2, 2 ^ 48), (3, spadBase), (4, 8)]
    4 % 8 ≠ 0 ∧ s.window s.core (2 ^ 48) 8 = none ∧ s.window s.core spadBase 8 = some (.spad, 0) ∧ Win.spad.scheduled = true ∧
    s.window s.core 8 8 = some (.global, 8) ∧ Win.global.scheduled = false ∧ s.landingRoom = true ∧ (fullLandings s).landingRoom = false ∧
    s.core.prov = false ∧ (s.modCore fun c => { c with prov := true }).core.prov = true ∧ s.core.port.cohQ = [] ∧ s.core.port.comQ = [] ∧
    (match s.checkKey .global 8 true true with | .ok k => k == 8 | _ => false) = true ∧ AtUse.spc ≠ .com := by decide
theorem wit_AtomicsUpdateTheirLocation (op : AtOp) (ty : AtTy) : let s := amoState op ty 0 0
    let q : Coh := ⟨0, 0, 0, .atomic op ty .sc 256 0#64 256#64 none⟩
    s.mem.wf = true ∧ s.bad = [] ∧ s.flips = [] ∧ (∀ j < 8, s.fgByte (256 + j) = false) ∧ isHostKey 256 = false ∧ s.core.port.cohQ = q :: [] ∧
    s.core.port.landings = [land (.scalar .queue 8 false) none] ∧ s.core.port.comQ = [] ∧ s.core.port.nq = [] ∧
    (∀ a ∈ s.core.port.cohQ, ∀ ps, a.kind = .store ps true → 0 ≤ a.seq) ∧
    (s.modPort fun p => { p with comQ := [⟨0, 0, op, ty, 256, 0#64, 256#64⟩] }).core.port.comQ = ⟨0, 0, op, ty, 256, 0#64, 256#64⟩ :: [] :=
  ⟨rfl, rfl, rfl, (by decide : ∀ j < 8, State.reset.fgByte (256 + j) = false), by decide, rfl, rfl, rfl, rfl, fun _ _ _ _ => Nat.zero_le _, rfl⟩

theorem test_fence_waits_for_com : (run (.fence .core) ((State.reset.modCore fun c => { c with unf := 1 }).modPort fun p =>
    { p with comQ := [⟨0, 0, .add, .i64, 256, 0#64, 256#64⟩] })).core.flow.verdict = .waits .fence := by decide
theorem test_fenceX_merges : let t := run (.fenceX .package) { State.reset with scopePkg := 77 }
    t.core.port.pts = 77 ∧ t.scopePkg = 77 := by decide
theorem test_fence_com_error : trapOf (.fence .core) (State.reset.modPort fun p => { p with comErr := some 0x8000000000000000#64 }) = (0xA#8, 0x8000000000000000#64) := by
  decide

theorem wit_FencesWaitAndMergeClocks :
    let s := (State.reset.modCore fun c => { c with unf := 1 })
    (s.modCore fun c => { c with prov := true }).core.prov = true ∧ s.core.prov = false ∧
    (∃ a ∈ (s.modPort fun p => { p with comQ := [⟨0, 0, .add, .i64, 256, 0#64, 256#64⟩] }).core.port.comQ, a.issue < s.core.unf) ∧
    (∃ a ∈ (withCoh (.store [] false) s).core.port.cohQ, a.issue < s.core.unf) ∧
    (∃ j ∈ (s.modPort fun p => { p with cq0 := [⟨job0, 0, .cpy 0#64 0#64 0#64, 0, 0⟩] }).core.port.cq0, j.issue < s.core.unf) ∧
    s.core.port.cohQ = [] ∧ s.core.port.comQ = [] ∧ s.core.port.cacheOps = [] ∧ s.core.port.comErr = none ∧
    (s.modPort fun p => { p with comErr := some 0#64 }).core.port.comErr = some 0#64 ∧ cwf 0 s.scopeGang = true ∧ cwf 0 s.scopeEns = true :=
  ⟨by decide, by decide, ⟨_, List.mem_singleton.2 rfl, by decide⟩, ⟨_, List.mem_singleton.2 rfl, by decide⟩, ⟨_, List.mem_singleton.2 rfl, by decide⟩, by decide⟩

theorem test_boinit_count : (trapOf (.boinit (.reg 1) (.reg 2)) (gs [(1, chipBase), (2, 2 ^ 28)])).1 = 1#8 := by decide
theorem test_bowait_acquires : (run (.bowait (.reg 1)) (withMem (keyChip 0 + 8) [0x2A] (gs [(1, chipBase)]))).core.port.pts = 0x2A := by decide
theorem test_bowait_waits : (run (.bowait (.reg 1)) (withMem (keyChip 0) [0, 0, 0, 0, 0, 0, 0, 4] (gs [(1, chipBase)]))).core.flow.verdict = .waits (.barrierObject (keyChip 0)) := by
  decide
/-- R240: expected 3, armed, two arrivals and one more byte: the phase flips, disarmed, arrivals 0. -/
theorem test_boAddition_flips : memNat (run (.boAddition (keyChip 0) 1 9) (withMem (keyChip 0) ((natBytes (3 + 2 * 2 ^ 28 + 2 ^ 58) 16).map BitVec.toNat) State.reset)).mem
    (keyChip 0) 16 = 3 + 2 ^ 56 + 9 * 2 ^ 64 := by decide
/-- R242: an overflow of the arrivals is cause 9. -/
theorem test_boAddition_overflow : memNat (run (.boAddition (keyChip 0) (2 ^ 28) 0) State.reset).mem (keyChip 0) 16 = (2 ^ 28 - 1) * 2 ^ 28 + 2 ^ 57 + 9 * 2 ^ 59 := by
  decide

theorem wit_BarrierObjectInstructions : let s := gs [(1, 8), (2, 2 ^ 48), (3, 16), (4, laneBase), (5, chipBase), (6, sharedBase + 2 ^ 20 - 16), (7, 2 ^ 28 - 1)]
    s.core.prov = false ∧ 8 % 16 ≠ 0 ∧ s.window s.core (2 ^ 48) 16 = none ∧ s.window s.core 16 16 = some (.global, 16) ∧ s.window s.core laneBase 16 = some (.lane, 0) ∧
    s.window s.core chipBase 16 = some (.chip, 0) ∧ s.window s.core (sharedBase + 2 ^ 20 - 16) 16 = some (.shared, 2 ^ 20 - 16) ∧
    (s.gS (.reg 7)).toNat < 2 ^ 28 ∧ s.objPending (keyChip 0) = false ∧ (withCoh (.bo (keyChip 0) 0 false) s).objPending (keyChip 0) = true ∧ s.bad = [] ∧ s.flips = [] ∧
    memNat s.mem (keyChip 0) 16 / 2 ^ 58 % 2 = 0 ∧ memNat (withMem (keyChip 0 + 7) [4] s).mem (keyChip 0) 16 / 2 ^ 58 % 2 = 1 ∧
    (let t := withMem (keyChip 0 + 7) [0x52] s
     memNat t.mem (keyChip 0) 16 / 2 ^ 57 % 2 = 1 ∧ memNat t.mem (keyChip 0) 16 / 2 ^ 59 % 16 = 0xA) := by decide
/-- R240: arrivals beyond the count stay, for the next phase. -/
theorem test_boAddition_past_count : memNat (run (.boAddition (keyChip 0) 4 9) (withMem (keyChip 0) ((natBytes (3 + 2 * 2 ^ 28 + 2 ^ 58) 16).map BitVec.toNat) State.reset)).mem
    (keyChip 0) 16 = 3 + 3 * 2 ^ 28 + 2 ^ 56 + 9 * 2 ^ 64 := by decide
theorem wit_BarrierObjectAdditions : let s := withMem (keyChip 0) ((natBytes (3 + (2 ^ 28 - 2) * 2 ^ 28 + 2 ^ 58) 16).map BitVec.toNat) State.reset
    s.mem.wf = true ∧ s.core.prov = false ∧ (∀ j < 16, s.fgByte (keyChip 0 + j) = false) ∧ 2 ^ 64 - 1 < 2 ^ 64 ∧
    memNat s.mem (keyChip 0) 16 / 2 ^ 28 % 2 ^ 28 + 1 < 2 ^ 28 ∧ 2 ^ 28 ≤ memNat s.mem (keyChip 0) 16 / 2 ^ 28 % 2 ^ 28 + 2 ∧
    s.core.port.nq = [] ∧ s.lockedRuns [(keyChip 0, 16)] = false ∧
    -- armed, and past the exact count
    (memNat s.mem (keyChip 0) 16 / 2 ^ 58 % 2 = 1 ∧ memNat s.mem (keyChip 0) 16 % 2 ^ 28 < memNat s.mem (keyChip 0) 16 / 2 ^ 28 % 2 ^ 28 + 1) ∧
    (let h := s.modFlow fun f => { f with hold := some ⟨1#16, [5]⟩ }
     h.lockedRuns [(keySpad 0 0, 16)] = true ∧ h.core.port.nq = []) ∧
    (let j : CommJob := ⟨job0, keyChip 0, .sendRemote 1 0 64 64⟩
     let r := (withCoh (.bo (keyChip 0) 0 false) s).modPort fun p => { p with nq := [{ j with seq := 1 }] }
     r.core.port.nq = { j with seq := 1 } :: [] ∧ j.obj = keyChip 0 ∧ r.core.port.objBefore (keyChip 0) { j.toIssued with seq := 1 } = true) ∧
    (let p := provCore [] s
     p.core.prov = true ∧ isCohKey (keyChip 0) = true ∧ p.core.launch = some (0, 0) ∧ p.core.port.nq = [] ∧ p.lockedRuns [(keyChip 0, 16)] = false) := by
  decide +kernel
theorem wit_CacheOperations : let s := gs [(1, 2 ^ 48 - 1), (2, 0), (3, 2), (4, laneBase)]
    (s.gS (.reg 2)).toNat = 0 ∧ s.window s.core (2 ^ 48 - 1) 2 = none ∧ s.window s.core (2 ^ 48) 1 = none ∧ s.window s.core (2 ^ 48 - 1) 1 = some (.global, 2 ^ 48 - 1) ∧ s.window s.core laneBase 2 = some (.lane, 0) ∧
    (s.modPort fun p => { p with cacheOps := [⟨0, 0, 1, true⟩] }).core.port.cacheOps = ⟨0, 0, 1, true⟩ :: [] ∧
    (let t := { s with l2v := [⟨0, 7, true⟩], owned := [(0, 1)] }
     t.reaches ⟨0, 0, 1, true⟩ 0 = true ∧ t.reaches ⟨0, 0, 1, true⟩ 1 = false ∧ cwf 0 t.owned = true ∧ cget 0 t.owned 0 = t.core.name + 1) := by decide
/-- R407: the first byte outside the window. -/
theorem test_cwb_winspan_end : trapOf (.cwb (.reg 1) (.reg 2)) (gs [(1, 2 ^ 48 - 1), (2, 2)]) = (5#8, 0x1000000000000#64) := by decide
theorem test_cinv_winspan : trapOf (.cinv (.reg 1) (.reg 2)) (gs [(1, 2 ^ 48), (2, 1)]) = (5#8, 0x1000000000000#64) := by decide

/-! ### Vector operations (R109 to R135) -/

/-- FP32 codes: 1.0, 2.0, 3.0, 0.5, the largest finite value, a signalling NaN. -/
def one32 : Nat := 0x3F800000
def two32 : Nat := 0x40000000

theorem test_vadd_wraps : outV 32 1 (.vadd .queue (.reg 1) (.reg 2) 0 .n32) (vs [(1, 0xFFFFFFFF * 2 ^ 32), (2, 2 * 2 ^ 32)]) = some 1 := by decide +kernel
theorem test_vadd_f32 : outV 32 0 (.vadd .queue (.reg 1) (.reg 2) 0 .f32) (vs [(1, one32), (2, two32)]) = some 0x40400000 := by decide +kernel
/-- R110: an inactive lane keeps the destination. -/
theorem test_vadd_masked : outV 32 1 (.vadd (.reg 3) (.reg 1) (.reg 2) 1 .i32) (vs [(1, 5 * 2 ^ 32), (3, 9 * 2 ^ 32)]) = some 9 := by decide +kernel
theorem test_vsub_i64 : outV 64 0 (.vsub .queue (.reg 1) (.reg 2) 0 .i64) (vs [(2, 1)]) = some (2 ^ 64 - 1) := by decide +kernel
/-- Overflow to infinity raises OVF and INX. -/
theorem test_vmul_overflow : outV 32 0 (.vmul .queue (.reg 1) (.reg 1) 0 .f32) (vs [(1, 0x7F7FFFFF)]) = some 0x7F800000 := by decide +kernel
theorem test_vmin_signed : outV 32 0 (.vmin .queue (.reg 1) (.reg 2) 0 .i32) (vs [(1, 0xFFFFFFFF), (2, 1)]) = some 0xFFFFFFFF := by decide +kernel
theorem test_vmax_natural : outV 32 0 (.vmax .queue (.reg 1) (.reg 2) 0 .n32) (vs [(1, 0xFFFFFFFF), (2, 1)]) = some 0xFFFFFFFF := by decide +kernel
theorem test_vdiv_by_zero : outV 32 0 (.vdiv .queue (.reg 1) (.reg 2) 0 .f32) (vs [(1, one32)]) = some 0x7F800000 := by decide +kernel
theorem test_vabs_least : outV 32 0 (.vabs .queue (.reg 1) 0 .i32) (vs [(1, 0x80000000)]) = some 0x80000000 := by decide +kernel
theorem test_vneg_nan : outV 32 0 (.vneg .queue (.reg 1) 0 .f32) (vs [(1, 0xFFC00001)]) = some 0x7FC00000 := by decide +kernel
theorem test_vshl_count : outV 32 0 (.vshl .queue (.reg 1) (.reg 2) 0 .n32) (vs [(1, 3), (2, 33)]) = some 6 := by decide +kernel
theorem test_vsra : outV 32 0 (.vsra .queue (.reg 1) (.reg 2) 0 .i32) (vs [(1, 0x80000000), (2, 31)]) = some 0xFFFFFFFF := by decide +kernel
theorem test_vsel_mask0 : outV 32 0 (.vsel .queue (.reg 1) (.reg 2) 1 .i32) (vs [(1, 5), (2, 6)]) = some 6 := by decide +kernel
theorem test_vsqrt : outV 32 0 (.vsqrt .queue (.reg 1) 0 .f32) (vs [(1, 0x40800000)]) = some two32 := by decide +kernel
/-- One rounding: 1 × 1 + 2^-24 is 1 to nearest even. -/
theorem test_vfma_rounds_once : outV 32 0 (.vfma .queue (.reg 1) (.reg 1) (.reg 2) .f32 0) (vs [(1, one32), (2, 0x33800000)]) = some one32 := by decide +kernel
theorem test_vfnma : outV 32 0 (.vfnma .queue (.reg 1) (.reg 1) (.reg 2) .f32 0) (vs [(1, one32), (2, two32)]) = some one32 := by decide +kernel
theorem test_vcvt_saturates : outV 32 0 (.vcvt .queue (.reg 1) .n8 .f32 .rne 0 true) (vs [(1, 0x43960000)]) = some 255 := by decide +kernel
theorem test_vcvt_i32_f64_lanes : outV 64 1 (.vcvt .queue (.reg 1) .f64 .i32 .rne 0 false) (vs [(1, (2 ^ 32 - 1) * 2 ^ 64)]) = some 0xBFF0000000000000 := by decide +kernel
theorem test_vbcast : outV 32 31 (.vbcast .queue (.reg 1) 0 .i32) (gs [(1, 0x1FFFFFFFF)]) = some 0xFFFFFFFF := by decide +kernel
theorem test_vext_sign : outS (.vext .queue (.reg 1) (.reg 1) .i32) (gvs [(1, 33)] [(1, 0x80000000 * 2 ^ 32)]) = some 0xFFFFFFFF80000000#64 := by decide +kernel
theorem test_viota_float : outV 32 3 (.viota .queue 0 .f32) State.reset = some 0x40400000 := by decide +kernel
theorem test_vperm : outV 32 0 (.vperm .queue (.reg 1) (.reg 2) 0 .n32) (vs [(1, 7 * 2 ^ 32), (2, 33)]) = some 7 := by decide +kernel
theorem test_vredadd_masked : outS (.vredadd .queue (.reg 1) 1 .n32) (vs [(1, 7)]) = some 0#64 := by decide +kernel
theorem test_vredmax : outS (.vredmax .queue (.reg 1) 0 .i32) (vs [(1, 7)]) = some 7#64 := by decide +kernel
theorem test_vlg2_one : outV 32 0 (.vlg2 .queue (.reg 1) 0 .f32) (vs [(1, one32)]) = some 0 := by decide +kernel
theorem test_vfex2_zero : outV 32 0 (.vfex2 .queue (.reg 1) 0 .f32) (vs []) = some one32 := by decide +kernel
theorem test_vrcp_zero : outV 32 0 (.vrcp .queue (.reg 1) 0 .f32) (vs [(1, 0x80000000)]) = some 0xFF800000 := by decide +kernel
theorem test_vgetx : outV 32 0 (.vgetx .queue (.reg 1) 0 .f32) (vs [(1, 0x41000000)]) = some 0x40400000 := by decide +kernel
theorem test_vrndi_even : outV 32 0 (.vrndi .queue (.reg 1) .rne 0 .f32) (vs [(1, 0x40200000)]) = some two32 := by decide +kernel
theorem test_vcmp_mask : ((run (.vcmp 1 .lt (.reg 1) (.reg 2) 0 .i32) (vs [(1, 0xFFFFFFFF)])).core.port.pend.map Pending.act) = [.mask 1 1#32] := by decide +kernel
theorem test_kpopc_k0 : outS (.kpopc .queue 0) State.reset = some 32#64 := by decide +kernel
/-- R117, R118: exact where the tables are. -/
theorem test_vfex2_three : outV 32 0 (.vfex2 .queue (.reg 1) 0 .f32) (vs [(1, 0x40400000)]) = some 0x41000000 := by decide +kernel
theorem test_vlg2_eight : outV 32 0 (.vlg2 .queue (.reg 1) 0 .f32) (vs [(1, 0x41000000)]) = some 0x40400000 := by decide +kernel
/-- R88: 2.5 rounds to even and to a .n8 value; -1 is outside .n8, whose low bits are 255, and minus infinity gives 0. -/
theorem test_vcvt_rounds : let s := vs [(1, 0x40200000 + 0xBF800000 * 2 ^ 32 + 0xFF800000 * 2 ^ 64)]
    [0, 1, 2].map (fun j => outV 32 j (.vcvt .queue (.reg 1) .n8 .f32 .rne 0 false) s) = [some 2, some 255, some 0] ∧
    outF (.vcvt .queue (.reg 1) .n8 .f32 .rne 0 false) s = some 0x11#8 := by decide +kernel
/-- The worked example of 05_formats.md: -8.25 to E4M3, to nearest and downwards. -/
theorem test_vcvt_e4m3 : outV 32 0 (.vcvt .queue (.reg 1) .e4m3 .f32 .rne 0 false) (vs [(1, 0xC1040000)]) = some 0xD0 ∧
    outV 32 0 (.vcvt .queue (.reg 1) .e4m3 .f32 .rdn 0 false) (vs [(1, 0xC1040000)]) = some 0xD1 := by decide +kernel
/-- R127: 2^24 + 1 and 1 + 0 are summed first, each sum rounded. -/
theorem test_vredadd_tree : ((run (.vredadd .queue (.reg 1) 0 .f32) (vs [(1, 0x4B800000 + one32 * 2 ^ 32 + one32 * 2 ^ 64)])).core.port.pend.map Pending.act) =
    [.scalar .queue 0x4B800000#64, .flags 0x10#8] := by decide +kernel
/-- R129: the exponent of 6.0 less that of the largest E2M1 value. -/
theorem test_vmaxb_mx4 : outV 32 0 (.vmaxb .queue (.reg 1) .mx4) (vs [(1, 0x40C00000)]) = some 127 := by decide +kernel
/-- R131: under the scale 1, 6.0 is the largest code; 7.0 saturates to it. -/
theorem test_vqnt_mx4 : let s := (vs [(1, 0x40C00000 + 0x40E00000 * 2 ^ 32)]).modMtx fun m => { m with latch := some (127#1024, .mx4) }
    outV 32 0 (.vqnt .queue (.reg 1) .mx4) s = some 0x77 ∧ outF (.vqnt .queue (.reg 1) .mx4) s = some 0x90#8 := by decide +kernel
/-- The worked example of 05_formats.md: element 5 of a PX4 block, code 0x1B under the container 0x460A. -/
theorem test_vdqnt_px4 : outV 32 5 (.vdqnt .queue (.reg 1) (.reg 2) .px4) (vs [(1, 0x1B * 2 ^ 25), (2, 0x460A + 0xC00 * 2 ^ 32)]) = some 0xC1040000 := by decide +kernel
/-- The worked example of 07_vector.md: 3.0, -0.7, 0, 0, 0.2 and 0.1 as PX4. -/
def pxExample : State := (vs [(1, 0x40400000 + 0xBF333333 * 2 ^ 32 + 0x3E4CCCCD * 2 ^ 128 + 0x3DCCCCCD * 2 ^ 160)]).modMtx fun m => { m with latch := some (0xC000000C5FF#1024, .px4) }
theorem test_px4_example : outV 32 0 (.vmaxb .queue (.reg 1) .px4) pxExample = some 0xC5FF ∧ outV 32 1 (.vmaxb .queue (.reg 1) .px4) pxExample = some 0xC00 ∧
    outV 1024 0 (.vqnt .queue (.reg 1) .px4) pxExample = some 0x0870026E := by decide +kernel
theorem test_vqnt_no_latch : (trapOf (.vqnt .queue (.reg 1) .mx4) State.reset).1 = 1#8 := by decide +kernel
theorem test_vmaxb_latches : ((run (.vmaxb .queue (.reg 1) .mxi8) State.reset).core.port.pend.map Pending.due) = [3, 4] := by decide +kernel
theorem test_vdqnt_bad_selector : (trapOf (.vdqnt .queue (.reg 1) (.reg 2) .mx4) (vs [(2, 3 * 2 ^ 64)])).1 = 1#8 := by decide +kernel

/-- A deferral queue of 255 entries, one short of full. -/
def dqState (n : Nat) : State := State.reset.modCore fun c => { c with dq := List.replicate n ⟨1#5, 7#27, 2#32, 3#32, 4#32, 5#32⟩ }
def oneLane (s : State) : State := s.modRegs fun r => { r with k := r.k.set 1 1#32 }

theorem test_vdefer_overflow : trapOf (.vdefer 0 0#2 (.reg 1) 1) (oneLane (dqState 256)) = (8#8, 512#64) := by decide +kernel
theorem test_vdrain_takes_32 : (run (.vdrain 0 0#2 (.reg 1)) ((dqState 40).modRegs fun r => { r with g := r.g.set 1 7#64 })).core.dq.length = 8 := by decide +kernel

theorem wit_VectorIntegerLanes : Ty.i32 ∈ [Ty.i32, .n32, .i64, .n64] ∧ Ty.n64 ∈ [Ty.i32, .n32, .i64, .n64] ∧ Ty.i64 ∈ [Ty.i32, .i64] ∧
    Ty.f64 ∈ [Ty.f64, .f32, .i32, .n32, .i64, .n64] := by decide
theorem wit_VectorFloatLanes : (FTy.f64.ty.fmt? = some fF64 ∧ FTy.f32.ty.fmt? = some fF32 ∧ FTy.bf16.ty.fmt? = some fBf16 ∧ FTy.f16.ty.fmt? = some fF16) ∧
    ((FTy.f32 = .f64 ∨ FTy.f32 = .f32) ∧ (FTy.f64 = .f64 ∨ FTy.f64 = .f32)) := ⟨⟨rfl, rfl, rfl, rfl⟩, by decide⟩
/-- 1 = 1 × 2^0 rounds to the code of 1.0, and 2.0 is another finite value; q = -150 lies below every exponent. In E4M3, whose largest value is
14 × 2^5, 465 overflows and 464, a tie, does not; a unit below its smallest place is tiny, and half a unit above a place is a tie. -/
theorem wit_RoundingIsCorrect : fF32 ∈ [fF64, fF32, fBf16, fF16, fE5m2, fE4m3, fE2m3, fE3m2, fE2m1] ∧ (1 : Nat) ≠ 0 ∧ (fF32.round .rne false 1 0).1 = one32 ∧
    (match fF32.dec one32 with | .fin n _ e => !n && decide (-150 ≤ e) | _ => false) = true ∧
    (match fF32.dec two32 with | .fin n _ e => !n && decide (-150 ≤ e) | _ => false) = true ∧ two32 < 2 ^ (1 + fF32.eb + fF32.mb) ∧
    ((-10 : Int) ≤ min 0 (-(fE4m3.bias : Int) - fE4m3.mb)) ∧
    ((2 * (14 : Int) + 1) * signedAt false 1 5 (-10) < 2 * signedAt false 465 0 (-10)) ∧
    ¬ ((2 * (14 : Int) + 1) * signedAt false 1 5 (-10) < 2 * signedAt false 464 0 (-10) ∨ 14 % 2 = 1) ∧
    ¬ ((2 * (15 : Int) + 1) * signedAt false 1 (-10) (-20) ≤ 2 * signedAt false 1 (-20) (-20)) ∧
    -- a value that is kept, and a tie between two codes of E4M3
    (match fE4m3.dec (fE4m3.round .rne false 464 0).1 with | .fin n m e => signedAt n m e (-10) == signedAt false 448 0 (-10) | _ => false) = true ∧
    (match fE4m3.dec 0x78, fE4m3.dec 0x79 with
     | .fin _ m e, .fin _ n g => (signedAt false 272 0 (-10) - signedAt false m e (-10)).natAbs == (signedAt false 272 0 (-10) - signedAt false n g (-10)).natAbs
     | _, _ => false) = true := by
  refine ⟨by simp, by decide, by decide +kernel, by decide +kernel, by decide +kernel, by decide, by decide, by decide, by decide, by decide, by decide +kernel, by decide +kernel⟩
/-- An ordinary operand, 3.0, of which each of the four functions has its finite steps. -/
theorem wit_VectorSpecialOperands : ((Ty.f32, fF32) ∈ [(Ty.f32, fF32), (Ty.f64, fF64)] ∧ (Ty.f64, fF64) ∈ [(Ty.f32, fF32), (Ty.f64, fF64)]) ∧
    fF32.dec 0x40400000 = .fin false (3 * 2 ^ 22) (-22) ∧ (3 * 2 ^ 22 : Nat) ≠ 0 ∧
    (let r := fun (p : Fp × Fl) => fF32.dec (fF32.enc .rne p.1 0#8).1
     let m := 3 * 2 ^ 22
     let rcp := fun y : Fp => r (y.fma (r ((Fp.fin true m (-(m.log2 : Int))).fma y (.fin false 1 0))) y)
     let rsq := fun y : Fp => r ((y.mul (.fin false 1 (-1))).1.fma (r ((Fp.fin true m (-22)).fma (r (y.mul y)) (.fin false 1 0))) y)
     (Nat.repeat rcp 2 (fF32.dec (tabRcp32.getD 32 0))).isFin = true ∧ (Nat.repeat rsq 3 (fF32.dec (tabRsq32.getD 32 0))).isFin = true ∧
     (r ((fF32.dec (tabExp32.getD 0 0)).fma (fF32.dec 0) (fF32.dec (tabExp32.getD 0 0)))).isFin = true) := by
  refine ⟨by simp, by decide +kernel, by decide, by decide +kernel⟩
theorem wit_VectorConversions : (Ty.i8.fmt? = none ∧ Ty.n64.fmt? = none) ∧ Ty.e5m2.fmt? = some fE5m2 ∧ Ty.f64.fmt? = some fF64 ∧ Ty.f64 ≠ .f32 ∧ Ty.f16.fmt? ≠ none ∧ (-3 : Int) ≤ min (-3) 0 :=
  ⟨⟨rfl, rfl⟩, rfl, rfl, by decide, by simp [Ty.fmt?], by decide⟩
theorem wit_VectorComparesAndMasks : Ty.n64 ∈ [Ty.i32, .n32, .i64, .n64] ∧ Ty.bf16 ∈ [Ty.f64, .f32, .bf16, .f16] ∧ Ty.bf16.fmt? = some fBf16 := ⟨by decide, by decide, rfl⟩
theorem wit_LaneMovement : Ty.f32 ∈ [Ty.f64, .f32, .i32, .n32, .i64, .n64] ∧ Ty.n64 ∈ [Ty.f64, .f32, .i32, .n32, .i64, .n64] := by decide
theorem wit_LaneReductions : let s := oneLane (vs [(1, one32)])
    Ty.i32 ∈ [Ty.i32, .n32, .i64, .n64] ∧ Ty.f32 ∈ [Ty.f32, .f64] ∧ Ty.f32.fmt? = some fF32 ∧
    ((List.range Ty.f32.lanes).filter fun j => (s.gK 1).getLsbD j) = [0] ∧ (fF32.dec (laneGet 32 (s.gV (.reg 1)) 0)).isNan = false :=
  ⟨by decide, by decide, rfl, by decide +kernel, by decide +kernel⟩
theorem wit_BlockQuantisation : let s := (State.reset.modMtx fun m => { m with latch := some (0#1024, .mx4) }).modRegs fun r => { r with v := (r.v.set 2 (.ofNat 1024 (2 ^ 64))).set 3 (.ofNat 1024 (2 ^ 20)) }
    (∃ p ∈ (s.post 4 (.latch 0#1024 .mx4)).core.port.pend, p.issue = s.core.unf ∧ ∃ v f, p.act = .latch v f) ∧ s.core.port.pend = [] ∧
    State.reset.core.mtx.latch = none ∧ s.core.mtx.latch = some (0#1024, .mx4) ∧ Bf.mx4 ≠ .px2 ∧ laneGet 32 0#1024 0 % 256 ≠ 255 ∧
    badSide .mx4 (s.gV (.reg 1)) = false ∧ laneGet 32 (s.gV (.reg 1)) 2 = 0 ∧ badSide .mx4 (s.gV (.reg 2)) = false ∧ laneGet 32 (s.gV (.reg 2)) 2 = 1 ∧
    2 ^ 20 ≤ laneGet 32 (s.gV (.reg 3)) 0 ∧ s.gV (.reg 1) = 0#1024 ∧
    -- both kinds of format; a block with a NaN, one of zeros, one whose largest magnitude has the exponent 2
    (Bf.mx4.px? = none ∧ Bf.mxi8.elem? = none ∧ Bf.mx8e5.elem? = some fE5m2 ∧ Bf.px4.px? = some 4) ∧
    (fF32.dec 0x7FC00000).isNan = true ∧ (fF32.dec 0).isNan = false ∧ fF32.dec 0x40C00000 = .fin false (3 * 2 ^ 22) (-21) ∧
    ((3 * 2 ^ 22).log2 + (-21) : Int) = 2 ∧ signedAt false (3 * 2 ^ 22) (-21) (-200) ≠ 0 :=
  ⟨⟨_, List.mem_singleton.2 rfl, by decide, _, _, rfl⟩, by decide +kernel⟩
theorem wit_DeferralQueue : 15 < (13 : RegNo).val + (3#2).toNat ∧ (12 : RegNo).val + (3#2).toNat ≤ 15 ∧
    256 < (dqState 256).core.dq.length + 1 ∧ (dqState 255).core.dq.length + 1 ≤ 256 ∧
    ((List.range 32).filter fun j => ((oneLane (dqState 0)).gK 1).getLsbD j) = [0] := by decide +kernel

theorem test_vld_misaligned : trapOf (.vld .queue (.reg 1) 0#6 0 ⟨8#6, 0#2⟩) (gs [(1, 32)]) = (6#8, 32#64) := by decide +kernel
theorem test_vlds_lanes : ((run (.vlds .queue (.reg 1) (.reg 2) 1 ⟨8#6, 0#2⟩) (oneLane (gs [(1, laneBase + 4), (2, 8)]))).core.port.sched.map fun a =>
    match a.kind with | .load _ ps _ => ps | _ => []) = [[⟨0, keyLane 0 4, 4⟩]] := by decide +kernel
theorem test_vldl_slices : ((run (.vldl .queue (.reg 1) 1#6 1 ⟨8#6, 0#2⟩) (oneLane (gs [(1, laneBase)]))).core.port.sched.map fun a =>
    match a.kind with | .load _ ps _ => ps | _ => []) = [[⟨0, keyLane 0 4, 4⟩]] := by decide +kernel
theorem test_vst_bytes : ((run (.vst (.reg 3) (.reg 1) 0#14 1) (oneLane (gvs [(1, spadBase)] [(3, 0x04030201)]))).core.port.sched.map Sched.kind) =
    [.store [⟨keySpad 0 0, [1#8, 2#8, 3#8, 4#8]⟩]] := by decide +kernel

theorem wit_VectorLoadRequests : let s := oneLane (gs [(1, spadBase), (2, 8), (3, 4), (4, laneBase + 1020)])
    s.core.ctl.chk = false ∧ s.landingRoom = true ∧ (fullLandings s).landingRoom = false ∧ spadBase % 64 = 0 ∧ 4 % 64 ≠ 0 ∧
    (match s.laneWindow 4 [(0, spadBase)] with | .ok (some .spad, [(0, 0)]) => true | _ => false) = true ∧
    (match s.laneKeys .spad [(0, 0)] false with | .ok [(0, k)] => k == keySpad 0 0 | _ => false) = true ∧
    ((List.range 32).filter fun j => (s.gK 2).getLsbD j) = [] ∧ ((List.range 32).filter fun j => (s.gK 1).getLsbD j) = [0] ∧
    s.window s.core (laneBase + 1020) 4 = some (.lane, 1020) ∧ s.window s.core spadBase 4 = some (.spad, 0) ∧
    -- with CHK set, an earlier access of the bank in the cycle (R215)
    (let t := (withSched ⟨3, 0, 0, .load 0#1024 [⟨0, keySpad 0 0, 8⟩] 0#64⟩ s).modCtl fun c => { c with chk := true }
     t.core.ctl.chk = true ∧ t.missedBank 3 (.load 0#1024 [⟨0, keySpad 0 1024, 4⟩] 0#64) = some 0 ∧
     t.missedBank 3 (.store [⟨keySpad 0 1024, [1#8]⟩]) = some 0 ∧ t.missedBank 3 (.store [⟨keySpad 0 64, [1#8]⟩]) = none) ∧
    -- a first lane outside every window, and a second lane outside the window of the first
    s.window s.core (2 ^ 48) 4 = none ∧ s.window s.core (laneBase + 2 ^ 15 - 4) 4 = some (.lane, 2 ^ 15 - 4) ∧ s.window s.core (laneBase + 2 ^ 15) 4 = none ∧
    (let t := s.modRegs fun r => { r with k := r.k.set 1 3#32 }
     ((List.range 32).filter fun j => (t.gK 1).getLsbD j) = [0] ++ 1 :: []) := by decide +kernel
theorem wit_VectorStoreRequests : let s := oneLane (gs [(1, spadBase), (4, laneBase + 1020)])
    s.core.ctl.chk = false ∧ s.core.prov = false ∧
    (match s.laneWindow 4 [(0, spadBase)] with | .ok (some .spad, [(0, 0)]) => true | _ => false) = true ∧
    (match s.laneKeys .spad [(0, 0)] true with | .ok [(0, k)] => k == keySpad 0 0 | _ => false) = true ∧
    ((List.range 32).filter fun j => (s.gK 2).getLsbD j) = [] ∧ s.window s.core (laneBase + 1020) 4 = some (.lane, 1020) ∧
    s.window s.core (2 ^ 48) 4 = none ∧ s.window s.core (laneBase + 2 ^ 15 - 4) 4 = some (.lane, 2 ^ 15 - 4) ∧ s.window s.core (laneBase + 2 ^ 15) 4 = none ∧
    -- a provisional core, on its way to a page of the host
    (let p := provCore [] ((lvl 0 s).modPort fun p => { p with tlb := [⟨0#16, false, 0, 2 ^ 16, 0, true, true, true⟩] })
     (match p.laneWindow 4 [(0, 8)] with | .ok (some .global, [(0, 8)]) => true | _ => false) = true ∧
     (match p.laneKeys .global [(0, 8)] true with | .ok [(0, k)] => k == keyHost 8 && p.heldHost [(k, 4)] | _ => false) = true) := by decide +kernel
/-- R136: a lane outside the window of the first. -/
theorem test_vsts_winspan : trapOf (.vsts (.reg 3) (.reg 1) (.reg 2) 0) (gs [(1, laneBase + 2 ^ 15 - 4), (2, 4)]) = (5#8, 0xFFFF000300008000#64) := by decide +kernel

/-! ### The matrix array (R141 to R167) -/

/-- A nest of one step, and an INT8 stream in the core scratchpad whose units follow each other. -/
def nestOne : BitVec 256 := 0x000100010001000100010001#256
def streamI8 : StreamReg := ⟨.ofNat 256 (spadBase + 8 * 2 ^ 64 + 32 * 2 ^ 72), none⟩
def mgoState : State := State.reset.modMtx fun m => { m with streams := (m.streams.set 0 streamI8).set 1 streamI8, nest := nestOne }
def nestJob (w : BitVec 256) (done : Nat) : Nest := ⟨job1, streamI8, streamI8, w, 0, false, false, done, none, []⟩
def arrState (q : List ArrJob) : State := mgoState.modMtx fun m => { m with arrQ := q }
def epiJob (bad : Bool) (d : Nat) : ArrJob := .mepi ⟨job1, 0, some (.ofNat 512 d), 0#64, bad, none, false, 0⟩
/-- An epilogue of one FP32 element into the core scratchpad, its object at the start of the chip-shared window. -/
def epiWord : Nat := spadBase + 4 * 2 ^ 64 + 2 ^ 96 + 2 ^ 104 + 2 ^ 112 + 0x3F800000 * 2 ^ 128 + chipBase * 2 ^ 320
def barredState : State := State.reset.modCtl fun c => { c with solo := true, own := false }

theorem test_mgo_queues : ((run (.mgo 0 1 0 false false) mgoState).core.mtx.arrQ.map fun j => match j with | .mgo n => n.acc | .mepi _ => 99) = [0] := by
  decide +kernel
theorem test_mgo_beyond_tiles : (trapOf (.mgo 0 1 4 false false) mgoState).1 = 1#8 := by decide +kernel
theorem test_mza_waits : (run (.mza 0) (arrState [.mgo (nestJob nestOne 0)])).core.flow.verdict = .waits .arrayWork := by decide +kernel
/-- R154: two INT8 units of 3 and -2 in element 0 add -6 to element (0, 0). -/
theorem test_block_sum_int8 : accumulate .int32 10 (blockSum none [.fin false 3 0] [.fin true 2 0]) = (4, 0#8) := by decide
/-- R165: 1.0 of the tile scaled by 1.0 reaches the row, and the object counts 4 bytes. -/
theorem test_epilogue_row : let t := run .epilogueRun (run .epilogueRun (run .epilogueRun (grantedAt 1 [2 ^ 64] ((arrState [epiJob false epiWord]).setTile 0 [0x3F800000]))))
    memNat t.mem (keySpad 0 0) 4 = 0x3F800000 ∧ memNat t.mem (keyChip 0) 16 = 4 * 2 ^ 28 ∧ t.core.mtx.arrQ = [] := by decide +kernel

theorem wit_ArrayConfigurationAndQueue : let s := mgoState.modRegs fun r => { r with g := ((r.g.set 1 (.ofNat 64 spadBase)).set 2 16#64).set 3 (.ofNat 64 laneBase) }
    (barredState.core.ctl.solo = true ∧ barredState.core.ctl.own = false) ∧ s.core.ctl.solo = false ∧ s.core.ctl.chk = false ∧
    (let t := (withSched ⟨3, 0, 0, .load 0#1024 [⟨0, keySpad 0 0, 8⟩] 0#64⟩ s).modCtl fun c => { c with chk := true }
     t.missedBank 3 (.load 0#1024 [⟨0, keySpad 0 1024, 32⟩] 0#64) = some 0) ∧ s.cpysReads 0 (s.core.nestTiles (nestJob 0x000100010001000100000001#256 0)) = false ∧
    16 % 32 ≠ 0 ∧ s.window s.core laneBase 32 = some (.lane, 0) ∧ s.window s.core spadBase 32 = some (.spad, 0) ∧ s.window s.core spadBase 64 = some (.spad, 0) ∧
    badStream (2 ^ 71) = true ∧ badStream streamI8.bits.toNat = false ∧ badNest nestOne.toNat = false ∧ (nestJob nestOne 0).pair ≠ none ∧
    reach nestOne.toNat 4 = [4] ∧ reach nestOne.toNat 0 = [0] ∧ nestDim (2 ^ 96) 1 = 0 ∧
    nestDim nestOne.toNat 0 ≠ 0 ∧ nestDim nestOne.toNat 1 ≠ 0 ∧ nestDim nestOne.toNat 2 ≠ 0 ∧
    (match s.checkStreams nestOne.toNat [streamI8.bits.toNat, streamI8.bits.toNat] with | .ok () => true | _ => false) = true ∧
    s.nextFmt (s.core.tileOf 0) ≠ .fp64 ∧ s.core.mtx.arrQ.length < 4 ∧
    4 ≤ (arrState (List.replicate 4 (epiJob false 0))).core.mtx.arrQ.length ∧ s.core.mtx.arrQ = [] ∧ s.core.mtx.fault = none ∧
    (s.modMtx fun m => { m with fault := some (9#8, 0#64) }).core.mtx.fault = some (9#8, 0#64) := by decide +kernel
theorem wit_ArrayStepsAndEpilogues :
    (let n := nestJob nestOne 0
     let s := granted 0 (arrState [.mgo n])
     let u := s.asIssued n.toIssued
     let cs := counters nestOne.toNat 0
     let w := streamI8.bits.toNat
     s.core.mtx.arrQ = .mgo n :: [] ∧ n.clock = some 0 ∧ s.core.stopped = false ∧ n.done < nestSteps nestOne.toNat ∧ s.core.engineFree 0 0 = true ∧
     s.cpysReads 0 (s.core.nestTiles n) = false ∧ n.sa.bind = none ∧ s.bad = [] ∧ s.flips = [] ∧
     n.due = none ∧
     (match u.extentsRuns (unitAddrs w cs) false with
      | .ok ra => (u.engineGate 0 n.toIssued (ra ++ ra).flatten).2 && decide (ra.length = 64) &&
          ra.all fun x => !badUnit (stFmt w) (stMixed w) (stPtag w) (bytesNat (s.readRuns x))
      | _ => false) = true) ∧
    (nestSteps nestOne.toNat ≤ (nestJob nestOne 1).done ∧ nestSteps nestOne.toNat ≠ 0 ∧ nestSteps 0 = 0 ∧
      (arrState [.mgo (nestJob 0#256 0)]).cpysReads 0 ((arrState []).core.nestTiles (nestJob 0#256 0)) = false) ∧
    (let s := granted 1 (arrState [epiJob false epiWord])
     let u := s.asIssued job1
     s.core.mtx.fault = none ∧ s.core.prov = false ∧ (s.epiObj epiWord).isSome = true ∧ s.epiObj 0 = none ∧ s.core.engineFree 0 0 = true ∧ s.core.stopped = false ∧
     s.bad = [] ∧ s.flips = [] ∧ s.mem.wf = true ∧ s.badEpi epiWord false = false ∧ epiWord.testBit 118 = false ∧ epiWord.testBit 119 = false ∧
     (match u.extentsRuns (epRowsAt epiWord) true with
      | .ok rows => rows == [[(keySpad 0 0, 4)]] && (u.engineGate 1 job1 []).2
      | _ => false) = true ∧ (s.modCore fun c => { c with stopped := true }).core.stopped = true) ∧
    -- one that has begun, with one write to come, and with none
    (let p : StorePiece := ⟨keySpad 0 0, [1#8, 2#8, 3#8, 4#8]⟩
     let e : Epi := ⟨job1, 0, some (.ofNat 512 epiWord), 0#64, false, some [p], false, 0⟩
     let s := grantedAt 1 [2 ^ 64] (arrState [.mepi e])
     e.left = some (p :: []) ∧ p.data ≠ [] ∧ (∀ j < 4, s.fgByte (p.key + j) = false) ∧ ((s.asIssued job1).engineGate 1 (job1.part 1) [(p.key, 4)]).2 = true ∧
     { e with left := some [] }.left = some [] ∧ (s.asIssued job1).epiObj epiWord = some (keyChip 0) ∧ (∀ j < 16, s.fgByte (keyChip 0 + j) = false) ∧
     ((s.asIssued job1).engineGate 1 job1 [(keyChip 0, 16)]).2 = true) := by
  decide +kernel
theorem wit_IntegerBlockSums : (2 ^ 32 - 1 : Nat) < 2 ^ 32 := by decide
/-- R161, R399: MZA rewrites every bit of the accumulator, so that its mark goes. -/
theorem test_mza_clears_mark : (run .resultWrite { posted (.zeroTile 1) with bad := [.tile 0 1, .tile 0 2] }).bad = [.tile 0 2] := by decide +kernel
theorem wit_TileMoves :
    (mgoState.core.ctl.solo = false ∧ (4 : Sys2Proof.Small).val = 4 ∧ (arrState [.mgo (nestJob nestOne 0)]).mgoWrites 0 = true ∧
      (arrState [epiJob false 0]).mepiReads 0 = true ∧ (arrState [.mepi ⟨job1, 0, none, 0#64, false, some [], false, 0⟩]).mepiReads 0 = false ∧ mgoState.mgoWrites 0 = false ∧ mgoState.mepiReads 0 = false ∧ mgoState.badTile 0 = false ∧
      mgoState.badTile 1 = false ∧ (arrState [.mgo (nestJob nestOne 0)]).mgoWrites 1 = false) ∧
    mgoState.tileFmt 0 = .fp32 ∧ (mgoState.setTileFmt 0 .fp64).tileFmt 0 = .fp64 ∧ (mgoState.setTileFmt 1 .fp64).tileFmt 1 = .fp64 := by decide +kernel

/-! ### The sum-product engine (R168 to R180) -/

/-- A state whose scratch register 0 to 15 hold 1.0 as SP32, with shape 1 reading leaf l at index l. -/
def speState : State := { State.reset with core := { State.reset.core with
  ctl := { State.reset.core.ctl with spemode := true }
  spe := ⟨(List.range 16).map fun i => (i, 0x7FF00000#32), [(1, .ofNat 256 (((List.range 16).map fun l => l * 2 ^ (64 + 7 * l)).sum + 0x20 * 2 ^ 48))]⟩ } }

/-- R172: a tree of SUM nodes over sixteen ones is 16: exponent field 2051. -/
theorem test_speup_sum : ((run (.speup 1#6 1#4 0#12) speState).core.port.pend.map fun p => match p.act with | .scratch zs => zs | _ => []) =
    [[(32, 0x80300000#32)]] := by decide +kernel
theorem test_speld_limit : (trapOf (.speld (.reg 1) 4065#12) State.reset).1 = 1#8 := by decide +kernel
theorem wit_SumProductPasses : let s := speState
    let t := gs [(1, spadBase + 32), (2, 16), (3, laneBase)]
    s.bad = [] ∧ s.core.ctl.solo = false ∧ s.core.ctl.chk = false ∧ s.missedBank 3 (.load 0#1024 [⟨0, s.keyOf s.core .spad 0, 32⟩] 0#64) = none ∧
    (s.modCtl fun c => { c with chk := true }).core.ctl.chk = true ∧
    (barredState.core.ctl.solo = true ∧ barredState.core.ctl.own = false) ∧
    ((List.range 16).filter fun l => !shapeMasked (s.shapeAt 1#6) l) = List.range 16 ∧
    (0 + shapeRoot (s.shapeAt 1#6) ≤ 4095 ∧ ∀ l < 16, 0 + shapeLeaf (s.shapeAt 1#6) l ≤ 4095) ∧ ¬ 4095 + shapeRoot (s.shapeAt 1#6) ≤ 4095 ∧
    16 % 32 ≠ 0 ∧ t.window t.core laneBase 32 = some (.lane, 0) ∧ t.window t.core (spadBase + 32) 32 = some (.spad, 32) := by decide +kernel
theorem wit_SumProductMoves : ¬ (State.reset.core.ctl.solo = true ∧ State.reset.core.ctl.own = false) ∧ State.reset.bad = [] ∧
    4064 < (4065#12).toNat ∧ (4064#12).toNat ≤ 4064 := by decide

/-! ### Engines (R181 to R193, R253 to R267) -/

/-- A state whose copy engine 0 holds one job with a clock, its object at the start of the chip-shared window. -/
def copyJob (op : CopyOp) : CopyJob := ⟨job1, keyChip 0, op, 0, 0⟩
def copyState (op : CopyOp) (s : State) : State := s.modPort fun p => { p with cq0 := [copyJob op] }
/-- 96 bytes from offset 256 of the core scratchpad to offset 0. -/
def cpyOp : CopyOp := .cpy (.ofNat 64 spadBase) (.ofNat 64 (spadBase + 256)) 96#64
/-- A record of one token at offset 0, all else 0, and a segment of one FP32 logit from offset 2048. -/
def recState (s : State) : State := withMem (keySpad 0 16) [1] s
def cpysOp : CopyOp := .cpys (.ofNat 64 spadBase) (.ofNat 64 (spadBase + 2048)) (.ofNat 64 (2 ^ 21)) 0
def smrgOp : CopyOp := .smrg (.ofNat 64 spadBase) (.ofNat 64 (spadBase + 1024))
/-- Keys that follow each other, apart from an object, all of them ordinary. -/
def keysOk (s : State) (ks : List Nat) (obj : Nat) : Bool :=
  ks == (List.range ks.length).map (fun i => ks.headD 0 + i) && (ks.all fun k => !s.fgByte k && (decide (k < obj) || decide (obj + 16 ≤ k))) && (List.range 16).all fun j => !s.fgByte (obj + j)
def comState (op : CommOp) (s : State) : State := s.modPort fun p => { p with nq := [⟨job1, keyChip 0, op⟩] }
/-- RECVADD of 64 bytes of INT32 from one sender and counter 0. -/
def recvOp : CommOp := .recvadd (.ofNat 64 spadBase) (.ofNat 64 (spadBase + 256)) (.ofNat 64 (64 + 2 * 2 ^ 19)) false
def recvState : State := (comState recvOp (withMem (keySpad 0 256) [5] (withMem (keySpad 0 0) [3] State.reset))).modPort fun p =>
  { p with counters := p.counters.set 0 100#32 }

/-- The first 64 bytes move as one unit, which has its own bank cycles, and the rest with the count (R214, R216). -/
theorem test_cpy_moves : let u := run (.engineBankAccess 0) (grantedAt 2 [0, 2 ^ 64] (copyState cpyOp (withMem (keySpad 0 (256 + 95)) [7] State.reset)))
    let t := run (.copyEngineRun 0) u
    u.core.port.cq0.map CopyJob.moved = [64] ∧ memGet t.mem (keySpad 0 95) = 7#8 ∧ memNat t.mem (keyChip 0) 16 = 96 * 2 ^ 28 ∧ t.core.port.cq0 = [] := by decide +kernel
theorem test_cpy_too_long : (trapOf (.cpy (.reg 1) (.reg 2) (.reg 3) (.reg 4)) (gs [(1, chipBase), (4, 2 ^ 28)])).1 = 1#8 := by decide +kernel
theorem test_recvadd : let t := run .recvaddCombine (granted 4 recvState)
    memNat t.mem (keySpad 0 0) 4 = 8 ∧ t.core.port.counters.get 0 = 36#32 ∧ memNat t.mem (keyChip 0) 16 = 64 * 2 ^ 28 := by decide +kernel
/-- The worked example of 10_sampling.md: two slices of eight logits, captures 2 and 6. -/
def exRecord (first : Nat) : Nat :=
  8 * 2 ^ 128 + 8 * 2 ^ 160 + 0x3FB8AA3B * 2 ^ 192 + 2 * 2 ^ 226 + first * 2 ^ 256 + first * 2 ^ 288 + 2 * 2 ^ 1024 + 6 * 2 ^ 1088
theorem test_two_slices : (fun r => (rcDone r, rcCursor r, bits r 352 32, bits r 448 32, bits r 480 32, (List.range 8).map fun e => bits r (512 + 64 * e) 32))
    (merge (addSegment (exRecord 0) (4 * 2 ^ 21) [0, 0x40000000, 0x3F800000, 0xFF800000])
      (addSegment (exRecord 4) (4 + 4 * 2 ^ 21) [0x40000000, 0, 0x3F800000, 0xBF800000])) =
      (true, 8, 1, 0x40000000, 0x40680000, [1, 4, 2, 6, 0, 5, 7, 0xFFFFFFFF]) := by decide +kernel

theorem wit_EngineOperationsAreQueued : let s := gs [(1, chipBase), (2, spadBase), (3, 0), (4, 64), (5, 8), (6, 2 ^ 48), (7, laneBase)]
    (match s.checkObj 8 with | .bad 6 _ _ => true | _ => false) = true ∧ (match s.checkObj chipBase with | .ok (.chip, k) => k == keyChip 0 | _ => false) = true ∧
    badConv 9 = true ∧ badConv 1 = false ∧ s.badGather (2 ^ 42) = true ∧ s.badGather 0 = false ∧ s.badCpys 0 (3 * 2 ^ 42) = true ∧ s.badCpys 0 0 = false ∧
    (s.core.port.cq s.engineOf ++ s.victimJobs s.engineOf).length < 8 ∧
    8 ≤ ((s.modPort fun p => { p with cq0 := List.replicate 8 (copyJob cpyOp) }).core.port.cq 0).length ∧ s.engineOf = 0 ∧
    65 % 64 ≠ 0 ∧ s.window s.core (2 ^ 48) 64 = none ∧ s.window s.core laneBase 64 = some (.lane, 0) ∧ s.window s.core spadBase 64 = some (.spad, 0) ∧
    s.spanFault (2 ^ 48) = 2 ^ 48 ∧
    (let f := s.modExc fun e => { e with level := 1#2 }
     f.core.floor .spad = 2 ^ 16 ∧ f.badGather (64 + 2 ^ 22) = false ∧ 0 < bits (64 + 2 ^ 22) 22 16 ∧ bits (64 + 2 ^ 22) 0 22 < 2 ^ 16) ∧
    -- a peer of another package
    (let w := 2 ^ 48 + 2 ^ 49
     let t := { s with peers := [(1, 0x10000#256)] }
     s.badPeer w 64 = true ∧ t.badPeer w 64 = false ∧ pwRemote w = true ∧ pwPkg w = 1 ∧ t.peerCore w = some 0) ∧
    (let two : List Sched := [⟨3, 0, 0, .send (keySpad 0 0) 24 (.here 0 (keySpad 0 64)) 0 0⟩, ⟨3, 0, 0, .send (keySpad 0 0) 24 (.here 0 (keySpad 0 64)) 0 0⟩]
     ((s.modPort fun p => { p with sched := two }).sendConflict two).isSome = true ∧ s.sendConflict (two.take 1) = none) ∧
    s.badPeer (2 ^ 23) 64 = true ∧ s.badPeer 0 64 = false ∧ s.peerCore 0 = some 0 ∧ s.core.prov = false ∧ s.core.ctl.chk = false ∧ s.core.port.nq.length < 8 ∧
    8 ≤ (s.modPort fun p => { p with nq := List.replicate 8 ⟨job0, 0, recvOp⟩ }).core.port.nq.length ∧
    (bits 64 21 43 = 0 ∧ raLen 64 = 64 ∧ raN 64 = 1) ∧ raLen 65 % 64 ≠ 0 ∧ (0 ≤ 4095 ∧ s.core.exc.ttlo.toNat ≤ 0 ∧ 0 ≤ s.core.exc.tthi.toNat) := by decide +kernel
/-- Whether a copy of the core's is one unit, or the last of it, with bank cycles and an object apart from it. -/
def lastPiece (s : State) (op : CopyOp) : Bool :=
  let u := s.asIssued job1
  match u.jobPieces (copyJob op) with
  | .ok ps => (u.unitNext (copyJob op) ps).isNone && (u.engineGate 2 job1 (u.touched (copyJob op) ps)).2 && keysOk s (runKeys (ps.map Piece.dst).flatten) (keyChip 0)
  | _ => false
def chunkAt0 : Chunk := ⟨0, 0, keySpad 0 0, 15, List.replicate 64 1#8, none⟩
theorem wit_EnginesOfCopiesAndChunks :
    lastPiece (granted 2 (copyState (.cpy (.ofNat 64 spadBase) (.ofNat 64 (spadBase + 256)) 64#64) State.reset)) (.cpy (.ofNat 64 spadBase) (.ofNat 64 (spadBase + 256)) 64#64) = true ∧
    -- a SEND that is over reports, but not before an earlier BOINIT of its object
    (let s := granted 4 (comState (.report 64 0) State.reset)
     s.held = [] ∧ s.core.port.chunks = [] ∧ s.arrived = [] ∧ s.core.port.nq = [⟨job1, keyChip 0, .report 64 0⟩] ∧ s.core.port.objBefore (keyChip 0) job1 = false ∧
     (s.engineGate 4 job1 [(keyChip 0, 16)]).2 = true ∧ keysOk s [] (keyChip 0) = true ∧
     (withSched ⟨0, 0, 0, .bo (keyChip 0) 3 false⟩ s).core.port.objBefore (keyChip 0) job1 = true) ∧
    (let s := grantedAt 4 [2 ^ 128] { State.reset with held := [chunkAt0] }
     s.held = [chunkAt0] ∧ chunkAt0.dest = s.core.name ∧ s.bankLocked chunkAt0.key = false ∧ (s.engineTurn 4 (2 ^ 128) [(chunkAt0.key, 64)]).2 = true ∧
     (List.range 64).all (fun i => !s.fgByte (keySpad 0 0 + i)) = true) ∧
    -- a chunk that finds its bank locked, and one of the core's own SEND
    (let s := State.reset.modPort fun p => { p with chunks := [chunkAt0] }
     ({ s with core := { s.core with flow := { s.core.flow with hold := some ⟨1#16, [0]⟩ } } } : State).bankLocked chunkAt0.key = true) ∧
    (let ch : Chunk := { chunkAt0 with sender := some (0, 0) }
     let s := (comState (.send 2 128) State.reset).modPort fun p => { p with chunks := [ch] }
     s.core.port.nq = [⟨job1, keyChip 0, .send 2 128⟩] ∧ ch.sender = some (s.core.name, job1.seq) ∧ ch.due ≤ s.core.unf) := by decide +kernel
/-- A provisional core's copy between coherent keys; its object is in the chip-shared window of its package. -/
theorem wit_CopiesOfProvisionalCores :
    let op : CopyOp := .cpy (.ofNat 64 (chipBase + 8192)) (.ofNat 64 (chipBase + 4096)) 64#64
    let s := provCore [⟨keyChip 4096, [7#8]⟩] (granted 2 (copyState op State.reset))
    let i := { inst0 .runProv [(0, 0, 0)] with loaded := true, buf := [⟨keyChip 4096, [7#8]⟩] }
    s.bad = [] ∧ s.flips = [] ∧ s.core.prov = true ∧ s.core.launch = some (0, 0) ∧ s.launchAt 0 = some (launch0 [i]) ∧
    ((launch0 [i]).insts.find? fun x => x.idx == 0) = some i ∧ s.copyReady 0 = some (copyJob op, 0) ∧ lastPiece s op = true ∧ isCohKey (keyChip 0) = true ∧
    (match (s.asIssued job1).jobPieces (copyJob op) with
     | .ok ps => (runKeys (ps.map Piece.dst).flatten).all isCohKey && !s.heldHost ((keyChip 0, 16) :: (ps.map Piece.dst).flatten) &&
        (runKeys (ps.map Piece.dst).flatten).length == (ps.map fun x => x.f ((runKeys x.src).map fun k => memGet s.mem k)).flatten.length
     | _ => false) = true := by decide +kernel
theorem wit_EnginesMoveTheirBytes :
    (let s := granted 2 (copyState cpyOp State.reset)
     let u := s.asIssued job1
     (s.mem.wf = true ∧ s.bad = [] ∧ s.flips = [] ∧ s.core.prov = false) ∧ s.copyReady 0 = some (copyJob cpyOp, 0) ∧ (copyJob cpyOp).moved = 0 ∧
     (match s.cpyBytes (copyJob cpyOp) with | some (r, w) => r == [(keySpad 0 256, 96)] && w == [(keySpad 0 0, 96)] && !runsMeet r w | none => false) = true ∧
     (match u.jobPieces (copyJob cpyOp) with
      | .ok (q :: ps) => (u.unitNext (copyJob cpyOp) (q :: ps)).isSome && q.whole && !ps.isEmpty && !(schedRuns (q.src ++ q.dst)).isEmpty &&
          ((grantedAt 2 [2 ^ 64] u).engineGate 2 (job1.part 1) (q.src ++ q.dst)).2 &&
          keysOk s (runKeys ((q :: ps).map Piece.dst).flatten) (keyChip 0)
      | _ => false) = true) ∧
    (let j := copyJob (.cpy 0#64 (.ofNat 64 laneBase) 8#64)
     (copyState j.op State.reset).copyReady 0 = some (j, 0) ∧
     (let u := (granted 2 (copyState j.op State.reset)).asIssued job1
      (match u.jobPieces j with | .fault _ => (u.engineGate 2 job1 ((j.obj, 16) :: u.listRuns j)).2 | _ => false) = true)) ∧
    (let s := granted 2 (copyState cpysOp (recState State.reset))
     let u := s.asIssued job1
     s.mem.wf = true ∧ s.core.mtx.arrQ = [] ∧ segKind (2 ^ 21) = 0 ∧
     (match u.recordRuns spadBase true, u.segmentRuns (spadBase + 2048) (2 ^ 21) with
      | .ok rec, .ok src => (u.engineGate 2 job1 ((keyChip 0, 16) :: src ++ rec)).2 && keysOk s (runKeys rec) (keyChip 0) && !badSegment (bytesNat (bytesAt s.mem (runKeys rec))) (2 ^ 21)
      | _, _ => false) = true ∧ badSegment 0 (2 ^ 21) = true) ∧
    (let s := granted 2 (copyState smrgOp (withMem (keySpad 0 1040) [1] (recState State.reset)))
     let u := s.asIssued job1
     s.mem.wf = true ∧ (match u.recordRuns spadBase true, u.recordRuns (spadBase + 1024) false with
      | .ok ra, .ok rb => (u.engineGate 2 job1 ((keyChip 0, 16) :: rb ++ ra)).2 && !badMerge (bytesNat (bytesAt s.mem (runKeys ra))) (bytesNat (bytesAt s.mem (runKeys rb)))
      | _, _ => false) = true ∧ badMerge 0 0 = true) ∧
    (recvState.mem.wf = true ∧ recvState.core.port.nq.find? recvState.recvClaims = some ⟨job1, keyChip 0, recvOp⟩ ∧
     (recvState.core.port.nq.all fun x => match x.op with | .recvadd _ _ _ d => !d | _ => true) = true ∧ recvState.core.engineFree 0 0 = true ∧
     (withSched ⟨9, 0, 0, .load 0#1024 [] 0#64⟩ recvState).core.engineFree 0 0 = false ∧
     (let s := granted 4 recvState
      (s.engineGate 4 job1 [s.spadRun spadBase 64, s.spadRun (spadBase + 256) 64, (keyChip 0, 16)]).2 = true ∧
      ∀ k ∈ runKeys [s.spadRun (spadBase + 256) 64], k ∉ runKeys [s.spadRun spadBase 64]) ∧
     raLen (64 + 2 * 2 ^ 19) % 64 = 0 ∧ keysOk recvState (runKeys [recvState.spadRun spadBase 64]) (keyChip 0) = true) ∧
    (let s := State.reset.modPort fun p => { p with chunks := [⟨0, 0, keySpad 0 0, 15, List.replicate 64 1#8, none⟩] }
     s.core.port.chunks.map Chunk.due = [0] ∧ s.core.name = 0 ∧ s.bankLocked (keySpad 0 0) = false ∧ (∀ i < 64, s.fgByte (keySpad 0 0 + i) = false) ∧ s.arrived = [] ∧
     -- a bank that is free, and one that another access has taken for five cycles
     (let need := bankNeeds [.store [⟨keySpad 0 0, List.replicate 64 1#8⟩]]
      (s.takeBanks 0 need).banksLate 0 need = 0 ∧ ({ s with busy := need.map fun (x : Nat × Nat) => (x.1, 5) }.takeBanks 0 need).banksLate 0 need = 5) ∧ s.now = 0) ∧
    (let s := { State.reset with arrived := [(0, ⟨0, 0, keySpad 0 0, 15, List.replicate 64 1#8, none⟩)] }
     s.arrived.map Prod.fst = [0] ∧ 0 ≤ s.now ∧ s.core.name = 0) ∧
    (0x0FFFC0#22).toNat + 64 ≤ sliceSize State.reset.core.die := by decide +kernel

/-! ### The tile table (R268 to R276) -/

/-- An entry of die A with one other peer on die B, an element-wise sum of 64 bytes of INT32 in the core scratchpad. -/
def teImage (op : Nat) : Nat := spadBase + (spadBase + 256) * 2 ^ 64 + chipBase * 2 ^ 128 + 64 * 2 ^ 192 + op * 2 ^ 216 + 3 * 2 ^ 218 + 2 * 2 ^ 220 + 2 ^ 256 + 2 * 2 ^ 320
def teChunk (op : Nat) : TileChunk := ⟨1, 64, .ofNat 2 op, 3#2, 0, List.replicate 64 2#8, false, none⟩
def teOwn (op : Nat) : TileChunk := ⟨0, 64, .ofNat 2 op, 3#2, 0, List.replicate 64 1#8, false, none⟩
def teEntry (op : Nat) (f : Option Firing) (staged : List TileChunk) : TileEntry := ⟨false, 0, 0, job1, .ofNat 512 (teImage op), f, none, staged, [], [0, 1], []⟩
def teState (e : TileEntry) : State := { State.reset with tileTab := [e] }
def teSet (fired sent : Bool) : Option Firing := some ⟨0, fired, sent, 0, job1⟩

/-- The same with the other peer on package 1. -/
def teRemote : Nat := teImage 1 - 2 * 2 ^ 320 + 12 * 2 ^ 320

theorem test_tile_sum : let t := run (.tileFiringComplete false 0) (granted 4 <| teState (teEntry 1 (teSet true true) [teOwn 1, teChunk 1]))
    memNat t.mem (keySpad 0 256) 4 = 0x03030303 ∧ memNat t.mem (keyChip 0) 16 = 64 * 2 ^ 28 ∧ t.tileTab.map TileEntry.staged = [[]] := by decide +kernel
theorem test_tile_refused : let t := run (.tileChunkStage false 0 (teChunk 2)) (teState (teEntry 1 none []))
    memNat t.mem (keyChip 0) 16 = 2 ^ 57 + 9 * 2 ^ 59 ∧ t.logV.map ErrRec.cls = [3#4] := by decide +kernel
theorem test_twait_waits : (run (.twait (.reg 1)) (teState (teEntry 1 (teSet true false) []))).core.flow.verdict = .waits .tile := by decide +kernel

theorem wit_TileTableInstructionsAndFirings :
    (let s := gs [(1, 16), (2, 15), (3, 5), (4, 4096)]
     16 ≤ (s.gS (.reg 1)).toNat ∧ (15 : RegNo).val = (s.gS (.reg 2)).toNat ∧ (s.core.port.counters.get 15).toNat < (s.gS (.reg 3)).toNat ∧
     (s.core.port.counters.get 15).toNat ≥ (s.gS (.reg 5)).toNat ∧ ¬ (s.gS (.reg 4)).toNat ≤ 4095) ∧
    (let s := teState (teEntry 1 none [])
     (0 ≤ 4095 ∧ s.core.exc.ttlo.toNat ≤ 0 ∧ 0 ≤ s.core.exc.tthi.toNat) ∧ s.core.prov = false ∧ s.fencePending .package true = false ∧
     (dueStore.modCore fun c => { c with unf := 1 }).fencePending .package true = true ∧ State.reset.entryAt false 0 = none ∧
     s.entryAt false 0 = some (teEntry 1 none []) ∧ (teEntry 1 none []).core = s.core.name ∧ s.entryObj (teEntry 1 none []) = some (keyChip 0) ∧
     keysOk s [] (keyChip 0) = true) ∧
    (let e := { teEntry 1 (teSet false false) [] with pending := teSet false false }
     (teState e).entryAt false 0 = some e ∧ e.firing ≠ none ∧ e.pending ≠ none ∧ (teEntry 1 (teSet false false) []).pending = none) ∧
    ((teEntry 1 (teSet true true) []).pending = none ∧ (teEntry 1 (teSet true true) []).firing.map Firing.sent = some true) ∧
    (State.reset.tileSender false 0 (teChunk 1) = false ∧ State.reset.logV.length + 2 ≤ 4096) ∧
    (let s := granted 4 (teState (teEntry 1 (teSet false false) []))
     let u := s.asIssued job1
     (match u.extentRuns (teSrc (teImage 1)) 64 false with | .ok rs => (u.firingGate job1 0 rs).2 | _ => false) = true ∧
     ((teTargets (teImage 1)).all fun z => match u.extentRuns z.2 64 true with | .ok _ => true | _ => false) = true ∧
     teLen (teImage 1) = 64 ∧ (match u.extentRuns laneBase 64 false with | .fault _ => true | _ => false) = true) ∧
    ((teEntry 1 none []).accepts (teChunk 1) = true ∧ (teEntry 0 none []).accepts (teChunk 0) = true ∧ (teEntry 1 none []).accepts (teChunk 2) = false ∧
      teOp (teImage 1) ≠ 0 ∧ teOp (teImage 0) = 0 ∧ teParts (teImage 0) = 1 ∧
      (teChunk 0).bad = false ∧ (State.reset.tileSender false 0 (teChunk 2)) = false ∧
      (let s := granted 4 (teState (teEntry 0 none []))
       match (s.asIssued job1).extentRuns (genAddr (teDst (teImage 0)) 64) 64 true with
       | .ok rs => (s.engineGate 4 job1 rs).2 && keysOk s (runKeys rs) (keyChip 0)
       | _ => false) = true) ∧
    (let e := teEntry 1 (teSet true true) [teOwn 1, teChunk 1]
     (teState (teEntry 1 (teSet true false) [])).tileOnWay (teEntry 1 (teSet true false) []) = false ∧
     (List.range (teNp (teImage 1))).map (fun i => match e.contribution i with | some (.ok z) => z | _ => []) =
       List.replicate 64 1#8 :: [List.replicate 64 2#8] ∧
     (match ((granted 4 (teState e)).asIssued job1).extentRuns (teDst (teImage 1)) 64 true with
      | .ok rs => ((granted 4 (teState e)).engineGate 4 job1 rs).2 && keysOk (teState e) (runKeys rs) (keyChip 0)
      | _ => false) = true ∧ (teImage 1).testBit 223 = false) := by
  decide +kernel
/-- A peer that has one port up is reached by it, whatever spreads flows over ports. -/
theorem wit_port (flow : Nat) : ({ State.reset with peers := [(1, 0x10000#256)] } : State).portFor 0 1 flow = some 0 := by
  have h : ((List.range 8).filter fun i => (0x10000#256).getLsbD (16 + i) && (0xFF#8).getLsbD i) = [0] := by decide
  simp only [State.portFor, State.reset, List.find?, beq_self_eq_true, Nat.zero_mul, Nat.zero_add, h, List.length_singleton, Nat.max_self, Nat.mod_one]; rfl
theorem wit_TileTableBeyondTheDie :
    (let s := granted 4 (comState (.sendRemote 1 0 1 64) State.reset)
     s.core.port.nq = [⟨job1, keyChip 0, .sendRemote 1 0 1 64⟩] ∧ s.core.port.sched = [] ∧ s.core.port.chunks = [] ∧ s.core.port.objBefore (keyChip 0) job1 = false ∧
     (s.engineGate 4 job1 [(keyChip 0, 16)]).2 = true ∧ keysOk s [] (keyChip 0) = true) ∧
    -- a peer of another package, which the partition knows by one port
    (let e := { teEntry 1 (teSet true false) [] with image := .ofNat 512 teRemote }
     let s := { teState e with peers := [(1, 0x10000#256)] }
     s.entryAt false 0 = some e ∧ e.core = s.core.name ∧ 1 ∈ teOthers teRemote ∧ peerRemote (tePeer teRemote 1) = true ∧ s.entryObj e = some (keyChip 0) ∧
     s.bankLocked (keyChip 0) = false ∧ keysOk s [] (keyChip 0) = true ∧ s.partOf s.core.id = 0 ∧ peerPkg (tePeer teRemote 1) = 1 ∧
     (s.peers.find? fun z => z.1 == peerPkg (tePeer teRemote 1)).isSome = true ∧ { teChunk 2 with pos := 1 }.pos < teNp teRemote ∧
     e.accepts (teChunk 2) = false ∧ s.tileSender false 0 (teChunk 2) = false) ∧
    (let e := { teEntry 1 none [] with owed := [(9, none)] }
     (teState e).entryAt false 0 = some e ∧ (teState e).entryObj e = some (keyChip 0) ∧ (teState e).bankLocked (keyChip 0) = false ∧ (teEntry 1 (teSet true true) []).owed = []) ∧
    (let s := comState (.ttset spadBase 0) State.reset
     s.ttsetReady = some (⟨job1, keyChip 0, .ttset spadBase 0⟩, spadBase, 0) ∧ ((granted 4 s).engineGate 4 job1 [s.spadRun spadBase 64]).2 = true ∧ badImage 0 = false ∧ badImage 64 = false ∧ badImage 1 = true) := by
  decide +kernel

/-! ### Tasks and waiting (R281 to R294) -/

def taskState (f : Tasks → Tasks) : State := State.reset.modCore fun c => { c with tasks := f c.tasks }
/-- A task of core 0 in hand, and one frame above the base. -/
def oneTask : ForkEntry := ⟨0#8, 0, 7#64, 9#64, 0⟩
def inTask (f : Tasks → Tasks) : State := taskState fun k => f { k with frames := ⟨0, 3#12, 0, 0, 0⟩ :: k.frames }
/-- Core 0 as one of two cores of an instance, with core 2 whose deque holds one task. -/
def gangInst : Inst := ⟨0, .runDef, [(0, 0, 0), (0, 1, 2)], true, [], [], none, [], false⟩
def gangCore (n : Nat) (t : Tasks) : Core :=
  { Core.reset n with launch := some (0, 0), tasks := t, ctl := { (Core.reset n).ctl with vcore := .ofNat 8 (n / 2) } }
def gangState (t u : Tasks) : State :=
  { State.reset with core := gangCore 0 t, others := [gangCore 2 u], launches := [launch0 [gangInst]] }
def atWait (w : WaitState) : Tasks := { Tasks.reset with wait := w, releaseAt := some 0 }

theorem test_join_waits : (run .join (taskState fun k => { k with frames := [⟨1, 0#12, 0, 0, 0⟩] })).core.tasks.wait = .atJoin := by decide
theorem test_taskend_at_base : (trapOf .taskend State.reset).1 = 1#8 := by decide
theorem test_wfe_latch : let t := run .wfe (State.reset.modCtl fun c => { c with latch := true })
    t.core.ctl.latch = false ∧ t.core.tasks.wait = .running := by decide
theorem test_dispatch_args : let t := run .taskDispatch (taskState fun k => { k with taken := some oneTask })
    t.core.regs.g.get 13 = 7#64 ∧ t.core.regs.g.get 14 = 9#64 ∧ t.core.tasks.frames.length = 2 := by decide

theorem wit_WaitingInstructionsAndTasks :
    (let s := lvl 1 State.reset
     1 ≤ s.level ∧ s.core.tasks.depth = 0 ∧ s.core.flow.lock = none ∧ s.core.drained = true ∧ s.core.urg = false ∧ (urgent s).core.urg = true ∧
     (posted (.pred 1 true)).core.drained = false ∧ (s.modFlow fun f => { f with lock := some ⟨1, 1#16⟩ }).core.flow.lock = some ⟨1, 1#16⟩ ∧
     s.core.tasks.wait = .running ∧ s.fencePending .gang true = false ∧ s.fencePending .ensemble true = false ∧ cwf 0 s.scopeGang = true ∧
     cwf 0 s.scopeEns = true ∧ s.core.ctl.latch = false ∧ s.core.exc.pend = false ∧ s.core.tasks.count = 0 ∧ s.core.port.comQ = [] ∧
     s.core.port.comErr = none ∧ s.core.prov = false ∧ (dueStore.modCore fun c => { c with unf := 1 }).fencePending .gang true = true ∧
     (posted (.pred 1 true)).core.tasks.count = 0 ∧ (posted (.pred 1 true)).core.flow.lock = none ∧ (taskState fun k => { k with wait := .atBar }).core.tasks.wait = .atBar ∧
     (taskState fun k => { k with wait := .atEbar }).core.drained = true ∧ (s.modCtl fun x => { x with latch := true }).core.drained = true ∧
     (s.modPort fun p => { p with comErr := some 0#64 }).core.drained = true ∧
     (taskState fun k => { k with frames := [⟨1, 3#12, 0, 0, 0⟩, ⟨0, 0#12, 0, 0, 0⟩] }).core.tasks.count ≠ 0 ∧
     (let h := run (.trap 5#17) State.reset
      h.core.exc.shadow.isSome = true ∧ h.core.flow.lock = none ∧ h.core.tasks.depth = 0 ∧ h.core.drained = true ∧ h.core.tasks.count = 0 ∧ h.core.port.comQ = [] ∧
      h.core.port.comErr = none) ∧
     (inTask id).core.tasks.depth ≠ 0 ∧ (taskState fun k => { k with frames := [⟨1, 0#12, 0, 0, 0⟩] }).core.tasks.count ≠ 0) ∧
    (let s := inTask id
     s.core.tasks.frames = ⟨0, 3#12, 0, 0, 0⟩ :: [⟨0, 0#12, 0, 0, 0⟩] ∧ s.core.tasks.count = 0 ∧ s.core.drained = true ∧ s.fencePending .gang true = false) ∧
    (let s := gs [(1, 2 ^ 24), (2, 2 ^ 25), (3, 1)]
     (s.gS (.reg 1)).toNat / 2 ^ 25 = 0 ∧ (s.gS (.reg 1)).toNat.testBit 24 = true ∧ (s.gS (.reg 2)).toNat / 2 ^ 25 ≠ 0 ∧ (s.gS (.reg 4)).toNat.testBit 24 = false ∧
     ((s.members s.core).filter fun m => m.1 == 0) = [(0, 0, 0)] ∧ (∀ m ∈ [((0, 0, 0) : Nat × Nat × Nat)], m.2.1 ≠ bits (s.gS (.reg 3)).toNat 0 8)) ∧
    (let s := gangState (atWait .atBar) (atWait .atBar)
     (s.cores.map Core.name).Nodup ∧ s.gang.Nodup ∧ s.gangLive.length = 2 ∧
     ∀ x ∈ s.gangLive, x.tasks.wait = .atBar ∧ x.tasks.deque = [] ∧ x.inStolen = false ∧ x.tasks.releaseAt = some 0 ∧ 0 ≤ s.core.unf) ∧
    (let s := gangState (atWait .atEbar) (atWait .atEbar)
     ((s.members s.core).map fun m => m.2.2).Nodup ∧ ∀ x ∈ s.gangLive, x.tasks.wait = .atEbar ∧ x.tasks.releaseAt = some 0 ∧ 0 ≤ s.core.clock) ∧
    ((gangState Tasks.reset Tasks.reset).gangLive.any fun x => x.tasks.wait == .running) = true ∧
    (let s := gangState (atWait .atBar) { Tasks.reset with deque := [oneTask] }
     s.core.takes = true ∧ s.core.tasks.deque = [] ∧ s.ring[0]? = some 2 ∧ s.core.tasks.probe = 0 ∧ (s.coreAt 2).map Core.probeFrozen = some false ∧
     (s.coreAt 2).map (fun d => decide (d.tasks.wait ≠ .exited)) = some true ∧ (s.cores.map Core.name).Nodup ∧
     ({ gangCore 2 Tasks.reset with trapFrozen := true } : Core).probeFrozen = true ∧
     ((s.coreAt 2).map fun d => d.tasks.deque) = some [oneTask] ∧ ((gangState (atWait .atBar) Tasks.reset).coreAt 2).map (fun d => d.tasks.deque) = some []) ∧
    ((taskState fun k => { k with taken := some oneTask }).core.tasks.taken = some oneTask ∧
     (let s := gangState { atWait .atBar with deque := [oneTask] } Tasks.reset
      s.core.tasks.taken = none ∧ s.core.takes = true ∧ s.core.tasks.deque = oneTask :: [])) ∧
    (let s := { taskState fun k => { k with frames := [⟨1, 0#12, 0, 0, 0⟩] } with notices := [⟨0, 0, 5, 0⟩] }
     (s.notices.find? fun n => n.core == s.core.name && decide (n.due ≤ s.core.unf)) = some ⟨0, 0, 5, 0⟩ ∧ s.core.tasks.frames[0]? = some ⟨1, 0#12, 0, 0, 0⟩) := by
  refine ⟨?_, ?_, ?_, ?_, ?_, ?_, ?_, ?_, ?_⟩ <;> decide +kernel
theorem wit_fork : let s := gangState Tasks.reset Tasks.reset
    let t := { s with images := [⟨0, 0, 0#16, 0#12, 0#12, 0#44, [⟨false, 2, 1, false, false, [9#12], [], [], 0#256, [], 0#12⟩]⟩] }
    64 ≤ (gangState { Tasks.reset with deque := List.replicate 64 oneTask } Tasks.reset).core.tasks.deque.length ∧
    t.taskWords = [9#12] ∧ s.taskWords.length ≤ (0#17).toNat ∧ (0#17).toNat < t.taskWords.length ∧ t.core.tasks.depth ≠ 8 ∧ t.core.tasks.deque.length < 64 ∧
    s.core.urg = false := by decide +kernel

/-! ### Launches (R279, R280, R305 to R317) -/

def gang0 : GangImg := ⟨false, 1, 1, false, false, [], [⟨0, 5#12, []⟩], [], 0#256, [], 0#12⟩
def img0 : Image := ⟨0, 0, 0#16, 0#12, 0#12, 0#44, [gang0]⟩
def launchState (l : Launch) : State := { State.reset with launches := [l], images := [img0] }
/-- The launch record of floor 1 at address 512. -/
def recBytes (s : State) : State := withMem (512 + 4) [1] s

theorem test_launch_answers : outS (.launch .queue (.reg 1)) (recBytes { gs [(1, 512)] with images := [img0] }) = some 0#64 := by decide +kernel
theorem test_launch_no_image : outS (.launch .queue (.reg 1)) (recBytes (gs [(1, 512)])) = some 0x8000000000000021#64 := by decide +kernel
theorem test_place_first_core : ((run (.instancePlace 0 0) (launchState (launch0 [inst0 .waitDef []]))).launches.map fun l => l.insts.map Inst.cores) = [[[(0, 0, 1)]]] := by
  decide +kernel
theorem test_load_entry : ((run (.instanceLoad 0 0) (launchState (launch0 [inst0 .waitDef [(0, 0, 1)]]))).coreAt 1).map (fun c => c.flow.pc) = some 5#12 := by
  decide +kernel
theorem test_completion_word : let l := { launch0 [⟨0, .complete, [], true, [], [], none, [], false⟩] with done := 1024#64 }
    memNat (run (.launchComplete 0) (launchState l)).mem 1024 8 = 2 ^ 63 + 1 := by decide +kernel

theorem wit_LaunchInstructionsAndInstances :
    (let s := recBytes { gs [(1, 512), (2, 2 ^ 32), (3, 4)] with images := [img0] }
     Sound s ∧ (urgent s).core.urg = true ∧ 2 ^ 32 ≤ (s.gS (.reg 2)).toNat ∧ (match s.checkCoh 4 64 false false with | .bad _ _ false => true | _ => false) = true ∧
     (match s.checkCoh 4 8 true true with | .bad _ _ false => true | _ => false) = true ∧
     (match s.checkCoh 512 64 false false with | .ok k => k == 512 | _ => false) = true ∧
     (match s.checkCoh 512 8 true true with | .ok k => k == 512 | _ => false) = true ∧ s.fencePending .package true = false ∧
     (dueStore.modCore fun c => { c with unf := 1 }).fencePending .package true = true ∧ s.lrCode 0 0#16 (memNat s.mem 512 64) = none ∧
     lrSrc (memNat s.mem 512 64) ≠ 2 ∧ s.lrCode 0 0#16 (2 ^ 31) = some 0x21 ∧ (∀ j < 8, s.fgByte (512 + j) = false) ∧
     (∀ x ∈ s.launches, ¬ (x.slot = 512 % 1024 ∧ x.gen = 512 / 1024))) ∧
    (let l := { launch0 [inst0 .waitDef []] with src := 1 }
     (launchState l).launchAt 0 = some l ∧ l.slot = 0 % 1024 ∧ l.gen = 0 / 1024 ∧ l.src = 1 ∧ l.shape = none ∧
     l.asid = (launchState l).core.exc.asid ∧ l.part = (launchState l).partOf 0 ∧ l.insts.all (fun i => !i.provisional) = true ∧
     (launchState l).launchDone l = false ∧ (∀ x ∈ l.insts, x.idx ≠ 1)) ∧
    (let l := { launch0 [⟨0, .complete, [], true, [], [], none, [], false⟩] with done := 1024#64 }
     let s := launchState l
     s.launchDone l = true ∧ l.urgent = none ∧ l.parent = none ∧ s.queueAt l.part l.qnum = none ∧ s.preempts = [] ∧
     (match (s.asFront l.part l.asid fun s => (s, s.frontRuns l.done.toNat 8 false true)).2 with | .ok rs => rs == [(1024, 8)] | _ => false) = true ∧
     (launch0 []).done = 0#64) ∧
    (let l := { launch0 [inst0 .waitDef []] with src := 2, sig := 1024#64 }
     (match (launchState l).frontRead l.part l.asid l.sig.toNat 8 false with | (_, .ok (v, _)) => v == 0 | _ => false) = true ∧
     (match (withMem 1031 [0x80] (launchState l)).frontRead l.part l.asid l.sig.toNat 8 false with | (_, .ok (v, _)) => v.testBit 63 | _ => false) = true) ∧
    (let i := inst0 .waitDef []
     let s := launchState (launch0 [i])
     (s.launchAt 0).isSome = true ∧ (s.imageOf 0 0#16 0).isSome = true ∧ i.cores = [] ∧
     i.unplaced img0 = [(0, gang0)] ∧ (launch0 [i]).urgent = none ∧
     (s.placeGangs 0 (s.clusterOrder (launch0 [i]) false) (i.unplaced img0) (s.heldIds fun _ _ => true)).1 = [(0, 0, 1)]) ∧
    (let i := inst0 .waitDef [(0, 0, 1)]
     let s := launchState (launch0 [i])
     i.loaded = false ∧ i.cores ≠ [] ∧ (launch0 [i]).pbo = 0#64 ∧ i.st = .waitDef ∧ i.unplaced img0 = [] ∧ (s.instIds (launch0 [i]) i).all s.loadable = true ∧ s.boot.recovery = false ∧ (i.cores.map fun x => x.2.2).Nodup ∧ img0.gangs[0]? = some gang0) ∧
    (let i := inst0 .runDef [(0, 0, 1)]
     let s := { launchState (launch0 [i]) with others := [{ Core.reset 1 with tasks := { Tasks.reset with wait := .exited } }] }
     (s.pick (i.cores.map fun x => x.2.2)).all Core.finished = true ∧ (s.pick (i.cores.map fun x => x.2.2)).length = 1 ∧ s.tileTab = []) := by
  refine ⟨⟨⟨by decide +kernel, by decide, by decide, by decide⟩, by decide +kernel⟩, by decide +kernel⟩
/-- An instance that ran provisionally and wrote one byte of the chip-shared window, one that is trimmed, and a shape of 1. -/
theorem wit_ShapeOfProvisionalInstances :
    let w : StorePiece := ⟨keyChip 4096, [7#8]⟩
    let i0 := { inst0 .runProv [(0, 0, 1)] with loaded := true, buf := [w] }
    let i1 := { inst0 .waitProv [] with idx := 1 }
    let l := { launch0 [i0, i1] with src := 1, floor := 0, ceil := 2 }
    let s := { gs [(3, 1)] with launches := [l], images := [img0], others := [{ Core.reset 1 with prov := true, launch := some (0, 0) }] }
    s.fencePending .package true = false ∧ s.launchAt 0 = some l ∧ l.slot = 0 % 1024 ∧ l.gen = 0 / 1024 ∧ l.src = 1 ∧ l.shape = none ∧ l.asid = s.core.exc.asid ∧
    l.part = s.partOf s.core.id ∧ l.insts.all (fun i => !i.provisional) = false ∧ (l.insts.map Inst.idx).Nodup ∧
    (l.insts.filter fun x => x.provisional && x.st != .trimmed) = [i0, i1] ∧ i0.flags = [] ∧ i1.flags = [] ∧ i0.idx < max 1 l.floor ∧ max 1 l.floor ≤ i1.idx ∧
    (∀ x ∈ s.cores, x.exc.entering = none ∧ x.port.sched = [] ∧ x.port.chunks = []) ∧ s.held = [] ∧ s.fgByte w.key = false ∧ isHostKey w.key = false := by decide +kernel
/-- A provisional instance on the one cluster of a part, which a definite instance needs whole; and one that runs on, or is finished. -/
theorem wit_ProvisionalInstances :
    (let i := { inst0 .runProv [(0, 0, 1)] with idx := 1, loaded := true }
     let l := launch0 [inst0 .waitDef [], i]
     let s := { launchState l with partmap := 3#64, images := [{ img0 with gangs := [{ gang0 with cols := 191 }] }] }
     s.split = true ∧ i.provisional = true ∧ i.cores ≠ [] ∧ s.launchAt 0 = some l ∧ (l.insts.find? fun x => x.idx == 1) = some i ∧ clustersIn (s.instIds l i) = [0] ∧
     s.needed 0 = true ∧ (clustersIn (s.heldIds fun _ i => !i.provisional)).contains 0 = false ∧ (clustersIn (s.heldIds fun _ x => decide (1 < x.idx))).contains 0 = false) ∧
    (let i := inst0 .runProv [(0, 0, 1)]
     let s := { launchState (launch0 [i]) with others := [{ Core.reset 1 with tasks := { Tasks.reset with wait := .exited } }] }
     (s.pick (i.cores.map fun x => x.2.2)).all Core.finished = true ∧ s.tileTab = []) ∧
    (let i := inst0 .waitProv []
     let s := launchState (launch0 [i])
     (∀ x ∈ (launch0 [i]).insts, x.unplaced img0 ≠ [] → x.st ≠ .waitDef ∧ (x.st = .waitProv → i.idx ≤ x.idx)) ∧
     (s.placeGangs 0 (s.clusterOrder (launch0 [i]) true) (i.unplaced img0) (s.heldIds fun _ _ => true)).2 = []) := by decide +kernel

/-! ### Queues (R298 to R304, R415 to R418) -/

/-- A queue of partition 0 whose record is at address 0 and whose ring is at 256, with one packet. -/
def queue0 (n : Nat) (st : QState) (res : Bool) (wr : Nat) : Queue :=
  { part := 0, num := n, recKey := 0, ring := 256#64, lsz := 4, prio := 0, tol := 0, tmo := 1, rd := 0, wr := wr, st := st, res := res, cause := 0#8,
    pkt := 0, wsig := 0#64, raised := 0, asid := 0#16, since := 0, paused := 0 }
def queueState (q : Queue) (packet : Nat) : State :=
  withMem 256 ((natBytes packet 64).map BitVec.toNat) { State.reset with queues := [q], images := [img0] }
/-- The packet that the queue takes is this one. -/
def takes (q : Queue) (p : Nat) : Bool :=
  match (queueState q p).nextPacket 0 q.num with | (_, some (x, y, _)) => x == q && y == p | _ => false
/-- The record of a new queue: ring 4096, LSZ 4, TMO 1. -/
def qrec0 : Nat := 4096 + 4 * 2 ^ 64 + 2 ^ 88

theorem test_launch_packet : let t := run (.launchPacket 0 1) (withMem (512 + 4) [1] (queueState (queue0 1 .ready true 1) (1 + 512 * 2 ^ 64)))
    t.launches.map Launch.floor = [1] ∧ t.queues.map Queue.rd = [1] ∧ memNat t.mem 16 8 = 1 := by decide +kernel
theorem test_wait_packet : let t := run (.waitPacket 0 1) (queueState (queue0 1 .ready true 1) (2 + 1024 * 2 ^ 64 + 5 * 2 ^ 128))
    t.queues.map Queue.st = [.waiting] ∧ t.queues.map Queue.wsig = [1024#64] := by decide +kernel
theorem test_signal_packet : memNat (run (.signalPacket 0 1) (queueState (queue0 1 .ready true 1) (3 + 1024 * 2 ^ 64 + 5 * 2 ^ 128 + 2 ^ 192))).mem 1024 8 = 5 := by
  decide +kernel
theorem test_packet_reserved : (run (.waitPacket 0 1) (queueState (queue0 1 .ready true 1) (2 + 2 ^ 8))).queues.map (fun q => (q.st, q.cause)) = [(.error, 1#8)] := by
  decide +kernel
theorem test_rllimit : let t := run (.rllimit 0) (queueState (queue0 65535 .ready true 1) (7 + 100 * 2 ^ 64 + 1024 * 2 ^ 192))
    t.rllim = 100#11 ∧ t.queues.map Queue.rd = [1] := by decide +kernel

theorem wit_QueuesTakePackets :
    ((queueState (queue0 1 .ready true 1) 1).mem.wf = true ∧ (queueState (queue0 1 .ready true 1) 1).queueAt 0 1 = some (queue0 1 .ready true 1) ∧
      (queueState (queue0 1 .idle false 1) 1).queueAt 0 1 = some (queue0 1 .idle false 1)) ∧
    (let q := queue0 1 .ready true 1
     takes q (1 + 2 ^ 10) = true ∧ onlyFields (1 + 2 ^ 10) [(0, 9), (64, 64)] = false ∧ onlyFields (1 + 2 ^ 10) [(0, 8), (64, 128), (192, 4)] = false ∧
     takes q 9 = true ∧ takes q (1 + 512 * 2 ^ 64) = true ∧ onlyFields (1 + 512 * 2 ^ 64) [(0, 9), (64, 64)] = true ∧
     takes q (2 + 1024 * 2 ^ 64) = true ∧ onlyFields (2 + 1024 * 2 ^ 64) [(0, 8), (64, 128), (192, 4)] = true ∧
     takes q (3 + 1024 * 2 ^ 64 + 2 ^ 192) = true ∧ onlyFields (3 + 1024 * 2 ^ 64 + 2 ^ 192) [(0, 8), (64, 128), (192, 4)] = true) ∧
    (let s := withMem (512 + 4) [1] (queueState (queue0 1 .ready true 1) (1 + 512 * 2 ^ 64))
     (match s.frontRead 0 0#16 512 64 true with | (_, .ok (r, _)) => s.lrCode 0 0#16 r == none && lrSrc r == 0 && s.lrCode 0 0#16 (2 ^ 31) == some 0x21 | _ => false) = true ∧
     (match s.frontRead 0 0#16 1024 8 false with | (_, .ok (v, _)) => v == 0 | _ => false) = true ∧
     (match (s.asFront 0 0#16 fun s => (s, s.frontRuns 1024 8 false true)).2 with | .ok rs => rs == [(1024, 8)] | _ => false) = true ∧
     ((∀ x ∈ s.queues, 1024 + 8 ≤ x.recKey ∨ x.recKey + 128 ≤ 1024) ∧ ∀ j < 8, s.fgByte (1024 + j) = false)) ∧
    ({ queue0 1 .waiting true 1 with wsig := 1024#64 }.st = .waiting ∧ { queue0 1 .waiting true 1 with wsig := 1024#64 }.wsig ≠ 0#64 ∧
      (queue0 1 .running true 1).st ≠ .idle ∧ (queue0 1 .error false 1).st = .error) ∧
    -- control packets with their result word at address 1024
    (let q := queue0 controlQueue .ready true 1
     takes q (4 + 2 ^ 64 + 1024 * 2 ^ 192) = true ∧ takes q (5 + 7 * 2 ^ 64 + 2048 * 2 ^ 128 + 1024 * 2 ^ 192) = true ∧ takes q (6 + 2048 * 2 ^ 64 + 1024 * 2 ^ 192) = true ∧
     takes q (7 + 100 * 2 ^ 64 + 1024 * 2 ^ 192) = true ∧ takes q (8 + 2048 * 2 ^ 64 + 1024 * 2 ^ 192) = true ∧
     onlyFields (4 + 2 ^ 64 + 1024 * 2 ^ 192) [(0, 8), (192, 64), (8, 2), (64, 16), (128, 64)] = true ∧ bits (4 + 2 ^ 64 + 1024 * 2 ^ 192) 8 2 < 2 ∧
     (let s := { queueState q 0 with queues := [q, queue0 1 .error false 1, queue0 2 .idle false 0] }
      s.queueAt 0 5 = none ∧ (s.queueAt 0 1).map Queue.st = some .error ∧ (s.queueAt 0 2).map Queue.st = some .idle ∧ 0 ≤ memNat s.mem (0 + 24) 8) ∧
     (let s := withMem 2048 ((natBytes qrec0 16).map BitVec.toNat) (queueState q (5 + 7 * 2 ^ 64 + 2048 * 2 ^ 128 + 1024 * 2 ^ 192))
      (match (s.asFront 0 (s.queueContext 0) fun s => (s, s.frontRuns 2048 128 true true)).2 with | .ok rs => rs == [(2048, 128)] | _ => false) = true ∧
      qrecOk (memNat s.mem 2048 128) = true ∧ qrecOk 0 = false ∧ s.queueAt 0 7 = none) ∧
     (let s := queueState q 0
      s.seqs = [] ∧ s.scrQ = [] ∧ s.blockOk 0 0xFFFF000000000000 = true ∧ s.blockOk 0 1 = false ∧ bits 0xFFFF000000000000 192 11 = 0 ∧ s.split = false ∧
      s.peerOk 0 (2 ^ 13 + 2 ^ 16) = true ∧ s.peerOk 0 (2 ^ 13) = false)) := by
  refine ⟨?_, ?_, ?_, ?_, ?_⟩ <;> decide +kernel
/-- The result word's runs do not depend on what memory holds: address 1024 without translation. -/
theorem wit_resultWord : let q := queue0 controlQueue .ready true 1
    let s := queueState q 0
    ∀ u : State, u.partmap = s.partmap → u.images = s.images → u.core = s.core → u.others = s.others →
      (u.asFront 0 q.asid fun s => (s, s.frontRuns 1024 8 false true)).2 = .ok [(1024, 8)] := by
  intro q s u h1 h2 h3 h4
  cases u; cases h1; cases h2; cases h3; cases h4; rfl

/-! ### Speculation (R318 to R344) -/

/-- Partition 0's block: windows at the start of the chip scratchpad, one ring slot and its (F, G) word in die B's part. -/
def blockState (s : State) : State := { s with blocks := s.blocks.set 0 (.ofNat 256 (chipBase + (chipBase + 0x4000000) * 2 ^ 64 + (chipBase + 0x4020000) * 2 ^ 128 + 2 ^ 192)) }
def ringAddr : Nat := chipBase + 0x4000000
def ringKey : Nat := keyChip 0x4000000
def fgKey0 : Nat := keyChip 0x4020000
def seq0 : Nat := 100 * 2 ^ 128 + 50 * 2 ^ 160 + 2 * 2 ^ 240 + 4 * 2 ^ 245
def regionState (o : RegionOp) : State := (blockState State.reset).modPort fun p => { p with region := [o] }

theorem test_pqpush_word : trapOf (.pqpush (.reg 1) (.reg 2)) (gs [(2, 2 ^ 18)]) = (1#8, 0#64) := by decide
theorem test_pqtake_empty : ((run (.pqtake .queue ⟨1#6, 0#2⟩) State.reset).core.port.landings.map Landing.val) = [some 0#1024] := by decide +kernel
theorem test_depth_fields : ((run (.depth .queue (.reg 1) ⟨1#6, 0#2⟩) { State.reset with seqs := [(0, .ofNat 512 seq0)] }).core.port.landings.map fun l => l.val.map BitVec.toNat) =
    [some 0x402] := by decide +kernel
theorem test_vstv_position : (trapOf (.vstv (.reg 1) (.reg 1) (.reg 2) 0) (blockState (gs [(1, ringAddr + 1024), (2, 5)]))).1 = 1#8 := by decide +kernel
theorem test_part_write : let t := run .draftPartWrite (regionState (.vstv 0 0 ringKey fgKey0 3#32 (some 0#32) [(1, [7#8, 0#8, 0#8, 0#8])]))
    memNat t.mem (ringKey + 4) 4 = 7 ∧ t.tags = [(ringKey / 128, 3#32, 0#32)] := by decide +kernel
theorem test_sqcfg_code : State.reset.sqcfgCode 0 0 0 = some 0x30 ∧ State.reset.sqcfgCode 0 0 seq0 = none := by decide +kernel

/-- A sequence at position 5 whose sampler takes the largest logit, a proposal of token 7 at position 6 with its record, whose winner is 7, and the
record of position 7, whose winner is 9; a round of one entry, its word as given. -/
def seqRow : Nat := 5 * 2 ^ 96 + 100 * 2 ^ 128 + 50 * 2 ^ 160 + 0x8000 * 2 ^ 224 + 2 * 2 ^ 240 + 4 * 2 ^ 245 + 2 ^ 256 + 2 ^ 288
def proposal : List (Nat × Nat) :=
  [(0, 7), (4, 6), (8, 7), (14, 128), (15, 63)] ++ (List.range 120).map fun i => (16 + 8 * (i / 4) + i % 4, 255)
def doneRecord (pos draw win : Nat) : List (Nat × Nat) := [(12, pos), (16, 100), (20, 50), (28, 128 + draw), (64, win), (128, 7)]
def cellsAt (k : Nat) (bs : List (Nat × Nat)) : Mem := bs.map fun c => (k + c.1, .ofNat 8 c.2)
def roundState (word : List (Nat × Nat)) : State :=
  grantedAt 5 [2 ^ 64] { blockState State.reset with
    mem := cellsAt 64 [(1, 4), (8, 1)] ++ cellsAt 128 word ++ cellsAt 2048 (doneRecord 6 5 7) ++ cellsAt 3072 (doneRecord 7 2 9) ++ cellsAt (keyChip 1536) proposal,
    scrQ := [.round 0 0 64#64 (keyChip 0) job1 0 none []], seqs := [(0, .ofNat 512 seqRow)] }
def entryWord1 : List (Nat × Nat) := [(1, 16), (9, 8)]
def roundWord1 : Nat := 2 ^ 12 + 2048 * 2 ^ 64
def cellsNat (bs : List (Nat × Nat)) : Nat := (bs.map fun c => c.2 * 256 ^ c.1).sum

/-- The token is the target's, and the bonus token of position 7 follows: outcome 0, one accepted, front and generation as R199 has them. -/
theorem test_round_accepts : let j := judge seqRow 1 [cellsNat proposal] [cellsNat (doneRecord 6 5 7), cellsNat (doneRecord 7 2 9)]
    let t := State.reset.seqAfter seqRow 1 false [cellsNat proposal] j
    j.acc = 1 ∧ j.token = 9 ∧ j.code = 0 ∧ sqPosc t = 7 ∧ bits t 384 32 = 7 ∧ sqGen t = 1 ∧ sqStatus t = 1 ∧
      rollbackWord 0 t = .ofNat 64 (7 * 2 ^ 16 + 2 ^ 48 + 2 ^ 63) := by decide +kernel

/-- Cells elsewhere say nothing of the bytes of a range. -/
theorem bytesAt_low (a b : Mem) (ks : List Nat) (h : ∀ k ∈ ks, k < 2 ^ 32) (hb : (b.all fun c => decide (2 ^ 32 ≤ c.1)) = true) :
    bytesAt (a ++ b) ks = bytesAt a ks := by
  refine List.map_congr_left fun k hk => ?_
  have hk := h k hk
  induction a with
  | nil =>
    induction b with
    | nil => rfl
    | cons c b ih =>
      simp only [List.all_cons, Bool.and_eq_true, decide_eq_true_eq] at hb
      have := ih hb.2
      simp only [List.nil_append] at this ⊢
      show cget _ (c :: b) k = _
      rw [show cget 0#8 (c :: b) k = if k = c.1 then c.2 else cget 0#8 b k from rfl, if_neg (by omega)]
      exact this
  | cons c a ih =>
    show (if k = c.1 then c.2 else cget 0#8 (a ++ b) k) = if k = c.1 then c.2 else cget 0#8 a k
    split
    · rfl
    · exact ih
theorem runKeys_low (k n : Nat) (h : k + n ≤ 2 ^ 32) : ∀ x ∈ runKeys [(k, n)], x < 2 ^ 32 := by
  intro x hx
  simp only [runKeys, List.map_cons, List.map_nil, List.flatten_cons, List.flatten_nil, List.append_nil, List.mem_map, List.mem_range] at hx
  omega
theorem round_rec0 : bytesNat (bytesAt (roundState entryWord1).mem (runKeys [(2048, 1024)])) = cellsNat (doneRecord 6 5 7) := by
  rw [show (roundState entryWord1).mem = _ ++ cellsAt (keyChip 1536) proposal from rfl, bytesAt_low _ _ _ (runKeys_low 2048 1024 (by decide)) (by decide +kernel)]
  decide +kernel
theorem round_rec1 : bytesNat (bytesAt (roundState entryWord1).mem (runKeys [(3072, 1024)])) = cellsNat (doneRecord 7 2 9) := by
  rw [show (roundState entryWord1).mem = _ ++ cellsAt (keyChip 1536) proposal from rfl, bytesAt_low _ _ _ (runKeys_low 3072 1024 (by decide)) (by decide +kernel)]
  decide +kernel
theorem round_facts (rec0 rec1 pe0 : Nat) (h0 : rec0 = cellsNat (doneRecord 6 5 7)) (h1 : rec1 = cellsNat (doneRecord 7 2 9)) (hp : pe0 = cellsNat proposal) :
    let s := roundState entryWord1
    let T := s.seqAt 0
    pePos pe0 = 6 ∧ peTok pe0 = 7 ∧
    (rcDone rec0 = true ∧ rcSeed rec0 = sqSeed T ∧ rcSeq rec0 = sqSeqid T ∧ rcTemp rec0 = sqTemp T ∧ rcPos rec0 = 6 ∧ rcDraw rec0 = 1 ∧ bits rec0 512 32 = 7) ∧
    (rcDone rec1 = true ∧ rcPos rec1 = 7 ∧ rcDraw rec1 = 2 ∧ rcNcap rec1 = 0 ∧ bits rec1 512 32 = 9) ∧ badList pe0 rec0 = false ∧
    (keptOf rec0).nan = 0 ∧ (keptOf rec1).nan = 0 ∧ peTok pe0 < rcVb rec0 ∧ rcVb rec0 ≤ rcVsz rec0 := by
  rw [h0, h1, hp]; decide +kernel
theorem wit_RoundsThatAreProcessed :
    let s := roundState entryWord1
    let u := s.asIssued job1
    let T := s.seqAt 0
    let rec0 := bytesNat (bytesAt s.mem (runKeys [(2048, 1024)]))
    let rec1 := bytesNat (bytesAt s.mem (runKeys [(3072, 1024)]))
    let pe0 := memNat s.mem (s.windowKey 0 0 6) 256
    ((u.engineGate 5 (job1.part 1) ((keyChip 0, 16) :: (u.roundRuns 0 64 0 none).1 ++ (u.roundRuns 0 64 0 none).2)).2 = true ∧ s.inSlice 0 0 = true ∧
      sqStatus T = 1 ∧ bits roundWord1 18 46 = 0 ∧ bits roundWord1 128 128 = 0 ∧ bits roundWord1 12 5 = 1 ∧ 1 ≤ sqDmax T ∧ roundWord1.testBit 17 = false ∧
      (match u.recordRuns 2048 false, u.recordRuns 3072 false with | .ok a, .ok b => a == [(2048, 1024)] && b == [(3072, 1024)] | _, _ => false) = true ∧
      cwf 0#512 s.seqs = true ∧ (tempScale (sqTemp T)) = some none ∧ sqDsp T = 0 ∧ (s.coreAt (sqDcore T)).isSome = true ∧
      keysOk s (runKeys [(1024, 64)]) (keyChip 0) = true) ∧
    pePos pe0 = 6 ∧ peTok pe0 = 7 ∧
    (rcDone rec0 = true ∧ rcSeed rec0 = sqSeed T ∧ rcSeq rec0 = sqSeqid T ∧ rcTemp rec0 = sqTemp T ∧ rcPos rec0 = 6 ∧ rcDraw rec0 = 1 ∧ bits rec0 512 32 = 7) ∧
    (rcDone rec1 = true ∧ rcPos rec1 = 7 ∧ rcDraw rec1 = 2 ∧ rcNcap rec1 = 0 ∧ bits rec1 512 32 = 9) ∧ badList pe0 rec0 = false ∧
    (keptOf rec0).nan = 0 ∧ (keptOf rec1).nan = 0 ∧ peTok pe0 < rcVb rec0 ∧ rcVb rec0 ≤ rcVsz rec0 :=
  ⟨by decide +kernel, round_facts _ _ _ round_rec0 round_rec1 (by decide +kernel)⟩
theorem wit_SpeculationQueuesAndRegion :
    (let s := blockState (gs [(1, spadBase), (2, 2 ^ 12), (3, 2 ^ 18), (4, 8), (5, 2 ^ 48 - 64), (6, laneBase), (7, 4096)])
     (urgent s).core.urg = true ∧ s.core.urg = false ∧ s.core.prov = false ∧ s.inSlice 0 0 = true ∧ s.inSlice 0 4096 = false ∧ 2 ^ 12 / 2 ^ 18 = 0 ∧ bits (2 ^ 12) 12 5 = 1 ∧
     s.window s.core spadBase 256 = some (.spad, 0) ∧ s.window s.core (2 ^ 48 - 64) 256 = none ∧ s.window s.core laneBase 256 = some (.lane, 0) ∧ s.mayReserve = true ∧
     s.core.engineFree s.core.port.seq s.core.unf = true ∧ ({ s with waiters := [(0, 7)] } : State).mayReserve = false ∧ s.landingRoom = true ∧ (fullLandings s).landingRoom = false ∧
     s.lockedRuns [(s.keyOf s.core .spad 0, 256)] = false ∧ (s.modFlow fun f => { f with hold := some ⟨1#16, [0]⟩ }).lockedRuns [(s.keyOf s.core .spad 0, 256)] = true ∧
     (withSched ⟨3, 0, 0, .store []⟩ s).core.engineFree s.core.port.seq s.core.unf = false ∧
     s.core.earlierDone = true ∧ s.ready = [] ∧ s.core.port.landings = [] ∧ s.core.port.reply = none ∧ s.scrQ = []) ∧
    (let s := blockState State.reset
     ringAddr % 128 = 0 ∧ s.ringPart ringAddr = some (ringKey, fgKey0, 0) ∧ s.ringPart chipBase = none ∧ ¬ (0 % 128 ≠ 0 ∨ 2 ^ 32 - 1 ≤ 0) ∧ 1 % 128 ≠ 0) ∧
    (let s := State.reset
     s.window s.core 64 64 = some (.global, 64) ∧ (match s.checkKey .global 64 false false with | .ok k => k == 64 | _ => false) = true ∧
     (match s.checkObj chipBase with | .ok (.chip, k) => k == keyChip 0 | _ => false) = true ∧ Win.global.scheduled = false ∧ Win.spad.scheduled = true ∧
     s.window s.core spadBase 64 = some (.spad, 0) ∧
     64 ≤ (({ s with scrQ := List.replicate 64 (.round 0 0 64#64 0 job0 0 none []) } : State).scrQ.filter fun z => match z with | .round .. => true | _ => false).length) ∧
    (let s := { blockState State.reset with posts := [⟨0, [⟨keyChip 0, List.replicate 256 1#8⟩], 0#64, 0⟩] }
     (∀ z ∈ [(⟨keyChip 0, List.replicate 256 1#8⟩ : StorePiece)], isCohKey z.key = true) ∧ (runKeys [(keyChip 0, 256)]).length = 256 ∧
     ((runKeys [(keyChip 0, 256)]).all fun k => !s.fgByte k) = true ∧ s.posts.length = 1) ∧
    (let s := regionState (.vstv 0 0 ringKey fgKey0 3#32 (some 0#32) [(1, [7#8, 0#8, 0#8, 0#8])])
     (0#32).toNat = memNat s.mem (fgKey0 + 4) 4 ∧ (1#32).toNat ≠ memNat s.mem (fgKey0 + 4) 4 ∧ ringKey % 128 = 0 ∧ (∀ j < 128, s.fgByte (ringKey + j) = false) ∧
     ((3#32, 0#32) : BitVec 32 × BitVec 32) ≠ noTag) ∧
    ((let s := withLanding (land (.vldv .queue 0) none) (regionState (.vldv 0 0 ringKey fgKey0 3#32))
      s.core.port.landings = [land (.vldv .queue 0) none] ∧ (land (.vldv .queue 0) none).issue = 0 ∧ (land (.vldv .queue 0) none).slot = 0 ∧
      s.core.port.relBefore (fun z => decide (z.issue < 0) || (z.issue == 0 && decide (z.slot < 1))) = false ∧
      (withCoh (.store [] true) s).core.port.relBefore (fun z => decide (z.issue < 0) || (z.issue == 0 && decide (z.slot < 1))) = true)) ∧
    (let s := { State.reset with scrQ := [.config 0 0 5 64#64 job0 []] }
     (match s.extentRuns 64 64 false with | .ok rs => rs == [(64, 64)] && (s.engineGate 5 job0 rs).2 | _ => false) = true ∧ s.sqcfgCode 0 5 0 = some 0x30 ∧ s.sqcfgCode 0 5 seq0 = none ∧
     cwf 0#512 s.seqs = true ∧ sqDcore (s.seqAt 5) = s.core.name ∧ sqDsp seq0 = 0) ∧
    (let s := grantedAt 5 [2 ^ 64] { State.reset with scrQ := [.round 0 0 64#64 (keyChip 0) job1 0 none []] }
     let u := s.asIssued job1
     s.core.engineFree 0 0 = true ∧ s.core.port.objBefore (keyChip 0) job1 = false ∧ job1.clock ≠ none ∧ (match u.headerOf 64 none with | .fault _ => true | _ => false) = true ∧
     (u.engineGate 5 (job1.part 1) ((keyChip 0, 16) :: (u.roundRuns 0 64 0 none).1 ++ (u.roundRuns 0 64 0 none).2)).2 = true ∧
     (match s.roundWord 64 0 with | .bad => false | _ => true) = true) ∧
    (let s := roundState [(1, 4)]
     let u := s.asIssued job1
     (u.engineGate 5 (job1.part 1) ((keyChip 0, 16) :: (u.roundRuns 0 64 0 none).1 ++ (u.roundRuns 0 64 0 none).2)).2 = true ∧
     (match u.headerOf 64 none with | .ok x => x == (1024, 1) | _ => false) = true ∧ (match u.roundWord 64 0 with | .ok w => w == 1024 | _ => false) = true ∧
     sqStatus (s.seqAt 0) = 1 ∧ 0 < sqDmax (s.seqAt 0) ∧ bits 1024 12 5 = 0 ∧
     (match u.extentRuns 1024 64 true with | .ok rs => rs == [(1024, 64)] && keysOk s (runKeys rs) (keyChip 0) | _ => false) = true) := by
  refine ⟨?_, ?_, ?_, ?_, ?_, ?_, ?_, ?_, ?_⟩ <;> decide +kernel

/-! ### Translation control and pre-emption (R365 to R381) -/

/-- A released instance on core 1 that allows pre-emption, seen from the firmware core 0. -/
def victimState (f : Core → Core) : State :=
  { State.reset with
    others := [f { Core.reset 1 with fw := false, launch := some (0, 0), exc := { (Core.reset 1).exc with level := 0#2, allow := true } }]
    launches := [launch0 [⟨0, .runDef, [(0, 0, 1)], true, [], [], none, [], false⟩]]
    images := [{ img0 with gangs := [{ gang0 with urgent := true }] }] }
/-- The same with core 1 in focus. -/
def onVictim (f : Core → Core) : State := (victimState f).focus 1
/-- Its urgent launch in slot 1 and its pre-emption. -/
def urgLaunch (i : Inst) : Launch := { launch0 [i] with slot := 1, qnum := 65536, urgent := some 1 }
def preempted (released done : Bool) (i : Inst) (f : Core → Core) : State :=
  { onVictim f with launches := [launch0 [⟨0, .runDef, [(0, 0, 1)], true, [], [], none, [], false⟩], urgLaunch i], preempts := [⟨[1], 1, released, done, 0, none, some 0⟩] }
def stoppedCore (c : Core) : Core := { c with stopped := true }
/-- The urgent context on core 1, ended. -/
def urgEnded (s : State) : State :=
  { s with others := { Core.reset 1 with urg := true, fw := false, launch := some (1, 0), tasks := { Tasks.reset with wait := .exited } } :: s.others }

theorem test_tlbi_priv : trapOf .tlbiAll (lvl 0 State.reset) = (2#8, 0#64) := by decide +kernel
theorem test_lockw : let t := run (.lockw .queue (.reg 1)) (gs [(1, 6)])
    t.ways = 6 ∧ outS (.lockw .queue (.reg 1)) (gs [(1, 6)]) = some 0#64 := by decide +kernel
theorem test_prmt : let s := (recBytes (victimState id)).modRegs fun r => { r with g := (r.g.set 1 1#64).set 2 512#64 }
    outS (.prmt .queue (.reg 1) (.reg 2)) s = some 0#64 ∧ (run (.prmt .queue (.reg 1) (.reg 2)) s).preempts = [⟨[1], 1, false, false, 0, none, some 0⟩] := by decide +kernel
theorem test_rsum_none : outS (.rsum .queue (.reg 1)) (gs [(1, 1)]) = some 0x8000000000000055#64 := by decide +kernel

theorem wit_TranslationControlAndPreemption :
    (let s := gs [(1, 2 ^ 48), (2, 0), (3, 2 ^ 20), (4, 7), (5, 0x7FF)]
     (lvl 0 s).level = 0 ∧ 1 ≤ s.level ∧ (if s.split then 2 else 1) ≤ s.level ∧ s.tlbiAsidOk 0 = true ∧ s.tlbiAsidOk (2 ^ 20) = false ∧ s.fencePending .package true = false ∧
     (dueStore.modCore fun c => { c with unf := 1 }).fencePending .package true = true ∧ (s.cores.map Core.name).Nodup ∧
     (∀ k ∈ s.cores, k.port.cohQ = [] ∧ k.port.comQ = [] ∧ ∀ j ∈ k.port.cq0 ++ k.port.cq1, j.moved = 0) ∧ s.launches = [] ∧ s.tileTab = [] ∧
     (let m := { Core.reset 1 with port := { (Core.reset 1).port with cq0 := [{ copyJob cpyOp with moved := 64 }] } }
      s.tlbiScope m = true ∧ (m.port.cq0.map CopyJob.moved) = [64]) ∧ (s.coreAt 1024).isSome = true ∧ s.core.prov = false ∧ 6 < 7 ∧
     s.victimCore 0x7FF = none ∧ s.victimCore 1 = some 1 ∧ s.preemptOf 1 = none ∧
     ({ s with ways := 6, tileTab := [⟨false, 0, 0, job0, 0#512, none, none, [], [], [2048 * 3], []⟩] } : State).ways = 6 ∧ 2048 * 3 ≤ 2048 * 3) ∧
    (let s := recBytes (victimState id)
     s.bad = [] ∧ s.flips = [] ∧ (match s.checkCoh 512 64 false false with | .ok k => k == 512 | _ => false) = true ∧ s.prmtCode 0 (memNat s.mem 512 64) 1 = none ∧
     s.prmtCode 0 (2 ^ 31) 1 = some 0x21 ∧ s.victims 1 = [1] ∧ (s.coreAt 1).isSome = true ∧ (s.cores.map Core.name).Nodup) ∧
    (let s := preempted false false (inst0 .waitDef []) id
     s.preemptOf 1 = some ⟨[1], 1, false, false, 0, none, some 0⟩ ∧ (∀ k ∈ s.pick [1], k.exc.active = false) ∧
     ((preempted true false (inst0 .runDef []) fun c => { c with exc := { c.exc with active := true } }).pick [1]).map (fun k => k.exc.active) = [true] ∧
     (preempted false true (inst0 .complete []) id).preemptOf 1 = some ⟨[1], 1, false, true, 0, none, some 0⟩) ∧
    (let s := onVictim fun c => { c with exc := { c.exc with pend := true } }
     s.core.exc.pend = true ∧ s.core.stopped = false ∧ s.core.urg = false ∧ (s.cores.map Core.name).Nodup ∧ s.gang = [1] ∧ State.reset.core.exc.pend = false ∧
     ∀ k ∈ s.pick s.gang, k.flow.lock = none ∧ k.trapFrozen = false ∧ k.exc.shadow = none ∧ k.exc.entering = none) ∧
    (let s := preempted false false (inst0 .waitDef []) stoppedCore
     let l := urgLaunch (inst0 .waitDef [])
     s.preemptOf s.core.id = some ⟨[1], 1, false, false, 0, none, some 0⟩ ∧ s.launchAt 1 = some l ∧ (l.insts.find? fun i => i.st == .waitDef) = some (inst0 .waitDef []) ∧
     (s.imageOf l.part l.asid l.image).map Image.gangs = some [{ gang0 with urgent := true }] ∧ l.urgent ≠ none ∧ l.pbo = 0#64 ∧ s.core.id = 1 ∧
     (∀ k ∈ s.pick [1], k.stopped = true ∧ k.ctl.vcore.toNat < 1 * 1) ∧ s.core.id < 65536 ∧ (s.cores.map Core.name).Nodup) ∧
    (let i := inst0 .runDef [(0, 0, 65537)]
     let s := urgEnded (preempted true false i fun c => { stoppedCore c with exc := { c.exc with active := true } })
     let l := urgLaunch i
     s.launchAt 1 = some l ∧ l.insts = [i] ∧ s.core.urg = false ∧ l.done = 0#64 ∧ l.src = 0 ∧ l.parent = none ∧ s.queueAt l.part l.qnum = none ∧
     (∀ z ∈ s.launches, z.parent ≠ some 1) ∧ (s.cores.map Core.name).Nodup ∧ s.preempts = [⟨[1], 1, true, false, 0, none, some 0⟩] ∧
     ((s.coreAt 65537).map Core.finished) = some true) ∧
    (let l := urgLaunch (inst0 .waitDef [])
     let s := { preempted false false (inst0 .waitDef []) stoppedCore with launches := [launch0 [], { l with insts := [] }] }
     s.preemptOf 1 = some ⟨[1], 1, false, false, 0, none, some 0⟩ ∧ s.launchAt 1 = some { l with insts := [] } ∧ l.done = 0#64 ∧ l.parent = none ∧
     s.queueAt l.part l.qnum = none ∧ s.preempts = [⟨[1], 1, false, false, 0, none, some 0⟩] ∧ ∀ k ∈ s.pick [1], k.stopped = true) ∧
    (let s := onVictim stoppedCore
     s.core.launch = some (0, 0) ∧ (s.instOf s.core).map Inst.restored = some none ∧ (s.pick [1]).map Core.settled = [true] ∧ s.tileTab = [] ∧ s.scrQ = [] ∧
     ((onVictim fun c => { stoppedCore c with port := { c.port with cq0 := [copyJob cpyOp] } }).pick [1]).map Core.settled = [false]) ∧
    (let v : Saved := ⟨[stoppedCore { Core.reset 1 with launch := some (0, 0) }], [], [], [(keySpad 1 0, 5#8)], [], [], [], false⟩
     let s := { State.reset with saved := [v] }
     v.mem.wf = true ∧ s.mem.wf = true ∧ (v.cores.map Core.name).Nodup ∧ (s.cores.map Core.name).Nodup ∧ (∀ z ∈ v.mem, ownKey [1] z.1 = true) ∧
     1 ∉ s.heldIds (fun _ _ => true) ∧ s.loadable 1 = true ∧ s.coreAt 1 = none ∧
     -- another instance has its core: it waits, or goes to the next core that R68 gives it
     ({ s with launches := [launch0 [inst0 .waitDef [(0, 0, 1)]]] } : State).restorePlace v = none ∧
     ({ s with launches := [launch0 [inst0 .waitDef [(0, 0, 1)]]], images := [img0] } : State).restorePlace v = some [(1, 2)]) := by
  refine ⟨?_, ?_, ?_, ?_, ?_, ?_, ?_, ?_, ?_⟩ <;> decide +kernel

/-! ### Recovery, boot, management (R23, R24, R384 to R398) -/

def bootState (f : Boot → Boot) : State := { State.reset with boot := f State.reset.boot }
/-- A flipped bit of bank 3 of row 0 of core 1's scratchpad. -/
def flipState : State := { State.reset with flips := [(symKey (keySpad 1 0) 3 5, 1#8)] }
def fwImage0 : FwImage := ⟨0#4096, []⟩
/-- The reset state, booted, with `sub q, g2, g5` at its program counter. -/
def fetchState : State := State.reset.withFetchWord 32 0x03F11401

theorem test_bank_fail : let t := run (.bankFailMark (.spad 1) 3) State.reset
    t.repairs.map (fun r => (r.failed, r.spare)) = [([3], some 3)] ∧ t.logV.map ErrRec.cls = [1#4] := by decide +kernel
theorem test_scrub_fixes : (run (.scrubRow (.spad 1) 0) flipState).flips = [] := by decide +kernel
theorem test_clock_limit : (run (.clockChange true) State.reset).boot.clockMHz = 2500 := by decide
theorem test_host_write : memGet (run (.hostWrite 7 [9#8]) State.reset).mem 7 = 9#8 := by decide +kernel

theorem wit_RecoveryBootAndManagement :
    (let r := State.reset.repairFor (.spad 1)
     hasSpare (.spad 1) = true ∧ hasSpare (.lanes 1) = false ∧ 3 < 18 ∧ 3 ∉ r.failed ∧ r.spare = none ∧
     (let s := { State.reset with repairs := [⟨.spad 1, [], [3], some 3, 1023⟩] }
      s.banksFree (.spad 1) = true ∧ ({ s with busy := [(bankKey ((RowStore.spad 1).base / 2 ^ 22, 0), 3)] } : State).banksFree (.spad 1) = false ∧
      (s.repairFor (.spad 1)).spare ≠ none ∧ (s.repairFor (.spad 1)).pointer < (RowStore.spad 1).rows) ∧ (RowStore.spad 1).rows ≤ 1024 ∧
     State.reset.decodeRow (keySpad 1 0) = .clean ∧ State.reset.bad = [] ∧ flipState.decodeRow (keySpad 1 0) = .fixed 3) ∧
    (hbmSize < hbmSize + 1 ∧ hbmSize - 1 + 1 ≤ hbmSize ∧ State.reset.mem.wf = true ∧ State.reset.fgByte (hbmSize - 1) = false ∧ State.reset.flips = [] ∧
     ¬ Win.chip.base + 1 ≤ hbmSize ∧ Win.chip.base + 1 ≤ Win.chip.base + 2 ^ 28 ∧ ¬ Win.chip.base ≤ hbmSize ∧ State.reset.fgByte (keyChip 0) = false) ∧
    (fetchState.betweenBundles = true ∧ ({ fetchState with core := { fetchState.core with lost := 1 } } : State).betweenBundles = false ∧
     (({ State.reset with boot := { State.reset.boot with wants := some 2375 } } : State).boot.wants.getD 0) = 2375) ∧
    (let b := State.reset.boot
     b.pending = true ∧ b.power = true ∧ b.thermal = false ∧ b.kept = [] ∧ State.reset.core.fw = true ∧ (bootState fun b => { b with pending := false }).boot.pending = false ∧
     b.recovery = false ∧ (bootState fun b => { b with recovery := true }).boot.recovery = true ∧ fwVerified b.svn fwImage0 = false) ∧
    (let s := bootState fun b => { b with pending := false, slotA := some ⟨.ofNat 4096 (7 * 2 ^ 96), []⟩ }
     (let m := { s.core with exc := { s.core.exc with level := 2#2, plvl := 1#2, cause := 0xC#8, shadow := (run (.trap 5#17) State.reset).core.exc.shadow } }
      m.inMonitor = true ∧ s.core.inMonitor = false) ∧
     (bootState fun b => { b with update := some ⟨fwImage0, true, .write⟩ }).boot.update.map (fun u => u.stage) = some .write ∧
     (bootState fun b => { b with update := some ⟨fwImage0, true, .verify⟩, slotB := some fwImage0 }).boot.slotImg true = some fwImage0 ∧
     (bootState fun b => { b with update := some ⟨fwImage0, true, .mark⟩, recovery := true }).boot.update.map (fun u => u.stage) = some .mark ∧
     s.boot.svn.toNat < (7#32).toNat ∧ (7#32).toNat ≤ ((if s.fwslot.getLsbD 0 then s.boot.slotB else s.boot.slotA).map fun i => bits i.hdr.toNat 96 32).getD 0) ∧
    (State.reset.keyctl.getLsbD 0 = false ∧ ({ State.reset with keyctl := 1#64 } : State).keyctl.getLsbD 0 = true) := by
  refine ⟨?_, ?_, ?_, ?_, ?_, ?_⟩ <;> decide +kernel
/-- Whether an image verifies and whether a marker is valid rest on SHA-512 and a signature, which are free (log entry 8): with an image
that verifies, a slot is chosen; with a partial record that is no marker, the record is written. -/
theorem wit_verified_image (i : FwImage) (h : fwVerified 0#32 i = true) (h0 : markerOk 0#576 = false) :
    (bootState fun b => { b with slotA := some i, rec0 := 0#576, rec1 := 0#576 }).boot.chosen = some false ∧
    (bootState fun b => { b with slotA := some i }).boot.slotImg false = some i := by
  refine ⟨?_, rfl⟩
  simp [bootState, Boot.chosen, Boot.firstSlot, h0, Boot.slotOk, Boot.slotImg]
  exact h
/-- Empty slots: nothing is chosen, whatever the journal holds. -/
theorem wit_no_slot : State.reset.boot.chosen = none := by
  unfold Boot.chosen; cases State.reset.boot.firstSlot <;> rfl

/-! ### Encoding, memory, the step -/

theorem wit_EncodeDecodeRoundTrip : (Instr.sub .queue (.reg 2) (.reg 5)).wf = true ∧ encode (.sub .queue (.reg 2) (.reg 5)) = some (0, 0x03F11401) ∧
    (Instr.headerTransfer false 2#4 (.notPred 1) 1 1#14).wf = true ∧ encodeHeader (.headerTransfer false 2#4 (.notPred 1) 1 1#14) = some 0xF0A44001 := by
  decide +kernel

def fetchBundle : Bundle := ⟨none, false, 0, [(0, .sub .queue (.reg 2) (.reg 5))], none⟩

theorem wit_StepKeepsMemoryCanonical : fetchState.mem.wf = true ∧ (match step fetchState with | .next t => t.core.flow.pc == 1#12 | _ => false) = true := by
  decide +kernel
theorem wit_StepRunsDecodedInstruction :
    (let s := { fetchState with inbox := [(0, .boot)] }
     (s.boot.power = true ∧ s.boot.thermal = false) ∧ s.inbox = (0, .boot) :: []) ∧
    ((bootState id).inbox = [] ∧ (bootState id).boot.pending = true) ∧
    (let s := { fetchState with agenda := [(0, .resultWrite)] }
     s.inbox = [] ∧ s.boot.pending = false ∧ s.agenda = (0, .resultWrite) :: []) ∧
    (let s := fetchState
     s.timersDue = false ∧ s.boot.wants = none ∧ (s.modCore fun c => { c with clock := 2 ^ 40 }).boot.pending = false ∧
     ({ s with boot := { s.boot with reread := 0 } } : State).timersDue = true ∧ s.betweenBundles = true ∧
     ({ s with boot := { s.boot with wants := some 2375 } } : State).boot.wants = some 2375) ∧
    (let s := { fetchState with boot := { fetchState.boot with update := some ⟨fwImage0, true, .write⟩ } }
     s.inbox = [] ∧ s.boot.pending = false ∧ s.agenda = [] ∧ s.timersDue = false ∧ s.boot.update.isSome = true) ∧
    (let s := { fetchState with core := (posted (.pred 1 true)).core }
     s.agenda = [] ∧ s.nextCore = some s.core.name ∧ s.dueEvent = some (0, .resultWrite)) ∧
    (let s := fetchState
     (s.core.port.mcheck = none ∧ s.core.tasks.wait ≠ .exited ∧ s.core.flow.skip = 0 ∧ s.core.flow.stall.getD s.core.stallOf = 0 ∧ s.badFetch = false) ∧
     (match s.core.bundle with | .ok b => b == fetchBundle | .error _ => false) = true ∧ bundleOrder fetchBundle = [(0, .sub .queue (.reg 2) (.reg 5))] ∧
     (s.begin false).opFault fetchBundle 0 (.sub .queue (.reg 2) (.reg 5)) = none ∧ s.core.ctl.chk = false ∧
     (run (.sub .queue (.reg 2) (.reg 5)) ((s.begin false).atSlot 0)).core.flow.verdict = .issued ∧
     s.nextCore = some s.core.name ∧ s.dueEvent = none ∧ s.worked.isNone = true ∧ s.domain = [s.core.name] ∧ s.core.owed = 0 ∧ s.core.resumeAt = none ∧
     s.core.exc.entering = none ∧ s.core.lateLanding = false) ∧
    (let s := bootState fun b => { b with thermal := true }
     s.boot.thermal = true ∧ s.inbox = [] ∧ ({ s with inbox := [(0, .boot)] } : State).inbox = (0, .boot) :: []) := by
  refine ⟨?_, ?_, ?_, ?_, ?_, ?_, ?_, ?_⟩ <;> decide +kernel
/-- The operation at the program counter runs in order to the state that it comes to. -/
theorem wit_runs_in_order : ∃ t, RunsInOrder (fetchState.begin false) fetchBundle (fetchState.begin false) [(0, .sub .queue (.reg 2) (.reg 5))] t :=
  ⟨_, by decide +kernel, _, rfl, by decide +kernel, fun h => absurd h (by decide +kernel), rfl⟩

/-! ### The loader -/

/-- R63: 480 = 30 × 16 and 64 = 16 × 4 are delays, 65 is none; offset 16 of an `.n64` access is 2, offset 12 is none; −65,537 fits no ADD. -/
theorem test_delay : asmDelay 480 = some ⟨30#6, 2#2⟩ ∧ asmDelay 64 = some ⟨16#6, 1#2⟩ ∧ asmDelay 63 = some ⟨63#6, 0#2⟩ ∧ asmDelay 65 = none ∧
    withOff 16 (.ld (.reg 3) (.reg 4) 3#2 false 0#6 ⟨0#6, 0#2⟩) = some (.ld (.reg 3) (.reg 4) 3#2 false 2#6 ⟨0#6, 0#2⟩) ∧
    withOff 12 (.ld (.reg 3) (.reg 4) 3#2 false 0#6 ⟨0#6, 0#2⟩) = none ∧ withImm (-65537) (.addImm (.reg 1) (.reg 2) 0#17) = none := by decide +kernel
/-- R62: up to four operations without extension bits make a headerless word; `stall=1` makes the header 0xF4400000, and a fourth operation a second word. -/
theorem test_line_forms :
    asmLine none false [.add (.reg 1) (.reg 2) (.reg 3), .vadd (.reg 1) (.reg 2) (.reg 3) 0 .f32] = some [0x60110C4802110C00#128] ∧
    (asmLine (some (.plain 1 none)) false [.nop, .nop, .nop, .add (.reg 1) (.reg 2) (.reg 3)]) = some [0xF4400000#128, 0x02110C00#128] ∧
    asmLine (some (.plain 0 (some (.never, 5)))) false [.nop] = none := by
  decide +kernel
/-- R70: 4,096 bytes after 786,432 lie at 0xC_0000; an alignment of 64 rounds up. -/
theorem test_alloc :
    let p := placeAllocs .spad 0 [⟨"pad0", .spad, 786432, 64, 0⟩, ⟨"tbl", .spad, 4095, 64, 0⟩, ⟨"x", .spad, 1, 64, 1⟩]
    (p.1.map fun a => (a.1.name, a.2)) = [("pad0", 0xFFFF000200000000), ("tbl", 0xFFFF0002000C0000), ("x", 0xFFFF0002000C1000)] ∧
    p.2 = 0xC1001 := by decide +kernel
/-- R181: the entry of the worked example of 09_sum_product.md; R65, R306: a keyword given twice and a value too wide are errors. -/
theorem test_keys : (match shapePreset [("nodes", .num 0x3fd57c3b), ("lmask", .num 0xff00), ("root", .num 40), ("loff0", .num 1), ("loff1", .num 1),
      ("loff2", .num 2), ("loff3", .num 2), ("loff5", .num 2), ("loff6", .num 3), ("loff7", .num 1)] with
      | .ok w => w == 0x00020C10004080810028FF003FD57C3B#256 | .error _ => false) = true ∧
    (match shapePreset [("root", .num 1), ("root", .num 1)] with | .ok _ => true | .error _ => false) = false ∧
    (match nestPreset [("role0", .name "k"), ("astr0", .num 1)] with | .ok _ => true | .error _ => false) = false ∧
    (match launchRecord (fun _ => .ok 0) [("boexp", .num (2 ^ 28))] with | .ok _ => true | .error _ => false) = false := by decide +kernel
/-- R64: 0.1 is 0x3DCCCCCD in FP32, and −1.5 is 0xBFF8000000000000 in FP64. -/
theorem test_decimal : (⟨false, 1, -1⟩ : Decimal).code fF32 = 0x3DCCCCCD ∧ (⟨true, 15, -1⟩ : Decimal).code fF64 = 0xBFF8000000000000 := by decide +kernel
def srcLine (i : Instr) : Directive := .line ⟨none, [⟨i, none, none, none⟩]⟩
/-- A gang of one core whose text is one EXIT, a launch record, and a handler of one ERET. -/
def oneGang (handler : Bool) : LoadSrc :=
  ⟨[[.gang "g" 1 1 false, .vcore 0 0 none, .label "top", srcLine .exit, .launch "go" [("gang", .name "g"), ("extent", .num 1)]]],
   if handler then some [.global ["trap"], .label "trap", srcLine .eret] else none, 0, 0⟩
/-- R71, R405: a load without a handler object is UNDEF; with one, TRAPVEC names the word after the text, and the record holds image 0 and
FLOOR 1 (R305, R306). -/
theorem test_load : (match State.reset.buildLoad (oneGang false) 0 0 with | .error e => e == .undef "trap" | .ok _ => false) = true ∧
    (match State.reset.loadImage (oneGang true) 0 1#16 0#12 0#12 0#44 with
     | .error _ => false
     | .ok t => (t.images.map fun i => (i.num, i.gangs.map fun g => (g.die, g.trapvec, g.texts.map fun x => (x.entry, x.words.map Prod.fst)))) ==
         [(0, [(false, 1#12, [(0#12, [0, 1])])])]) = true ∧
    (match State.reset.buildLoad (oneGang true) 0 0 with | .error _ => 0 | .ok x => (x.2.map fun d => bytesNat d.2).sum) = 2 ^ 32 := by decide +kernel
/-- R64, R70: two gangs of a source may use one label, each seeing its own; two objects' local allocations of one name keep their own
addresses; a label twice in one gang is an error. -/
theorem test_local_names :
    let gang := fun (n : String) (pad : List Directive) => [Directive.gang n 1 1 false, .alloc ⟨"buf", .spad, 64, 64, 0⟩, .vcore 0 0 none] ++ pad ++ [.label "rnd", srcLine .exit]
    let objs := [gang "a" [] ++ gang "b" [srcLine .nop], gang "a" []].map Obj.read
    let l : Load := ⟨objs.zipIdx.map fun o => o.1.number o.2, 0, 0⟩
    let defs := l.defs (l.gangs.map fun g => (g, l.layout g))
    let see := fun (k : Nat) (g n : String) => ((l.view defs k (some g)).find? fun x => x.1 == n).map Prod.snd
    (objs.map fun o => o.sound false []) = [true, true] ∧ see 0 "a" "rnd" = some 0 ∧ see 0 "b" "rnd" = some 1 ∧
    see 0 "a" "buf" = some 0xFFFF000200000000 ∧ see 1 "a" "buf" = some 0xFFFF000200000040 ∧
    (Obj.read (gang "a" [.label "rnd"])).sound false [] = false := by decide +kernel
/-- R68, R20: with core 3 disabled, a solo core may lie on core 2; core 0 is the firmware core, so core 1 comes first. -/
theorem test_solo_pairs :
    let s := { State.reset with grade := [(3, 0#8)] }
    let g := (⟨false, 3, 1, true, false, [], [], [], 0#256, [], 0#12⟩ : GangImg)
    s.fitGang g (s.clusterCores 0 0) = some [1, 2, 4] := by decide +kernel

end Sys2Proof.Tests
end

section
/-! Canonical memory (R4): what an answer keeps of it. An answer is judged by its next state; a shared operation that hands on to the rest of an
instruction keeps the form where that rest does. -/

namespace Sys2Proof.Machine

/-- An answer whose next state, if it has one, lists memory in its canonical form. -/
def Canonical : Out → Prop
  | .next t => t.mem.wf = true
  | _ => True

@[simp] theorem canonical_next (t : State) : Canonical (.next t) ↔ t.mem.wf = true := Iff.rfl
@[simp] theorem canonical_fault (f : Fault) : Canonical (.fault f) := trivial
theorem Canonical.mem_wf {o : Out} (h : Canonical o) {t : State} (e : o = .next t) : t.mem.wf = true := by rw [e] at h; exact h

/-- A fold of updates keeps the form where each update does. -/
theorem foldl_wf {β : Type} {f : State → β → State} (hf : ∀ t b, t.mem.wf = true → (f t b).mem.wf = true) (l : List β) {s : State}
    (h : s.mem.wf = true) : (l.foldl f s).mem.wf = true := foldl_keeps (fun t : State => t.mem.wf = true) f hf l s h

/-- A fold of updates leaves memory where each update does. -/
theorem foldl_mem {β : Type} {f : State → β → State} (hf : ∀ t b, (f t b).mem = t.mem) (l : List β) (s : State) :
    (l.foldl f s).mem = s.mem := foldl_keeps (fun t : State => t.mem = s.mem) f (fun t b h => (hf t b).trans h) l s rfl

section
variable {s : State}

/-! ### Results, traps and waits -/

@[simp] theorem canonical_scalar {lat : Nat} {d : Dst} {v : Word} : Canonical (s.scalar lat d v) ↔ s.mem.wf = true := by simp [State.scalar]
@[simp] theorem canonical_vector {lat : Nat} {d : Dst} {v : Vec} : Canonical (s.vector lat d v) ↔ s.mem.wf = true := by simp [State.vector]
@[simp] theorem canonical_trap {code : Nat} {info : Word} : Canonical (s.trap code info) ↔ s.mem.wf = true := by simp [State.trap]
@[simp] theorem canonical_lateTrap {code : Nat} {info : Word} : Canonical (s.lateTrap code info) ↔ s.mem.wf = true := by simp [State.lateTrap]
@[simp] theorem canonical_trapNext {code : Nat} {info : Word} : Canonical (s.trapNext code info) ↔ s.mem.wf = true := by simp [State.trapNext]
@[simp] theorem canonical_illop : Canonical s.illop ↔ s.mem.wf = true := by simp [State.illop]
@[simp] theorem canonical_privTrap {idx : Nat} : Canonical (s.privTrap idx) ↔ s.mem.wf = true := by simp [State.privTrap]
@[simp] theorem canonical_lockviol : Canonical s.lockviol ↔ s.mem.wf = true := by simp [State.lockviol]
@[simp] theorem canonical_bankStall {b : Nat} : Canonical (s.bankStall b) ↔ s.mem.wf = true := by simp [State.bankStall]

/-! ### Requests of loads, stores, atomics and barrier objects (R98 to R101, R244 to R251) -/

@[simp] theorem addLanding_mem (d n : Nat) (x : LandDst) (c : Bool) : (s.addLanding d n x c).mem = s.mem := rfl
@[simp] theorem addCoh_mem (k : CohKind) : (s.addCoh k).mem = s.mem := rfl
@[simp] theorem addSched_mem (off : Nat) (k : SchedKind) : (s.addSched off k).mem = s.mem := rfl
@[simp] theorem fixClocks_mem : s.fixClocks.mem = s.mem := rfl

variable (h : s.mem.wf = true)
include h

/-- A check hands on to the rest, traps, or waits for a walk (R38, R100). -/
theorem canonical_checked {α : Type} (x : Chk α) {f : α → Out} (hf : ∀ a, Canonical (f a)) : Canonical (s.checked x f) := by
  cases x with
  | ok a => exact hf a
  | bad code info late => cases late <;> simpa [State.checked] using h
  | miss w => simpa [State.checked] using h

theorem canonical_load (w : Win) (delay : Nat) (dst : LandDst) (base : Vec) (ps : List LoadPiece) (addr : Word) (acq : Bool) :
    Canonical (s.load w delay dst base ps addr acq) := by
  simp only [State.load]; (repeat' split) <;> simpa using h

theorem canonical_store (w : Win) (ps : List StorePiece) (rel : Bool) : Canonical (s.store w ps rel) := by
  simp only [State.store]; (repeat' split) <;> simpa using h

theorem canonical_descRead (addr n : Nat) (dst : LandDst) {f : State → Out} (hf : ∀ t, t.mem.wf = true → Canonical (f t)) :
    Canonical (s.descRead addr n dst f) := by
  unfold State.descRead
  split
  · simpa using h
  · split
    · dsimp only; split
      · simpa using h
      · exact hf _ h
    · simpa using h

theorem canonical_loadScalar (d : Dst) (a : Src) (sz : BitVec 2) (sx : Bool) (off : BitVec 6) (dl : Delay) (acq : Bool) :
    Canonical (s.loadScalar d a sz sx off dl acq) :=
  canonical_checked h _ fun x => by
    split
    · simpa using h
    · split
      · simpa using h
      · exact canonical_checked h _ fun _ => canonical_load h ..

theorem canonical_storeScalar (b a : Src) (sz : BitVec 2) (off : BitVec 15) (rel : Bool) : Canonical (s.storeScalar b a sz off rel) :=
  canonical_checked h _ fun x => by
    split
    · simpa using h
    · refine canonical_checked h _ fun _ => ?_
      split
      · simpa using h
      · exact canonical_store h ..

theorem canonical_atomicKey (addr n : Nat) (lands : Bool) {f : Nat → Out} (hf : ∀ k, Canonical (f k)) :
    Canonical (s.atomicKey addr n lands f) :=
  canonical_checked h _ fun x => by
    (repeat' split)
    · simpa using h
    · simpa using h
    · simpa using h
    · exact canonical_checked h _ hf

theorem canonical_amo (op : AtOp) (a b : Src) (ty : AtTy) (use : AtUse) (dl : Delay) : Canonical (s.amo op a b ty use dl) := by
  simp only [State.amo]
  split
  · simpa using h
  · exact canonical_atomicKey h _ _ _ fun _ => by split <;> simpa using h

theorem canonical_cas (a b c : Src) (w : Bool) (use : AtUse) (dl : Delay) : Canonical (execCas a b c w use dl s) := by
  simp only [execCas]
  split
  · simpa using h
  · exact canonical_atomicKey h _ _ _ fun _ => by simpa using h

theorem canonical_boWrite (a b : Src) (arm : Bool) : Canonical (s.boWrite a b arm) :=
  canonical_checked h _ fun x => by (repeat' split) <;> simpa using h

theorem canonical_bowait (a : Src) : Canonical (execBowait a s) :=
  canonical_checked h _ fun x => by dsimp only; (repeat' split) <;> simpa using h

theorem canonical_cacheOp (a b : Src) (drop : Bool) : Canonical (s.cacheOp a b drop) := by
  simp only [State.cacheOp]; (repeat' split) <;> simpa using h

omit h in
@[simp] theorem setScopeClock_mem (sc : Scope) (v : Nat) : (s.setScopeClock sc v).mem = s.mem := by cases sc <;> rfl
omit h in
@[simp] theorem mergeClock_mem (sc : Scope) : (s.mergeClock sc).mem = s.mem := by simp [State.mergeClock]
omit h in
@[simp] theorem showRelaxed_mem : s.showRelaxed.mem = s.mem := by simp only [State.showRelaxed]; split <;> simp

theorem canonical_fence (sc : Scope) (x : Bool) : Canonical (s.fence sc x) := by
  unfold State.fence State.reportCom; (repeat' split) <;> simpa using h

/-! ### Results and landings that are written (R33, R36, R37) -/

omit h in
@[simp] theorem goodReg_mem (c : Nat) : (s.goodReg c).mem = s.mem := by unfold State.goodReg; split <;> rfl
omit h in
@[simp] theorem ageBad_mem (k : Nat) : (s.ageBad k).mem = s.mem := by unfold State.ageBad; split <;> rfl
omit h in
@[simp] theorem putS_mem (d : Dst) (v : Word) : (s.putS d v).mem = s.mem := by cases d <;> simp [State.putS]
omit h in
@[simp] theorem putV_mem (d : Dst) (v : Vec) : (s.putV d v).mem = s.mem := by cases d <;> simp [State.putV]
omit h in
@[simp] theorem putZ_mem (zs : List (Nat × BitVec 32)) : (s.putZ zs).mem = s.mem := foldl_mem (fun _ _ => goodReg_mem ..) zs s
omit h in
@[simp] theorem addAdjoints_mem (sp : Bool) (zs : List (Nat × BitVec 32)) (f : Fl) : (s.addAdjoints sp zs f).mem = s.mem := by
  simp only [State.addAdjoints]; (repeat' split) <;> simp
theorem putCtl_wf (idx : BitVec 12) (v : Word) : (s.putCtl idx v).mem.wf = true := by
  unfold State.putCtl; split
  · exact putPartmap_wf h v
  · exact h
  · split <;> exact h
  · exact h
theorem apply_wf (r : Result) : (s.apply r).mem.wf = true := by
  cases r with
  | ctl idx v => exact putCtl_wf h idx v
  | _ => simpa [State.apply] using h
omit h in
@[simp] theorem land_mem (l : Landing) (v : Vec) : (s.land l v).mem = s.mem := by unfold State.land; split <;> simp
omit h in
@[simp] theorem landNext_mem (l : Landing) (v : Vec) : (s.landNext l v).mem = s.mem := by
  unfold State.landNext; (repeat' split) <;> simp

theorem canonical_resultWrite : Canonical (execResultWrite s) := by
  unfold execResultWrite; (repeat' split)
  · simpa using h
  · simpa using h
  · simpa using apply_wf (s := s.modPort _) h _
theorem canonical_scaleLatchWrite : Canonical (execScaleLatchWrite s) := by
  unfold execScaleLatchWrite; (repeat' split) <;> simpa using h
theorem canonical_landing : Canonical (execLanding s) := by
  unfold execLanding; (repeat' split) <;> simpa using h

/-! ### Accesses that are performed (R214, R224, R251, R360) -/

omit h in
@[simp] theorem takeBanks_mem (t : Nat) (n : Cells Nat) : (s.takeBanks t n).mem = s.mem := rfl
theorem performDue_wf (due : Nat) : (s.performDue due).mem.wf = true := by
  simp only [State.performDue, modCore_mem]
  rw [foldl_mem fun t n => modAt_mem t n _]
  exact foldl_wf (fun t x ht => on_wf _ _ (fun u hu => performSched_wf hu _) ht) _ h
theorem canonical_scheduledAccessPerform : Canonical (execScheduledAccessPerform s) := by
  unfold execScheduledAccessPerform; split
  · rw [canonical_next]; split
    · exact performDue_wf h _
    · exact h
  · simpa using h
theorem canonical_coherentAccessPerform : Canonical (execCoherentAccessPerform s) := by
  unfold execCoherentAccessPerform; (repeat' split)
  · simpa using h
  · simpa using h
  · simpa using h
  · simpa using performCoh_wf (s := s.modPort _) h _
theorem canonical_stRelPerform : Canonical (execStRelPerform s) := by
  unfold execStRelPerform; split
  · simpa using h
  · split
    · split
      · simpa using h
      · rw [canonical_next, fixClocks_mem]
        refine performCoh_wf ?_ _
        rw [modPort_mem]; split <;> exact h
    · simpa using h
theorem canonical_ptsDrift : Canonical (execPtsDrift s) := by unfold execPtsDrift; split <;> simpa using h
theorem applyCom_wf (a : ComAtomic) : (s.applyCom a).mem.wf = true := by
  simp only [State.applyCom]; split
  · simpa using h
  · simpa using rmw_wf h ..
theorem canonical_comAtomicApply : Canonical (execComAtomicApply s) := by
  unfold execComAtomicApply; (repeat' split)
  · simpa using h
  · simpa using h
  · simpa using applyCom_wf (s := s.modPort _) h _
theorem canonical_cacheOpComplete : Canonical (execCacheOpComplete s) := by
  unfold execCacheOpComplete; split
  · simpa using h
  · simpa [foldl_mem fun (t : State) (l : Nat) => atHome_mem t l true] using h

omit h in
@[simp] theorem walkFrom_mem (own : List StorePiece) (va : Nat) :
    ∀ (fuel level table : Nat) (s : State), (s.walkFrom own va fuel level table).1.mem = s.mem
  | 0, _, _, _ => rfl
  | fuel + 1, level, table, s => by
    unfold State.walkFrom; dsimp only; (repeat' split) <;> simp [walkFrom_mem own va fuel]
omit h in
@[simp] theorem dropEntry_mem (va : Nat) : (s.dropEntry va).mem = s.mem := rfl
omit h in
@[simp] theorem fillCluster_mem (va : Nat) (e : TlbEntry) : (s.fillCluster va e).mem = s.mem := foldl_mem (by intros; rfl) _ s
omit h in
@[simp] theorem fillWaiters_mem (va : Nat) (e : TlbEntry) : (s.fillWaiters va e).mem = s.mem := rfl
theorem canonical_pageWalkComplete : Canonical (execPageWalkComplete s) := by
  unfold execPageWalkComplete; dsimp only; (repeat' split) <;> simpa using h

end

end Sys2Proof.Machine
end

section
/-! Canonical memory under the engines: the gate of an access, reports on barrier objects, the copy engines (R216, R226, R240 to R242, R253 to
R259), and under the tasks, barriers and events of a gang, which write no memory (R281 to R294). -/

namespace Sys2Proof.Machine

section
variable {s : State}

/-! ### Engines -/

@[simp] theorem heldEngine_mem : s.heldEngine.mem = s.mem := by simp [State.heldEngine]
@[simp] theorem engineTurn_mem (eng seq : Nat) (rs : List Run) : (s.engineTurn eng seq rs).1.mem = s.mem := by
  obtain ⟨l, e⟩ := engineTurn_eq s eng seq rs
  rw [e]; rfl
@[simp] theorem coverUnits_mem (rs : List Run) : (s.coverUnits rs).mem = s.mem := by
  unfold State.coverUnits; split
  · rfl
  · exact foldl_mem (by intros; rfl) _ s
@[simp] theorem serveEngines_mem (n : Nat) : (s.serveEngines n).mem = s.mem := by
  simp only [State.serveEngines]; (repeat' split) <;> simp
@[simp] theorem asIssued_mem (j : Issued) : (s.asIssued j).mem = s.mem := rfl

variable (h : s.mem.wf = true)
include h

theorem under_wf (j : Issued) {f : State → State} (hf : ∀ t, t.mem.wf = true → (f t).mem.wf = true) : (s.under j f).mem.wf = true := hf _ h

omit h in
/-- The state of a pair, when the pair has been taken apart. -/
theorem fst_wf {α : Type} {x : State × α} {t : State} {a : α} (hx : x.1.mem.wf = true) (e : x = (t, a)) : t.mem.wf = true := by
  rw [e] at hx; exact hx

/-- The gate of an engine leaves memory as it was, whatever it answers. -/
theorem gated_wf {eng : Nat} {j : Issued} {rs : List Run} {t : State} {go : Bool} (e : s.engineGate eng j rs = (t, go)) : t.mem.wf = true :=
  fst_wf (by rw [engineGate_mem]; exact h) e

theorem reports_wf (eng : Nat) (j : Issued) (obj : Nat) {f : State → State} (hf : ∀ t, t.mem.wf = true → (f t).mem.wf = true) :
    (s.reports eng j obj f).mem.wf = true := by
  unfold State.reports; split
  · simpa using h
  · split
    rename_i t go e
    have ht := gated_wf h e
    split
    · exact hf _ ht
    · exact ht

theorem finishSend_wf : s.finishSend.mem.wf = true := by
  unfold State.finishSend; split
  · exact h
  · refine reports_wf h _ _ _ fun t ht => ?_
    dsimp only; split
    · exact engineDone_wf (s := t.modPort _) ht ..
    · exact boUpdate_wf (s := t.modPort _) ht ..
    · exact ht

theorem canonical_boAddition (obj n stamp : Nat) : Canonical (execBoAddition obj n stamp s) := by
  unfold execBoAddition; split
  · exact finishSend_wf (s := s.modPort _) h
  · rw [canonical_next]; split
    · exact h
    · exact engineDone_wf h ..

/-! ### Copies -/

theorem canonical_cIssue (o : Src) (ill : Bool) {f : Nat → Out} (hf : ∀ k, Canonical (f k)) : Canonical (s.cIssue o ill f) :=
  canonical_checked h _ fun x => by
    (repeat' split)
    · simpa using h
    · simpa using h
    · exact hf _
theorem canonical_copyQueue (obj : Nat) (op : CopyOp) : Canonical (s.copyQueue obj op) := h
theorem canonical_cpyg (o a b c : Src) : Canonical (execCpyg o a b c s) := by
  unfold execCpyg; dsimp only
  refine canonical_cIssue h _ _ fun _ => ?_
  split
  · simpa using h
  · exact canonical_copyQueue h ..

theorem copyEnd_wf (eng : Nat) (j : CopyJob) (r : ERes Nat) : (s.copyEnd eng j r).mem.wf = true := by
  cases r with
  | ok stamp => exact engineDone_wf (s := s.copyLeave eng) h ..
  | fault x => exact engineFault_wf (s := s.copyLeave eng) h ..
  | bad => exact engineFault_wf (s := s.copyLeave eng) h ..
theorem copyMove_wf (eng : Nat) (j : CopyJob) (clock : Nat) (ps : List Piece) : (s.copyMove eng j clock ps).mem.wf = true :=
  copyEnd_wf (movePieces_wf h ..) ..
theorem copyStop_wf (eng : Nat) (j : CopyJob) (r : ERes Nat) : (s.copyStop eng j r).mem.wf = true := by
  unfold State.copyStop; split
  · simpa using h
  · split
    rename_i t go e
    have ht := gated_wf h e
    split
    · exact copyEnd_wf ht eng j r
    · exact ht

theorem runCopy_wf (eng : Nat) : (s.runCopy eng).mem.wf = true := by
  unfold State.runCopy; split
  · exact h
  · split
    · exact h
    · exact h
    · refine under_wf h _ fun t ht => ?_
      split
      · exact copyStop_wf ht ..
      · exact copyStop_wf ht ..
      · split
        · exact ht
        · split
          · simpa using ht
          · split
            rename_i u go e
            have hu := gated_wf ht e
            split
            · exact copyMove_wf hu ..
            · exact hu
theorem moveUnit_wf (eng : Nat) : (s.moveUnit eng).mem.wf = true := by
  unfold State.moveUnit; split
  · exact h
  · refine under_wf h _ fun t ht => ?_
    split
    · split
      · exact ht
      · split
        · simpa using ht
        · split
          rename_i u go e
          have hu := gated_wf ht e
          split
          · exact hu
          · exact movePieces_wf hu ..
    · exact ht

/-! ### Tasks, barriers and events -/

theorem canonical_idleAt (w : WaitState) : Canonical (s.idleAt w) := h
theorem canonical_goOn : Canonical s.goOn := h
theorem canonical_waiting {f : Out} (hf : Canonical f) : Canonical (s.waiting f) := by
  unfold State.waiting; (repeat' split)
  · simpa using h
  · simpa using h
  · exact hf
theorem canonical_joined (w : WaitState) {f : State → Out} (hf : ∀ t, t.mem.wf = true → Canonical (f t)) : Canonical (s.joined w f) := by
  unfold State.joined; split
  · exact hf _ h
  · exact h
theorem canonical_arrive (sc : Scope) (w : WaitState) : Canonical (s.arrive sc w) := by
  unfold State.arrive; split
  · simpa using h
  · refine canonical_waiting h ?_
    (repeat' split)
    · simpa using h
    · simpa using h
    · exact canonical_idleAt (by simpa using h) w
omit h in
@[simp] theorem issueBarrier_mem (release merge : List Core) : (s.issueBarrier release merge).mem = s.mem := by
  simp only [State.issueBarrier]
  rw [foldl_mem fun _ _ => modAt_mem .., foldl_mem fun _ _ => modAt_mem ..]
omit h in
@[simp] theorem armBarriers_mem : s.armBarriers.mem = s.mem := by
  have arm : ∀ (cs : List Core) (f : Core → Core) (t : State), (cs.foldl (fun t c => t.modAt c.name f) t).mem = t.mem :=
    fun cs f t => foldl_mem (fun _ _ => modAt_mem ..) cs t
  simp only [State.armBarriers]; (repeat' split) <;> simp only [arm]
theorem canonical_barRelease : Canonical (execBarRelease s) := by
  simp only [execBarRelease]; split <;> simpa using h
theorem canonical_ebarRelease : Canonical (execEbarRelease s) := by
  simp only [execEbarRelease]; split <;> simpa using h
theorem canonical_wfe : Canonical (execWfe s) := canonical_waiting h (by split <;> exact h)
theorem canonical_sev (a : Src) : Canonical (execSev a s) := by
  simp only [execSev]; (repeat' split)
  · simpa using h
  · exact foldl_wf (by intro _ _ ht; exact ht) _ h
  · simpa using h
  · exact h
theorem canonical_eventLanding : Canonical (execEventLanding s) := by
  unfold execEventLanding; split <;> simpa using h
theorem canonical_reportCom {f : Out} (hf : Canonical f) : Canonical (s.reportCom f) := by
  unfold State.reportCom; split
  · simpa using h
  · exact hf
theorem canonical_exit : Canonical (execExit s) := by
  unfold execExit; (repeat' split)
  · simpa using h
  · simpa using h
  · refine canonical_joined h _ fun t ht => canonical_waiting ht ?_
    split
    · exact ht
    · exact canonical_reportCom ht ht
theorem canonical_fork (task : BitVec 17) (a b : Src) : Canonical (execFork task a b s) := by
  simp only [execFork]; (repeat' split) <;> simpa using h
theorem canonical_join : Canonical (execJoin s) := by
  unfold execJoin; split
  · simpa using h
  · exact canonical_waiting h (canonical_joined h _ fun t ht => canonical_goOn ht)
theorem canonical_endTask : Canonical s.endTask := by
  unfold State.endTask; split <;> exact h
theorem canonical_taskend : Canonical (execTaskend s) := by
  unfold execTaskend; (repeat' split)
  · simpa using h
  · simpa using h
  · refine canonical_joined h _ fun t ht => canonical_waiting ht ?_
    split
    · exact ht
    · exact canonical_endTask (by simpa using ht)
theorem canonical_stealProbe : Canonical (execStealProbe s) := by
  unfold execStealProbe; dsimp only; (repeat' split) <;> simpa using h
theorem canonical_taskDispatch : Canonical (execTaskDispatch s) := by
  unfold execTaskDispatch; (repeat' split) <;> exact h
theorem canonical_completionNotice : Canonical (execCompletionNotice s) := by
  unfold execCompletionNotice; split <;> exact h

end

end Sys2Proof.Machine
end

section
/-! Canonical memory under direct transfers and the tile table (R260 to R276). -/

namespace Sys2Proof.Machine

section
variable {s : State}

@[simp] theorem modEntry_mem (die : Bool) (idx : Nat) (f : TileEntry → TileEntry) : (s.modEntry die idx f).mem = s.mem := rfl

variable (h : s.mem.wf = true)
include h

/-! ### SEND, RECV and RECVADD -/

theorem canonical_commQueue (obj : Nat) (op : CommOp) {f : State → Out} (hf : ∀ t, t.mem.wf = true → Canonical (f t)) :
    Canonical (s.commQueue obj op f) := by
  unfold State.commQueue; split
  · simpa using h
  · exact hf _ h
theorem canonical_send (o a b c : Src) : Canonical (execSend o a b c s) := by
  refine canonical_checked h _ fun _ => ?_
  split
  · simpa using h
  · refine canonical_checked h _ fun _ => ?_
    split
    · simpa using h
    · dsimp only; split
      · simpa using h
      · split
        · simpa using h
        · exact canonical_commQueue h _ _ fun t ht => ht
theorem canonical_recv (a b : Src) : Canonical (execRecv a b s) := by
  simp only [execRecv]; (repeat' split) <;> simpa using h
theorem canonical_recvadd (o a b c : Src) : Canonical (execRecvadd o a b c s) := by
  refine canonical_checked h _ fun _ => ?_
  split
  · simpa using h
  · exact canonical_checked h _ fun _ => canonical_checked h _ fun _ => canonical_commQueue h _ _ fun t ht => ht

theorem afterChunk_wf (c : Chunk) : (s.afterChunk c).mem.wf = true := by
  unfold State.afterChunk; split
  · exact h
  · exact on_wf _ _ (fun _ ht => finishSend_wf ht) h
theorem landRemote_wf : s.landRemote.mem.wf = true := by
  unfold State.landRemote; split
  · exact h
  · split
    · exact h
    · split
      rename_i t go e
      have ht := fst_wf (by rw [engineTurn_mem]; exact h) e
      split
      · exact performChunk_wf (by exact ht) _
      · exact ht
theorem canonical_sendChunkLanding : Canonical (execSendChunkLanding s) := by
  unfold execSendChunkLanding; (repeat' split)
  · exact afterChunk_wf (countChunk_wf (by exact h) _) _
  · exact afterChunk_wf (arriveChunk_wf (by exact h) _) _
  · exact landRemote_wf h
  · exact finishSend_wf h
theorem canonical_remoteChunkArrival (win : Bool) (off : BitVec 22) (ctr : RegNo) (data : List Byte) :
    Canonical (execRemoteChunkArrival win off ctr data s) := by
  unfold execRemoteChunkArrival; split <;> exact h

theorem recvClaim_wf (j : CommJob) : (s.recvClaim j).mem.wf = true := by unfold State.recvClaim; split <;> exact h
theorem recvCombine_wf (j : CommJob) : (s.recvCombine j).mem.wf = true := by
  unfold State.recvCombine; split
  · extract_lets w len dst src
    split
    · exact h
    · split
      · simpa using h
      · split
        rename_i t go e
        have ht := gated_wf h e
        split
        · exact ht
        · extract_lets u
          split
          · exact engineFault_wf (by exact ht) ..
          · exact engineDone_wf (foldl_wf (fun _ _ hu => recvElem_wf hu ..) _ (by exact ht)) ..
  · exact h
theorem canonical_recvaddCombine : Canonical (execRecvaddCombine s) := by
  unfold execRecvaddCombine; extract_lets t
  have ht : t.mem.wf = true := by
    unfold t; split
    · exact recvClaim_wf h _
    · exact h
  clear_value t
  rw [canonical_next]; split
  · exact recvCombine_wf ht _
  · exact ht

/-! ### Tile-table entries -/

theorem inEntry_wf (e : TileEntry) {f : State → State} (hf : ∀ t, t.mem.wf = true → (f t).mem.wf = true) : (s.inEntry e f).mem.wf = true := by
  unfold State.inEntry; split
  · exact on_wf _ _ hf h
  · exact hf _ h
theorem entryFault_wf (die : Bool) (idx cause : Nat) (stop : Bool) (x : Option Word) : (s.entryFault die idx cause stop x).mem.wf = true := by
  unfold State.entryFault; split
  · exact h
  · have hf := inEntry_wf h ‹TileEntry› fun t ht => show (match t.entryObj ‹TileEntry› with
      | some k => if t.bankLocked k then t.modEntry die idx fun e => { e with owed := e.owed ++ [(cause, x)] } else t.engineFault k cause x
      | none => t).mem.wf = true by
        (repeat' split)
        · exact ht
        · exact engineFault_wf ht ..
        · exact ht
    dsimp only; split <;> exact hf
theorem payOwed_wf (e : TileEntry) : (s.payOwed e).mem.wf = true := by
  refine inEntry_wf h e fun t ht => ?_
  (repeat' split)
  · exact ht
  · exact foldl_wf (fun _ _ hu => engineFault_wf hu ..) _ ht
  · exact ht
theorem setReady_wf (die : Bool) (idx : Nat) (f : Firing) : (s.setReady die idx f).mem.wf = true := by
  unfold State.setReady; (repeat' split)
  · exact h
  · exact h
  · exact h
  · exact entryFault_wf h ..
theorem canonical_tileIndex (x : Word) {f : Nat → Out} (hf : ∀ i, Canonical (f i)) : Canonical (s.tileIndex x f) := by
  simp only [State.tileIndex]; split
  · simpa using h
  · exact hf _
theorem canonical_ttset (o a b : Src) : Canonical (execTtset o a b s) := by
  refine canonical_checked h _ fun _ => canonical_tileIndex h _ fun _ => ?_
  dsimp only; (repeat' split)
  · simpa using h
  · exact canonical_commQueue h _ _ fun t ht => ht
  · simpa using h
theorem canonical_tready (a : Src) : Canonical (execTready a s) := by
  refine canonical_tileIndex h _ fun _ => ?_
  (repeat' split)
  · simpa using h
  · simpa using h
  · exact setReady_wf h ..
theorem canonical_twait (a : Src) : Canonical (execTwait a s) := by
  refine canonical_tileIndex h _ fun _ => ?_
  (repeat' split) <;> simpa using h
theorem canonical_ttsetApply : Canonical (execTtsetApply s) := by
  unfold execTtsetApply; split
  · exact h
  · split
    · simpa using h
    · extract_lets run
      split
      rename_i t go e
      have ht := gated_wf h e
      split
      · exact ht
      · extract_lets u
        split
        · exact engineFault_wf (by exact ht) ..
        · split
          · exact engineFault_wf (by exact ht) ..
          · exact engineDone_wf (by exact ht) ..

/-! ### Firings -/

theorem sendTile_wf (e : TileEntry) (c : TileChunk) : (s.sendTile e c).mem.wf = true :=
  foldl_wf (fun t p ht => by
    dsimp only; split
    · exact netSend_wf ht ..
    · exact ht) _ h
omit h in
@[simp] theorem firingGate_mem (j : Issued) (setter : Nat) (rs : List Run) : (s.firingGate j setter rs).1.mem = s.mem := by
  simp only [State.firingGate]; (repeat' split) <;> simp
theorem fire_wf (e : TileEntry) (f : Firing) (rs : List Run) : (s.fire e f rs).mem.wf = true := by
  unfold State.fire; split
  rename_i t c e
  have ht := fst_wf (by rw [readClock_mem]; exact h) e
  exact foldl_wf (fun _ _ hu => sendTile_wf hu ..) _ (by exact ht)
theorem startFiring_wf (e : TileEntry) (f : Firing) : (s.startFiring e f).mem.wf = true := by
  refine under_wf h _ fun t ht => ?_
  split
  · exact entryFault_wf ht ..
  · exact entryFault_wf ht ..
  · split
    rename_i u go e
    have hu := fst_wf (by rw [firingGate_mem]; exact ht) e
    (repeat' split)
    · exact hu
    · exact entryFault_wf hu ..
    · exact fire_wf hu ..
theorem canonical_tileFiringStart (die : Bool) (idx : Nat) : Canonical (execTileFiringStart die idx s) := by
  unfold execTileFiringStart; (repeat' split)
  · exact h
  · exact h
  · exact h
  · exact inEntry_wf h _ fun t ht => startFiring_wf ht ..

theorem entryWrite_wf (e : TileEntry) (obj clock a : Nat) (data : List Byte) : (s.entryWrite e obj clock a data).1.mem.wf = true := by
  have gated : ∀ {rs : List Run} {t : State} {go : Bool},
      (match e.firing with | some f => s.firingGate f.job f.setter rs | none => s.engineGate 4 e.job rs) = (t, go) → t.mem.wf = true := by
    intro rs t go e
    split at e
    · exact fst_wf (by rw [firingGate_mem]; exact h) e
    · exact gated_wf h e
  unfold State.entryWrite; split
  · extract_lets all
    split
    · simpa using h
    · split
      rename_i t go e
      have ht := gated e
      split
      · exact ht
      · split
        · exact entryFault_wf (writeRuns_wf ht ..) ..
        · split
          rename_i u n ts e
          exact fst_wf (writeRuns_wf ht ..) e
  · exact entryFault_wf h ..
  · exact entryFault_wf h ..
theorem writeCopies_wf (e : TileEntry) : (s.writeCopies e).mem.wf = true := by
  refine foldl_wf (fun t p ht => ?_) _ h
  (repeat' split)
  · exact ht
  · exact ht
  · rename_i e; exact fst_wf (entryWrite_wf ht ..) e
  · rename_i e
    have hu := fst_wf (entryWrite_wf ht ..) e
    exact engineDone_wf (by exact hu) ..
  · exact entryFault_wf ht ..
  · exact ht
theorem afterFiring_wf (e : TileEntry) (f : Firing) (clock : Nat) : (s.afterFiring e f clock).mem.wf = true := by
  simp only [State.afterFiring]; split
  · exact setReady_wf (s := s.modEntry ..) h ..
  · exact h
theorem completeCopy_wf (e : TileEntry) (f : Firing) : (s.completeCopy e f).mem.wf = true := by
  have hw := writeCopies_wf h e
  simp only [State.completeCopy]; (repeat' split)
  · exact hw
  · exact writeCopies_wf (afterFiring_wf hw ..) e
  · exact hw
theorem completeCombine_wf (e : TileEntry) (f : Firing) : (s.completeCombine e f).mem.wf = true := by
  unfold State.completeCombine; dsimp only; (repeat' split)
  · exact h
  · rename_i e; exact fst_wf (entryWrite_wf h ..) e
  · rename_i e
    have ht := fst_wf (entryWrite_wf h ..) e
    exact afterFiring_wf (engineDone_wf (by exact ht) ..) ..
  · exact entryFault_wf h ..
  · exact h
theorem runEntry_wf (e : TileEntry) : (s.runEntry e).mem.wf = true := by
  unfold State.runEntry; dsimp only; (repeat' split)
  · exact writeCopies_wf h e
  · exact h
  · exact completeCopy_wf h ..
  · exact completeCombine_wf h ..
  · exact writeCopies_wf h e
  · exact h
theorem canonical_tileFiringComplete (die : Bool) (idx : Nat) : Canonical (execTileFiringComplete die idx s) := by
  unfold execTileFiringComplete; (repeat' split)
  · exact h
  · exact payOwed_wf h _
  · exact inEntry_wf h _ fun t ht => runEntry_wf ht _

omit h in
theorem refuseRemote_wf {s : State} (h : s.mem.wf = true) (e : TileEntry) (c : TileChunk) : (s.refuseRemote e c).mem.wf = true := by
  simp only [State.refuseRemote]; split
  · exact netSend_wf h ..
  · exact h
theorem canonical_tileChunkStage (die : Bool) (idx : Nat) (c : TileChunk) : Canonical (execTileChunkStage die idx c s) := by
  unfold execTileChunkStage; extract_lets src refuse u
  have hr : ∀ t : State, t.mem.wf = true → (refuse t).mem.wf = true := fun t ht => by
    unfold refuse; extract_lets out u v
    have hv : v.mem.wf = true := by
      rw [record_mem]; refine entryFault_wf ?_ ..
      unfold out; split
      · exact refuseRemote_wf ht ..
      · exact ht
    clear_value v
    split
    · exact entryFault_wf hv ..
    · exact hv
  (repeat' split)
  · exact hr _ h
  · exact hr _ h
  · exact inEntry_wf (by exact h) _ fun t ht => writeCopies_wf ht _
  · exact h
theorem canonical_sendPhaseEnd (die : Bool) (answer : PeerAnswer) : Canonical (execSendPhaseEnd die answer s) := by
  unfold execSendPhaseEnd; (repeat' split)
  · exact h
  · exact h
  · exact h
  · exact h
  · exact h
  · exact h
  · rw [canonical_next]; split
    · exact entryFault_wf h ..
    · exact h
theorem canonical_transportTimeout (what : NetOp) : Canonical (execTransportTimeout what s) := by
  unfold execTransportTimeout; split
  · refine on_wf _ _ (fun t ht => ?_) h
    split
    · exact ht
    · exact finishSend_wf (by simpa using ht)
  · (repeat' split)
    · exact h
    · exact h
    · extract_lets
      split
      · exact h
      · exact entryFault_wf (by rw [record_mem]; exact h) ..

end

end Sys2Proof.Machine
end

section
/-! Canonical memory under headers, control registers and the command front end: its accesses, queues, launches and their runs
(R47, R48, R104 to R107, R298 to R317, R434). -/

namespace Sys2Proof.Machine

section
variable {s : State}

@[simp] theorem modLaunch_mem (slot : Nat) (f : Launch → Launch) : (s.modLaunch slot f).mem = s.mem := rfl
@[simp] theorem poke_mem (k n : Nat) : (s.poke k n).mem = s.mem := rfl
@[simp] theorem dropWaiter_mem (n : Nat) : (s.dropWaiter n).mem = s.mem := rfl
@[simp] theorem dropLaunch_mem (slot : Nat) : (s.dropLaunch slot).mem = s.mem := rfl
@[simp] theorem recordShape_mem (l : Launch) (t : Nat) : (s.recordShape l t).mem = s.mem := by
  unfold State.recordShape; split <;> rfl
@[simp] theorem urgentDone_mem (slot : Nat) : (s.urgentDone slot).mem = s.mem := by
  unfold State.urgentDone; split
  · rfl
  · exact foldl_mem (fun _ _ => modAt_mem ..) _ s

variable (h : s.mem.wf = true)
include h

/-! ### Headers and control registers -/

theorem canonical_prepare (tb : Small) (lk : Bool) (target : Int) : Canonical (s.prepare tb lk target) := by
  unfold State.prepare; (repeat' split) <;> simpa using h
theorem canonical_headerTransfer (l : Bool) (st : BitVec 4) (xc : Xc) (tb : Small) (ext : BitVec 14) :
    Canonical (execHeaderTransfer l st xc tb ext s) := by
  simp only [execHeaderTransfer]; (repeat' split) <;> simpa using h
theorem canonical_lockHeader (l : Bool) (st : BitVec 4) (cnt : BitVec 3) (banks : BitVec 16) : Canonical (execLockHeader l st cnt banks s) := by
  unfold execLockHeader; (repeat' split) <;> simpa using h
theorem releaseHeld_wf : s.releaseHeld.mem.wf = true := foldl_wf (fun _ _ ht => placeChunk_wf ht _) _ (by exact h)
theorem canonical_lockHoldEnd : Canonical (execLockHoldEnd s) := by
  unfold execLockHoldEnd; split <;> exact releaseHeld_wf (by exact h)
theorem canonical_ctlCheck (idx : Nat) (write : Bool) {f : Out} (hf : Canonical f) : Canonical (s.ctlCheck idx write f) := by
  unfold State.ctlCheck; split
  · (repeat' split)
    · simpa using h
    · simpa using h
    · exact hf
  · extract_lets least
    split <;> simpa using h
theorem canonical_ctlWrite (idx : Nat) (v : Word) {f : Out} (hf : Canonical f) : Canonical (s.ctlWrite idx v f) :=
  canonical_ctlCheck h _ _ (by
    split
    · simpa using h
    · exact hf)
theorem canonical_ctlr (d : Dst) (idx : BitVec 12) : Canonical (execCtlr d idx s) := canonical_ctlCheck h _ _ h
theorem canonical_ctlw (idx : BitVec 12) (a : Src) : Canonical (execCtlw idx a s) := canonical_ctlWrite h _ _ h
theorem canonical_ctlwArrmode (a : Src) : Canonical (execCtlwArrmode a s) :=
  canonical_ctlWrite h _ _ (by (repeat' split) <;> simpa using h)
theorem canonical_ctlwAsid (a : Src) : Canonical (execCtlwAsid a s) :=
  canonical_ctlWrite h _ _ (by (repeat' split) <;> simpa using h)
theorem canonical_ctlwPartmap (a : Src) : Canonical (execCtlwPartmap a s) :=
  canonical_ctlWrite h _ _ (by (repeat' split) <;> simpa using h)
theorem canonical_cvadv : Canonical (execCvadv s) := by unfold execCvadv; split <;> simpa using h

/-! ### The front end and its queues -/

theorem frontRead_wf (p : Nat) (a : BitVec 16) (ad n : Nat) (host : Bool) : (s.frontRead p a ad n host).1.mem.wf = true :=
  asFront_wf h p a _ fun t ht => by
    (repeat' split)
    · exact ht
    · rename_i e; exact fst_wf (by rw [readClock_mem]; exact ht) e
    · exact ht
    · exact ht
theorem endCore_wf (n : Nat) (keep : Bool) : (s.endCore n keep).mem.wf = true := by
  refine on_wf n _ (fun t ht => ?_) h
  extract_lets crew u v w x
  have hu : u.mem.wf = true := foldl_wf (fun _ _ h => performSched_wf h _) _ ht
  have hv : v.mem.wf = true := foldl_wf (fun _ _ h => arriveChunk_wf h _) _ hu
  have hw : w.mem.wf = true := foldl_wf (fun r l hr => by
    split
    · rw [landNext_mem]; exact hr
    · exact hr) _ hv
  have hx : x.mem.wf = true := releaseHeld_wf (by rw [modFlow_mem]; exact hw)
  clear_value x
  rw [modCore_mem, dropWaiter_mem]; exact hx
theorem trim_wf (slot : Nat) (i : Inst) : (s.trim slot i).mem.wf = true := foldl_wf (fun _ _ ht => endCore_wf ht ..) _ h
theorem writeDone_wf (l : Launch) : (s.writeDone l).1.mem.wf = true := by
  unfold State.writeDone; split
  · exact h
  · exact frontWrite_wf h ..
theorem endLaunch_wf (l : Launch) : (s.endLaunch l).mem.wf = true := by
  unfold State.endLaunch
  rw [dropLaunch_mem, urgentDone_mem]
  refine writeDone_wf (foldl_wf (fun t i ht => ?_) _ h) _
  split
  · exact trim_wf ht ..
  · exact foldl_wf (fun _ _ hu => endCore_wf hu ..) _ ht
theorem queueError_wf (p n c k : Nat) : (s.queueError p n c k).mem.wf = true := by
  unfold State.queueError; split
  · exact h
  · exact grant_wf (foldl_wf (fun _ _ ht => endLaunch_wf ht _) _ (by rw [record_mem]; exact putQueue_wf h _))
theorem queueMcheck_wf (p n k : Nat) (a : Word) : (s.queueMcheck p n k a).mem.wf = true :=
  queueError_wf (by rw [record_mem]; exact h) ..
theorem queueWaits_wf (q : Queue) (sig : Word) : (s.queueWaits q sig).mem.wf = true := grant_wf (putQueue_wf h _)
theorem advance_wf (q : Queue) : (s.advance q).mem.wf = true := settle_wf h _

/-! ### Launches and their runs -/

theorem dispatchLaunch_wf (p : Nat) (a : BitVec 16) (qn pk : Nat) (par : Option Nat) (r c : Nat) :
    (s.dispatchLaunch p a qn pk par r c).1.mem.wf = true := by
  unfold State.dispatchLaunch; split
  rename_i t l e
  have ht : t.mem.wf = true := fst_wf h e
  split
  · exact ht
  · split <;> (rename_i e; have hu := fst_wf (frontRead_wf ht ..) e)
    · split
      · simpa using hu
      · exact hu
    · exact queueError_wf hu ..
    · exact queueMcheck_wf hu ..
theorem completeInst_wf (slot : Nat) (i : Inst) : (s.completeInst slot i).mem.wf = true :=
  foldl_wf (fun t _ ht => by rw [modAt_mem]; exact on_wf _ _ (fun u hu => by rw [showRelaxed_mem]; exact hu) ht) _ h
theorem commitInst_wf (slot : Nat) (i : Inst) (ts : Nat) : (s.commitInst slot i ts).mem.wf = true := by
  unfold State.commitInst
  extract_lets ls t u v w
  have hu : u.mem.wf = true := foldl_wf (fun r _ hr => by rw [modAt_mem]; exact hr) _ h
  have hv : v.mem.wf = true := by
    unfold v; split
    · exact hu
    · exact on_wf _ _ (fun r hr => foldl_wf (fun _ _ hq => setReady_wf hq ..) _ hr) hu
  have hw : w.mem.wf = true := foldl_wf (fun r _ hr => on_wf _ _ (fun q hq => by
    split
    · rw [takeTrap_mem]; exact hq
    · exact hq) hr) _ hv
  clear_value w
  split
  · exact completeInst_wf hw ..
  · exact hw
theorem deliverShape_wf (slot t c : Nat) : (s.deliverShape slot t c).1.mem.wf = true := by
  unfold State.deliverShape; split
  · exact h
  · extract_lets t' live keep
    split
    rename_i u ts e
    have hu := fst_wf (commitWrites_wf h ..) e
    simp only [recordShape_mem, modLaunch_mem]
    exact foldl_wf (fun _ _ hr => trim_wf hr ..) _ (foldl_wf (fun _ _ hr => commitInst_wf hr ..) _ hu)
theorem canonical_instancePlace (launch inst : Nat) : Canonical (execInstancePlace launch inst s) := by
  unfold execInstancePlace; (repeat' split)
  · exact h
  · extract_lets prov before t
    (repeat' split)
    · exact h
    · exact h
    · exact h
  · exact h
omit h in
@[simp] theorem clearCore_mem (id : Nat) (solo : Bool) : (s.clearCore id solo).mem = s.mem := rfl
theorem loadInst_wf (l : Launch) (img : Image) (i : Inst) (prov : Bool) : (s.loadInst l img i prov).mem.wf = true := by
  unfold State.loadInst
  extract_lets olds r t u v w
  have hu : u.mem.wf = true := foldl_wf (fun q c hq => by
    split
    · exact hq
    · rw [pairMode_mem, putCore_mem, clearCore_mem]; exact hq) _ (presetPbo_wf h ..)
  have hv : v.mem.wf = true := by unfold v; split <;> exact hu
  exact hv
theorem canonical_instanceLoad (launch inst : Nat) : Canonical (execInstanceLoad launch inst s) := by
  unfold execInstanceLoad; (repeat' split)
  · exact h
  · exact h
  · exact loadInst_wf h ..
  · exact loadInst_wf h ..
  · exact h
  · exact h
theorem canonical_provisionalEvict (launch inst : Nat) : Canonical (execProvisionalEvict launch inst s) := by
  unfold execProvisionalEvict; (repeat' split)
  · exact h
  · exact h
  · extract_lets cls definite wanted
    split
    · exact h
    · exact foldl_wf (fun t _ ht => by rw [modAt_mem]; exact ht) _ h
theorem canonical_instanceComplete (launch inst : Nat) : Canonical (execInstanceComplete launch inst s) := by
  unfold execInstanceComplete; (repeat' split)
  · exact h
  · exact h
  · exact h
  · exact completeInst_wf h ..
  · exact h
  · exact h
theorem completeLaunch_wf (l : Launch) : (s.completeLaunch l).mem.wf = true := by
  unfold State.completeLaunch; split
  rename_i t ok e
  have ht := fst_wf (writeDone_wf h _) e
  extract_lets u v
  have hv : v.mem.wf = true := by
    have hu : u.mem.wf = true := by unfold u; rw [dropLaunch_mem, urgentDone_mem]; exact ht
    unfold v; split <;> exact hu
  clear_value v
  (repeat' split)
  · exact queueError_wf hv ..
  · exact hv
  · exact settle_wf hv _
  · exact hv
theorem canonical_launchComplete (launch : Nat) : Canonical (execLaunchComplete launch s) := by
  unfold execLaunchComplete; split
  · exact h
  · rw [canonical_next]; split
    · exact completeLaunch_wf h _
    · exact h
theorem canonical_shapeSignalRead (launch : Nat) : Canonical (execShapeSignalRead launch s) := by
  unfold execShapeSignalRead; split
  · exact h
  · split
    · exact h
    · split <;> (rename_i e; have ht := fst_wf (frontRead_wf h ..) e)
      · rw [canonical_next]; split
        · exact deliverShape_wf ht ..
        · exact ht
      · exact queueError_wf ht ..
      · exact queueMcheck_wf ht ..

/-! ### LAUNCH, SHAPE and QSIG -/

theorem canonical_drainedFor {f : Out} (hf : Canonical f) : Canonical (s.drainedFor f) := by
  unfold State.drainedFor; split
  · simpa using h
  · exact hf
theorem canonical_readRecord (a key n : Nat) {f : Nat → Out} (hf : ∀ r, Canonical (f r)) : Canonical (s.readRecord a key n f) := by
  unfold State.readRecord; split
  · simpa using h
  · exact hf _
theorem canonical_launch (d : Dst) (a : Src) : Canonical (execLaunch d a s) := by
  unfold execLaunch; extract_lets addr u part v
  split
  · simpa using h
  · refine canonical_checked h _ fun key => ?_
    split
    · simpa using h
    · refine canonical_drainedFor h (canonical_readRecord h _ _ _ fun r => ?_)
      have hu : u.mem.wf = true := by unfold u; rw [showRelaxed_mem]; exact h
      split
      · exact hu
      · split
        split
        rename_i t l e
        have ht := fst_wf (dispatchLaunch_wf (by exact hu) ..) e
        exact ht
theorem canonical_shape (a b : Src) : Canonical (execShape a b s) := by
  unfold execShape; extract_lets x t u
  split
  · simpa using h
  split
  · simpa using h
  · refine canonical_drainedFor h ?_
    (repeat' split)
    · simpa using h
    · simpa using h
    · rename_i e
      have hu : u.mem.wf = true := by unfold u; rw [afterEngines_mem, showRelaxed_mem]; exact h
      have ht := fst_wf (deliverShape_wf hu ..) e
      exact ht
theorem canonical_qsig (a b : Src) (f : Nat → Nat → Nat) : Canonical (s.qsig a b f) := by
  refine canonical_checked h _ fun key => ?_
  split
  · simpa using h
  · refine canonical_drainedFor h ?_
    split
    · simpa using h
    · split
      rename_i t old e
      have ht := fst_wf (rmw_wf (by rw [showRelaxed_mem]; exact h) ..) e
      exact ht

end

end Sys2Proof.Machine
end

section
/-! Canonical memory under the packets of queues and the control queue's packets (R300 to R304, R415 to R418, R434). -/

namespace Sys2Proof.Machine

section
variable {s : State} (h : s.mem.wf = true)
include h

/-! ### Packets -/

theorem nextPacket_wf (p n : Nat) : (s.nextPacket p n).1.mem.wf = true := by
  unfold State.nextPacket; split
  · exact h
  · extract_lets isOpen a
    split
    · exact h
    · split <;> (rename_i e; have ht := fst_wf (frontRead_wf h ..) e)
      · split
        rename_i e
        exact fst_wf (by rw [readClock_mem]; exact ht) e
      · exact queueError_wf ht ..
      · exact queueMcheck_wf ht ..
theorem canonical_launchPacket (p : Fin 4) (n : Nat) : Canonical (execLaunchPacket p n s) := by
  unfold execLaunchPacket
  split <;> (rename_i e; have ht := fst_wf (nextPacket_wf h ..) e)
  · exact ht
  · extract_lets ty a
    split
    · exact ht
    split
    · exact queueError_wf ht ..
    split
    · exact queueWaits_wf ht ..
    split
    · exact queueError_wf ht ..
    · split <;> (rename_i e; have hu := fst_wf (frontRead_wf ht ..) e)
      · exact queueError_wf hu ..
      · exact queueMcheck_wf hu ..
      · split
        · exact queueError_wf hu ..
        · extract_lets w
          split
          rename_i v l e
          have hv := fst_wf (dispatchLaunch_wf (putQueue_wf hu _) ..) e
          exact grant_wf (by exact hv)
theorem tryWait_wf (q : Queue) (p : Nat) : (s.tryWait q p).mem.wf = true := by
  unfold State.tryWait; extract_lets a
  split
  · exact queueError_wf h ..
  · split <;> (rename_i e; have ht := fst_wf (frontRead_wf h ..) e)
    · exact queueError_wf ht ..
    · exact queueMcheck_wf ht ..
    · (repeat' split)
      · exact advance_wf ht _
      · exact ht
      · exact queueWaits_wf ht ..
theorem canonical_waitPacket (p : Fin 4) (n : Nat) : Canonical (execWaitPacket p n s) := by
  unfold execWaitPacket
  split <;> (rename_i e; have ht := fst_wf (nextPacket_wf h ..) e)
  · exact ht
  · (repeat' split)
    · exact ht
    · exact queueError_wf ht ..
    · exact tryWait_wf ht ..
theorem canonical_signalPacket (p : Fin 4) (n : Nat) : Canonical (execSignalPacket p n s) := by
  unfold execSignalPacket
  split <;> (rename_i e; have ht := fst_wf (nextPacket_wf h ..) e)
  · exact ht
  · rename_i t q pk c
    extract_lets a r
    have hr : r.1.mem.wf = true := asFront_wf ht _ _ _ fun u hu => by
      (repeat' split)
      · exact hu
      · exact writeRuns_wf hu ..
      · exact hu
      · exact hu
    clear_value r
    split
    · exact ht
    split
    · exact queueError_wf ht ..
    split
    · exact queueWaits_wf ht ..
    split
    · exact queueError_wf ht ..
    · split
      · exact queueError_wf hr ..
      · exact queueMcheck_wf hr ..
      · exact foldl_wf (by intro _ _ hu; exact hu) _ (advance_wf hr _)
theorem canonical_signalReread (p : Fin 4) (n : Nat) : Canonical (execSignalReread p n s) := by
  unfold execSignalReread; split
  · exact h
  split
  · exact h
  split
  · exact queueMcheck_wf h ..
  extract_lets q t a
  have ht : t.mem.wf = true := h
  clear_value t
  split
  · rw [canonical_next]; split
    · exact settle_wf ht _
    · exact ht
  split
  · exact settle_wf ht _
  split
  · exact ht
  · split <;> (rename_i e; have hu := fst_wf (frontRead_wf ht ..) e)
    · exact tryWait_wf hu ..
    · exact queueError_wf hu ..
    · exact queueMcheck_wf hu ..
theorem canonical_queuePark (p : Fin 4) (n : Nat) : Canonical (execQueuePark p n s) := by
  unfold execQueuePark; split
  · exact h
  · rw [canonical_next]; split
    · exact grant_wf (putQueue_wf h _)
    · exact h
theorem canonical_priorityRaise (p : Fin 4) (n : Nat) : Canonical (execPriorityRaise p n s) := by
  unfold execPriorityRaise; split
  · exact h
  · rw [canonical_next]; split <;> exact h
theorem canonical_queueTimeout (p : Fin 4) (n : Nat) : Canonical (execQueueTimeout p n s) := by
  unfold execQueueTimeout; split
  · exact h
  · extract_lets waits
    (repeat' split)
    · exact h
    · exact queueError_wf h ..
    · exact queueError_wf h ..
    · exact queueError_wf h ..
    · exact h

/-! ### The control queue -/

/-- Writes of the front end, to host-mapped pages too (R416). -/
theorem frontWriteHost_wf (p : Nat) (a : BitVec 16) (ad c : Nat) (data : List Byte) (host : Bool) :
    (s.frontWrite p a ad c data host).1.mem.wf = true :=
  asFront_wf h p a _ fun t ht => by
    split
    · exact writeRuns_wf ht ..
    · exact ht

/-- A control packet is refused, waits, or is answered after what it does (R415). -/
theorem canonical_controlPacket (p : Fin 4) (ty : Nat) (fields : List (Nat × Nat)) (ok : Nat → Bool)
    {f : State → Queue → Nat → Nat → Option (State × Nat)} (hf : ∀ t q x c u v, t.mem.wf = true → f t q x c = some (u, v) → u.mem.wf = true) :
    Canonical (s.controlPacket p ty fields ok f) := by
  unfold State.controlPacket
  split <;> (rename_i e; have ht := fst_wf (nextPacket_wf h ..) e)
  · exact ht
  · extract_lets res writable answer
    have ha : ∀ (u : State) v, u.mem.wf = true → (answer u v).mem.wf = true := fun u v hu => by
      unfold answer; rw [poke_mem]; exact frontWriteHost_wf hu ..
    clear_value answer
    split
    · exact ht
    · split
      · split
        · exact queueError_wf (ha _ _ ht) ..
        · split
          · exact queueWaits_wf ht ..
          · rename_i e; exact advance_wf (ha _ _ (hf _ _ _ _ _ _ ht e)) _
      · exact queueError_wf ht ..
theorem resumeQueue_wf (t : Queue) (rd : Nat) : (s.resumeQueue t rd).1.mem.wf = true := by
  unfold State.resumeQueue; extract_lets wr q
  split
  · exact queueMcheck_wf (by exact h) ..
  split
  · exact h
  · exact grant_wf (putQueue_wf h _)
theorem repair_wf {part p : Nat} {t : State} {v : Nat} (e : s.repair part p = some (t, v)) : t.mem.wf = true := by
  unfold State.repair at e; extract_lets n at e
  split at e
  · cases e
  split at e
  · cases e; exact h
  split at e
  · cases e; exact h
  split at e
  · cases e; exact h
  · exact fst_wf (resumeQueue_wf h ..) (Option.some.inj e)
theorem canonical_repairPacket (p : Fin 4) : Canonical (execRepairPacket p s) :=
  canonical_controlPacket h _ _ _ _ fun _ _ _ _ _ _ ht e => repair_wf ht e
theorem canonical_qcreate (p : Fin 4) : Canonical (execQcreate p s) := by
  refine canonical_controlPacket h _ _ _ _ fun t q x c u v ht e => ?_
  extract_lets at e
  split at e
  · split at e
    · cases e; exact ht
    · extract_lets at e
      split at e
      · cases e; exact ht
      · split at e
        · cases e; exact ht
        · cases e; exact grant_wf (mirror_wf (by exact ht) _)
  · cases e; exact ht
theorem configRead_wf (p : Nat) (q : Queue) (a n : Nat) : (s.configRead p q a n).1.mem.wf = true := by
  unfold State.configRead; split <;> (rename_i e; exact fst_wf (frontRead_wf h ..) e)
theorem putBlock_wf (p r : Nat) : (s.putBlock p r).mem.wf = true := by
  unfold State.putBlock; extract_lets n rg fg t u
  have hu : u.mem.wf = true := foldl_wf (fun _ _ hv => fgWrite_wf hv ..) _ h
  split <;> exact hu
theorem canonical_scrblk (p : Fin 4) : Canonical (execScrblk p s) := by
  refine canonical_controlPacket h _ _ _ _ fun t q x c u v ht e => ?_
  split at e
  extract_lets at e
  split at e
  · cases e; exact ht
  · split at e <;> (rename_i g; have hu := fst_wf (configRead_wf ht ..) g)
    · cases e; exact hu
    · split at e <;> cases e
      · exact putBlock_wf hu ..
      · exact hu
theorem canonical_rllimit (p : Fin 4) : Canonical (execRllimit p s) := by
  refine canonical_controlPacket h _ _ _ _ fun t q x c u v ht e => ?_
  split at e <;> cases e <;> exact ht
theorem canonical_peerset (p : Fin 4) : Canonical (execPeerset p s) := by
  refine canonical_controlPacket h _ _ _ _ fun t q x c u v ht e => ?_
  extract_lets n a at e
  have hr : (if a % 32 = 0 then t.configRead p.val q a (32 * n) else (t, none)).1.mem.wf = true := by
    split
    · exact configRead_wf ht ..
    · exact ht
  split at e <;> (rename_i g; have hu := fst_wf hr g)
  · cases e; exact hu
  · extract_lets at e
    split at e <;> cases e
    · exact foldl_wf (by intro _ _ hw; exact hw) _ hu
    · exact hu

end

end Sys2Proof.Machine
end

section
/-! Canonical memory under sampling records (R182 to R193) and speculation: the proposal queue, the draft-state region, SQCFG and the rounds of
the Scruple (R318 to R344). -/

namespace Sys2Proof.Machine

section
variable {s : State}

@[simp] theorem putSeq_mem (i e : Nat) : (s.putSeq i e).mem = s.mem := rfl
@[simp] theorem placeRollback_mem (i t : Nat) : (s.placeRollback i t).mem = s.mem := by
  simp only [State.placeRollback, modAt_mem]; split
  · rfl
  · exact putCore_mem ..

variable (h : s.mem.wf = true)
include h

/-! ### Sampling records -/

theorem putRecord_wf (eng : Nat) (j : CopyJob) (clock : Nat) (reads rec : List Run) (r : Nat) :
    (s.putRecord eng j clock reads rec r).mem.wf = true := by
  unfold State.putRecord; split
  rename_i t c e
  have ht := fst_wf (by rw [readClock_mem]; exact h) e
  split
  rename_i u n ts e
  exact copyEnd_wf (fst_wf (writeRuns_wf ht ..) e) ..
theorem recordGate_wf (eng : Nat) (j : CopyJob) (reads rec : List Run) {f : State → State} (hf : ∀ t, t.mem.wf = true → (f t).mem.wf = true) :
    (s.recordGate eng j reads rec f).mem.wf = true := by
  unfold State.recordGate; split
  · simpa using h
  · split
    rename_i t go e
    have ht := gated_wf h e
    split
    · exact hf _ ht
    · exact ht
theorem runCpys_wf (eng : Nat) : (s.runCpys eng).mem.wf = true := by
  unfold State.runCpys; split
  · exact h
  split
  · extract_lets w tile
    split
    · exact h
    · refine under_wf h _ fun t ht => ?_
      split
      · refine recordGate_wf ht _ _ _ _ fun u hu => ?_
        split
        · exact copyEnd_wf hu ..
        · extract_lets r
          split
          · exact copyEnd_wf hu ..
          · exact putRecord_wf hu ..
      · exact copyStop_wf ht ..
      · exact copyStop_wf ht ..
      · exact copyStop_wf ht ..
  · exact h
theorem runSmrg_wf (eng : Nat) : (s.runSmrg eng).mem.wf = true := by
  unfold State.runSmrg; split
  · exact h
  split
  · refine under_wf h _ fun t ht => ?_
    split
    · refine recordGate_wf ht _ _ _ _ fun u hu => ?_
      split
      · exact copyEnd_wf hu ..
      · extract_lets x y
        split
        · exact copyEnd_wf hu ..
        · exact putRecord_wf hu ..
    · exact copyStop_wf ht ..
    · exact copyStop_wf ht ..
    · exact copyStop_wf ht ..
  · exact h

/-! ### The proposal queue -/

theorem canonical_awaitPlace : Canonical s.awaitPlace := by
  simp only [State.awaitPlace]; split <;> simpa using h
theorem canonical_pqpush (a b : Src) : Canonical (execPqpush a b s) := by
  unfold execPqpush
  extract_lets addr w seq d ra part n t word
  have ht : t.mem.wf = true := h
  clear_value t
  split
  · simpa using h
  split
  · simpa using h
  split
  · simpa using h
  · split
    · simpa using h
    split
    · exact canonical_awaitPlace h
    · extract_lets key u
      have hu : u.mem.wf = true := by unfold u; rw [countRead_mem]; exact ht
      clear_value u
      split
      · simpa using ht
      · exact hu
  · simpa using h
theorem canonical_noticePost : Canonical (execNoticePost s) := by
  unfold execNoticePost; split
  · exact h
  · extract_lets t
    split
    rename_i u c ts e
    have hu := fst_wf (writeRuns_wf (show t.mem.wf = true by unfold t; rw [modCore_mem, focus_mem]; exact h) ..) e
    show (State.focus _ _).mem.wf = true
    rw [focus_mem]; exact hu
theorem canonical_pqtake (d : Dst) (dl : Delay) : Canonical (execPqtake d dl s) := by
  unfold execPqtake; (repeat' split)
  · simpa using h
  · simpa using h
  · simpa using h
  · exact h
  · exact h
theorem canonical_depth (d : Dst) (a : Src) (dl : Delay) : Canonical (execDepth d a dl s) := by
  simp only [execDepth]; split <;> simpa using h
theorem canonical_rbread (d : Dst) (dl : Delay) : Canonical (execRbread d dl s) := by
  unfold execRbread; (repeat' split) <;> simpa using h

/-! ### The draft-state region -/

theorem canonical_regionCheck (a b : Src) {f : Nat → Nat → BitVec 32 → Out} (hf : ∀ k g p, Canonical (f k g p)) :
    Canonical (s.regionCheck a b f) := by
  unfold State.regionCheck; extract_lets addr w
  split
  · simpa using h
  split
  · simpa using h
  split
  · simpa using h
  · split
    · simpa using h
    · exact hf _ _ _
theorem canonical_vstv (b a sb : Src) (k : Small) : Canonical (execVstv b a sb k s) :=
  canonical_regionCheck h _ _ fun _ _ _ => by split <;> simpa using h
theorem canonical_vldv (d : Dst) (a b : Src) (k : Small) (dl : Delay) : Canonical (execVldv d a b k dl s) :=
  canonical_regionCheck h _ _ fun _ _ _ => by split <;> simpa using h
theorem canonical_draftPartWrite : Canonical (execDraftPartWrite s) := by
  unfold execDraftPartWrite; split
  · exact h
  · split
    · exact h
    · exact writePart_wf (by exact h) ..
  · split <;> exact h

/-! ### SQCFG -/

theorem canonical_sqcfg (d : Dst) (a b : Src) : Canonical (execSqcfg d a b s) := by
  unfold execSqcfg; extract_lets i addr part queued j
  split
  · simpa using h
  · refine canonical_checked h _ fun _ => ?_
    split
    · simpa using h
    · refine canonical_checked h _ fun _ => ?_
      split
      · simpa using h
      split
      · simpa using h
      · simpa using h
      · split <;> simpa using h
theorem applySeq_wf (part i e clock : Nat) : (s.applySeq part i e clock).mem.wf = true := by
  unfold State.applySeq; extract_lets old g f e' t u
  have hu : u.mem.wf = true := by unfold u t; rw [putSeq_mem, modAt_mem]; exact h
  clear_value u
  split
  · exact hu
  · exact fgWrite_wf hu ..
theorem answerSeq_wf (part i addr clock : Nat) (rs : List Run) (own : List StorePiece) :
    (s.answerSeq part i addr clock rs own).mem.wf = true := by
  unfold State.answerSeq; split
  · simpa using h
  · extract_lets keys e
    split
    rename_i t c g
    have ht := fst_wf (by rw [readClock_mem]; exact h) g
    split
    rename_i u v g
    have hu : u.mem.wf = true := by
      split at g
      · cases g; exact ht
      · cases g; exact applySeq_wf ht ..
    exact hu
theorem canonical_sqcfgApply : Canonical (execSqcfgApply s) := by
  unfold execSqcfgApply; split
  · refine on_wf _ _ (fun t ht => ?_) h
    split
    · split
      rename_i u go e
      have hu := gated_wf ht e
      split
      · exact hu
      · exact answerSeq_wf (by exact hu) ..
    · exact ht
  · exact h
theorem canonical_sqrun (a b : Src) : Canonical (execSqrun a b s) := by
  unfold execSqrun; extract_lets addr
  split
  · simpa using h
  · refine canonical_checked h _ fun _ => canonical_checked h _ fun _ => ?_
    split
    · simpa using h
    · refine canonical_checked h _ fun _ => ?_
      split
      · simpa using h
      split
      · simpa using h
      · exact h

/-! ### Rounds -/

theorem roundEntry_wf (part clock : Nat) (seen : List Nat) (w : Nat) : (s.roundEntry part clock seen w).1.mem.wf = true := by
  unfold State.roundEntry
  extract_lets i d ra t
  split
  · exact h
  · extract_lets bad j u t' v
    have hv : v.mem.wf = true := by
      unfold v u; rw [putSeq_mem]; split
      · rw [record_mem]; exact h
      · exact h
    clear_value v
    split
    rename_i x c g
    have hx : x.mem.wf = true := by
      split at g
      · cases g; exact hv
      · exact fst_wf (fgWrite_wf hv ..) g
    rw [placeRollback_mem]; exact hx
theorem runRound_wf (part addr obj clock e : Nat) (hd : Option (Nat × Nat)) (seen : List Nat) (r : List ScrJob)
    (next : Nat → Option (Nat × Nat) → List Nat → ScrJob) : (s.runRound part addr obj clock e hd seen r next).mem.wf = true := by
  unfold State.runRound; extract_lets stop
  have hs : ∀ c x, (stop s c x).mem.wf = true := fun c x => engineFault_wf (by exact h) ..
  clear_value stop
  split
  · split
    rename_i t c g
    have ht := fst_wf (by rw [readClock_mem]; exact h) g
    split
    rename_i u rec c g
    have hu := fst_wf (roundEntry_wf ht ..) g
    split
    rename_i v ts g
    have hv : v.mem.wf = true := by
      split at g
      · split at g
        rename_i g'
        cases g
        exact fst_wf (writeRuns_wf hu ..) g'
      · cases g; exact hu
    exact engineDone_wf (by exact hv) ..
  · exact hs _ _
  · exact hs _ _
  · exact hs _ _
theorem canonical_roundEntryProcess : Canonical (execRoundEntryProcess s) := by
  unfold execRoundEntryProcess; split
  · split
    · exact h
    · refine on_wf _ _ (fun t ht => ?_) h
      split
      · exact ht
      · refine under_wf ht _ fun u hu => ?_
        extract_lets runs
        split
        rename_i v go e
        have hv := gated_wf hu e
        split
        · exact runRound_wf hv ..
        · exact hv
  · exact h

end

end Sys2Proof.Machine
end

section
/-! Canonical memory under system operations, translation, traps and pre-emption, recovery, boot and the monitor (R23, R238, R350, R364 to R391,
R397 to R412, R431). -/

namespace Sys2Proof.Machine

section
variable {s : State}

@[simp] theorem tlbDrop_mem (p : TlbEntry → Bool) (mine : BitVec 16 → Bool) : (s.tlbDrop p mine).mem = s.mem := by
  unfold State.tlbDrop; extract_lets t
  show t.mem = s.mem
  unfold t; rw [modAll_mem]
@[simp] theorem clearRegs_mem (n : Nat) : (s.clearRegs n).mem = s.mem := rfl
@[simp] theorem addPause_mem (p : Preempt) (now : Nat) : (s.addPause p now).mem = s.mem := by
  unfold State.addPause; dsimp only; split <;> rfl
@[simp] theorem resumeVictims_mem (p : Preempt) : (s.resumeVictims p).mem = s.mem := by
  simp only [State.resumeVictims]; rw [foldl_mem fun _ _ => modAt_mem .., addPause_mem]
@[simp] theorem keepRecord_mem (a b c : Nat) (x y : Word) : (s.keepRecord a b c x y).mem = s.mem := by
  simp [State.keepRecord]
@[simp] theorem scrubUnit_mem (st : RowStore) (row : Nat) (u : Nat × Nat × Nat) : (State.scrubUnit st row s u).mem = s.mem := by
  unfold State.scrubUnit; split
  · rfl
  · rw [countFix_mem]
@[simp] theorem tell_mem (w : String) (m : List Byte) : (s.tell w m).mem = s.mem := rfl
@[simp] theorem reportKept_mem : s.reportKept.mem = s.mem := foldl_mem (fun _ _ => tell_mem ..) _ s
@[simp] theorem beginUpdate_mem (img : FwImage) (slot : Bool) : (s.beginUpdate img slot).mem = s.mem := by
  unfold State.beginUpdate; split <;> rfl
@[simp] theorem updateFlash_mem (img : FwImage) : (s.updateFlash img).mem = s.mem := beginUpdate_mem ..
@[simp] theorem recoverFlash_mem (img : FwImage) : (s.recoverFlash img).mem = s.mem := by
  unfold State.recoverFlash; split <;> simp
@[simp] theorem flashStep_mem (u : FlashUpdate) : (s.flashStep u).mem = s.mem := by
  unfold State.flashStep; split
  · rfl
  · rfl
  · extract_lets b t
    have ht : t.mem = s.mem := rfl
    split
    · rw [rebooted_mem, ht]
    · exact ht
@[simp] theorem raiseSvn_mem (v : BitVec 32) : (s.raiseSvn v).mem = s.mem := by unfold State.raiseSvn; split <;> rfl
@[simp] theorem loadKey_mem (k : List Byte) : (s.loadKey k).mem = s.mem := by unfold State.loadKey; split <;> rfl

variable (h : s.mem.wf = true)
include h

/-! ### Privilege, translation, IDLE, LOCKW (R350, R365 to R367) -/

theorem canonical_needs (level : Nat) {f : Out} (hf : Canonical f) : Canonical (s.needs level f) := by
  unfold State.needs; split
  · simpa using h
  · exact hf
omit h in
/-- Coherent accesses that are performed at once keep the form, however many there are. -/
theorem flushCoh_wf : ∀ (n : Nat) {s : State}, s.mem.wf = true → (flushCoh n s).mem.wf = true
  | 0, _, h => h
  | n + 1, s, h => by
    unfold flushCoh; split
    · rename_i t e
      have ht := (canonical_coherentAccessPerform h).mem_wf e
      split
      · rename_i u g; exact flushCoh_wf n ((canonical_comAtomicApply ht).mem_wf g)
      · exact ht
    · exact h
theorem canonical_tlbi (p : TlbEntry → Bool) : Canonical (s.tlbi p) := by
  unfold State.tlbi; split
  · simpa using h
  · extract_lets part mine names t u
    have hu : u.mem.wf = true := by
      unfold u; rw [tlbDrop_mem, showRelaxed_mem]
      exact foldl_wf (fun _ _ ht => on_wf _ _ (fun _ hv => flushCoh_wf _ hv) ht) _ h
    split <;> simpa using hu
theorem canonical_tlbiVa (a b : Src) : Canonical (execTlbiVa a b s) := by
  refine canonical_needs h _ ?_
  (repeat' split)
  · simpa using h
  · simpa using h
  · exact canonical_tlbi h _
theorem canonical_tlbiAsid (b : Src) : Canonical (execTlbiAsid b s) := by
  refine canonical_needs h _ ?_
  split
  · simpa using h
  · exact canonical_tlbi h _
theorem canonical_idle : Canonical (execIdle s) := by
  refine canonical_needs h _ (canonical_waiting h ?_)
  extract_lets wake
  have hw : (wake s).mem.wf = true := by unfold wake; split <;> exact h
  clear_value wake
  (repeat' split)
  · exact hw
  · exact hw
  · exact h
theorem canonical_lockw (d : Dst) (a : Src) : Canonical (execLockw d a s) := by
  unfold execLockw; extract_lets n
  refine canonical_needs h _ ?_
  (repeat' split) <;> simpa using h

/-! ### Traps (R406 to R412) -/

theorem canonical_trapEntry : Canonical (execTrapEntry s) := by unfold execTrapEntry; (repeat' split) <;> exact h
theorem endForTrap_wf (c : Nat) : (s.endForTrap c).mem.wf = true := by
  unfold State.endForTrap; extract_lets n
  (repeat' split)
  · exact endCore_wf h ..
  · exact queueError_wf h ..
  · exact endLaunch_wf h _
theorem canonical_eret : Canonical (execEret s) := by
  refine canonical_needs h _ ?_
  (repeat' split) <;> simpa using h
theorem canonical_trapResume : Canonical (execTrapResume s) := by
  unfold execTrapResume; extract_lets cs r
  split
  · exact h
  · exact foldl_wf (fun _ _ ht => by rw [modAt_mem]; exact ht) _ h

/-! ### Pre-emption (R369 to R381) -/

theorem canonical_prmt (d : Dst) (a b : Src) : Canonical (execPrmt d a b s) := by
  unfold execPrmt; extract_lets addr
  refine canonical_needs h _ ?_
  split
  · simpa using h
  · refine canonical_checked h _ fun key => canonical_readRecord h _ _ _ fun r => ?_
    extract_lets part
    split
    · simpa using h
    · split
      rename_i t l e
      have ht : t.mem.wf = true := fst_wf h e
      rw [canonical_scalar]
      exact foldl_wf (fun _ _ hu => by rw [modAt_mem]; exact hu) _ ht
theorem canonical_preemptionStop : Canonical (execPreemptionStop s) := by
  unfold execPreemptionStop; extract_lets cs t
  split
  · exact h
  · exact foldl_wf (fun _ _ hu => by rw [modAt_mem]; exact hu) _ h
theorem canonical_urgentRelease : Canonical (execUrgentRelease s) := by
  unfold execUrgentRelease; split
  · exact h
  extract_lets vs
  split
  · exact h
  split
  · exact h
  split
  · exact completeLaunch_wf h _
  · split
    · extract_lets users cores t u v w x
      have ht : t.mem.wf = true := foldl_wf (fun _ _ hq => by rw [clearRegs_mem]; exact dropReserved_wf hq _) _ h
      have hv : v.mem.wf = true := foldl_wf (fun _ _ hq => by rw [putCore_mem]; exact hq) _ (presetPbo_wf ht ..)
      exact foldl_wf (fun _ _ hq => by rw [modAt_mem]; exact hq) _ hv
    · exact h
  · exact h
theorem canonical_urgentComplete : Canonical (execUrgentComplete s) := by
  unfold execUrgentComplete; split
  · exact h
  split
  · exact h
  split
  · exact h
  extract_lets names cs t u v w x
  have ht : t.mem.wf = true := foldl_wf (fun _ n hq => on_wf n _ (fun q hr => by rw [showRelaxed_mem]; exact hr) hq) _ h
  have hu : u.mem.wf = true := by
    unfold u; split
    · rw [focus_mem]; exact ht
    · exact ht
  have hx : x.mem.wf = true := hu
  clear_value x
  (repeat' split)
  · exact h
  · exact hx
  · exact completeLaunch_wf hx _
  · exact hx
theorem canonical_rsum (d : Dst) (a : Src) : Canonical (execRsum d a s) := by
  refine canonical_needs h _ ?_
  (repeat' split) <;> simpa using h
theorem saveInst_wf (slot idx : Nat) (i : Inst) : (s.saveInst slot idx i).mem.wf = true := by
  unfold State.saveInst
  extract_lets ns ts mine t v u
  have ht : t.mem.wf = true := foldl_wf (fun q x hq => by
    split
    · rw [atHome_mem]; exact hq
    · exact hq) _ h
  exact foldl_wf (fun _ _ hq => by rw [modAt_mem]; exact hq) _ ht
theorem canonical_fullStateSave : Canonical (execFullStateSave s) := by
  unfold execFullStateSave; split
  · extract_lets frozen
    (repeat' split)
    · exact h
    · exact h
    · exact saveInst_wf h ..
  · exact h
theorem canonical_fullStateRestore : Canonical (execFullStateRestore s) := by
  cases e : execFullStateRestore s with
  | next t => exact fullStateRestore_wf h e
  | _ => trivial

/-! ### Bank repair and scrubbing (R397, R398) -/

theorem canonical_bankFailMark (st : RowStore) (b : Nat) : Canonical (execBankFailMark st b s) := by
  simp only [execBankFailMark]; split
  · exact h
  · rw [canonical_next, record_mem]; exact h
theorem canonical_rebuildRow (st : RowStore) : Canonical (execRebuildRow st s) := by
  unfold execRebuildRow; extract_lets r key bad
  split
  · exact h
  · split
    · exact h
    · extract_lets t u
      have hu : u.mem.wf = true := by
        have ht : t.mem.wf = true := by unfold t; split <;> exact h
        exact ht
      rw [canonical_next]; split
      · rw [record_mem]; exact hu
      · exact hu
theorem canonical_scrubRow (st : RowStore) (row : Nat) : Canonical (execScrubRow st row s) := by
  unfold execScrubRow; split
  · exact h
  split
  · extract_lets key
    split <;> rw [canonical_next]
    · rw [countFix_mem]; exact h
    · rw [record_mem]; exact h
    · split
      · rw [record_mem]; exact h
      · exact h
  · extract_lets us bad t
    have ht : t.mem.wf = true := by unfold t; rw [foldl_mem fun _ _ => scrubUnit_mem ..]; exact h
    rw [canonical_next]; split
    · rw [record_mem]; exact ht
    · exact ht

/-! ### Boot, keys, the host (R23, R24, R238, R384 to R391) -/

theorem canonical_boot : Canonical (execBoot s) := by
  unfold execBoot; extract_lets p pb t u ub v slot img w
  have ht : t.mem.wf = true := by
    unfold t; split
    · rfl
    · exact h
  have hw : w.mem.wf = true := by
    unfold w; rw [modAll_mem]
    show u.mem.wf = true
    unfold u; rw [reportKept_mem]; exact ht
  clear_value w img slot
  split
  · exact ht
  split
  · exact createControls_wf (by exact hw)
  · exact hw
theorem canonical_clockChange (up : Bool) : Canonical (execClockChange up s) := by
  simp only [execClockChange, canonical_next]; split <;> exact h
theorem canonical_firmwareUpdate (img : FwImage) : Canonical (execFirmwareUpdate img s) := by
  unfold execFirmwareUpdate; rw [canonical_next]; split <;> simpa using h
theorem canonical_recoveryUpdate (img : FwImage) : Canonical (execRecoveryUpdate img s) := by
  unfold execRecoveryUpdate; rw [canonical_next]; split <;> simpa using h
theorem canonical_pldmFirmwareUpdate (img : FwImage) : Canonical (execPldmFirmwareUpdate img s) := by
  unfold execPldmFirmwareUpdate; rw [canonical_next]; (repeat' split) <;> simpa using h
theorem canonical_svnRaise (v : BitVec 32) : Canonical (execSvnRaise v s) := by
  unfold execSvnRaise; rw [canonical_next]; split <;> simpa using h
theorem canonical_keyLoad (k : List Byte) : Canonical (execKeyLoad k s) := by
  unfold execKeyLoad; rw [canonical_next, loadKey_mem]; exact h
theorem canonical_getMeasurements (m : List Byte) : Canonical (execGetMeasurements m s) := by
  simp only [execGetMeasurements, canonical_next, tell_mem]
  rw [foldl_mem fun _ _ => tell_mem ..]; exact h
theorem canonical_finish (m : List Byte) : Canonical (execFinish m s) := by
  simp only [execFinish, canonical_next]; split
  · exact h
  · rw [loadKey_mem]; exact h
theorem canonical_hostWrite (addr : Nat) (data : List Byte) : Canonical (execHostWrite addr data s) := by
  unfold execHostWrite; split
  · exact h
  · extract_lets lines
    split
    rename_i t c e
    have ht := fst_wf (foldl_keeps (fun a : State × Nat => a.1.mem.wf = true) _
      (fun _ _ ha => by rw [engineLine_mem]; exact ha) lines (s, s.boot.hostPts) h) e
    exact putBytes_wf ht ..
theorem canonical_hostRead (addr n : Nat) : Canonical (execHostRead addr n s) := by
  unfold execHostRead; split
  · exact h
  · split
    rename_i t c e
    have ht := fst_wf (by rw [readClock_mem]; exact h) e
    exact foldl_wf (fun _ _ hu => by
      split
      · rw [record_mem]; exact hu
      · exact hu) _ ht

/-! ### The monitor (R383, R385, R409, R431) -/

omit h in
theorem Canonical.stateOr_wf {o : Out} (ho : Canonical o) (h : s.mem.wf = true) : (o.stateOr s).mem.wf = true := by
  cases o with
  | next t => exact ho
  | _ => exact h
theorem carryOut_wf (r : Config.SysReq) : (s.carryOut r).mem.wf = true := by
  cases r with
  | context => simpa [State.carryOut] using h
  | save n => exact on_wf n _ (fun t ht => (canonical_fullStateSave ht).stateOr_wf ht) h
  | restore => exact (canonical_fullStateRestore h).stateOr_wf h
  | raiseSvn v => simpa [State.carryOut] using h
  | readLog i off =>
    unfold State.carryOut; dsimp only; split
    · exact putBytes_wf h ..
    · exact h
  | partmap v => exact putCtl_wf h ..
  | depthtab v => exact putCtl_wf h ..
  | keyctl v => exact putCtl_wf h ..
  | repairControl part rd =>
    unfold State.carryOut; dsimp only; split
    · exact resumeQueue_wf h ..
    · exact h
  | other => exact h
theorem serveRequest_wf (r : Config.SysReq) : (s.serveRequest r).mem.wf = true := by
  unfold State.serveRequest; split
  · exact carryOut_wf h r
  · exact h
theorem canonical_trapForward (grant : Bool) : Canonical (execTrapForward grant s) := by
  unfold execTrapForward; split
  · exact h
  split
  · exact h
  extract_lets t
  have ht : t.mem.wf = true := by unfold t; rw [record_mem]; exact h
  split
  · rw [canonical_next, modCore_mem]; exact carryOut_wf ht _
  · exact endForTrap_wf (by exact ht) _
theorem canonical_monitorTrapHandle : Canonical (execMonitorTrapHandle s) := by
  unfold execMonitorTrapHandle; extract_lets c src cause back
  have hb : ∀ t : State, t.mem.wf = true → (back t).mem.wf = true := fun _ ht => ht
  clear_value back
  (repeat' split)
  · exact h
  · exact hb _ (serveRequest_wf h _)
  · exact hb _ (by rw [record_mem]; exact h)
  · rw [canonical_next, rebooted_mem, keepRecord_mem]; exact h

end

end Sys2Proof.Machine
end

section
/-! Canonical memory under the vector, quantisation, scalar, sum-product and matrix operations and the vector accesses (R94, R109 to R180). -/

namespace Sys2Proof.Machine

section
variable {s : State}

@[simp] theorem setTile_mem (t : Nat) (xs : List Nat) : (s.setTile t xs).mem = s.mem := rfl
@[simp] theorem setTileFmt_mem (t : Nat) (f : TileFmt) : (s.setTileFmt t f).mem = s.mem := rfl
@[simp] theorem setAcc_mem (f : TileFmt) (a : Nat) (xs : List Nat) : (s.setAcc f a xs).mem = s.mem := by
  unfold State.setAcc; split <;> rfl
@[simp] theorem zeroTiles_mem (n : Nest) : (s.zeroTiles n).mem = s.mem := foldl_mem (by intros; rfl) _ s
@[simp] theorem setHead_mem (n : Nest) : (s.setHead n).mem = s.mem := rfl
@[simp] theorem popArray_mem : s.popArray.mem = s.mem := rfl
@[simp] theorem arrayFault_mem (c : Nat) (x : Word) : (s.arrayFault c x).mem = s.mem := by
  simp only [State.arrayFault, modMtx_mem]; split <;> simp
@[simp] theorem stopNest_mem (n : Nest) (c : Nat) : (s.stopNest n c).mem = s.mem := by simp [State.stopNest]
@[simp] theorem addStep_mem (n : Nest) (c : Nat) (ra rb : List (List Run)) (a : Nat) : (s.addStep n c ra rb a).mem = s.mem := by
  simp [State.addStep]
@[simp] theorem stepNow_mem (n : Nest) (c a : Nat) (ra rb : List (List Run)) : (s.stepNow n c a ra rb).mem = s.mem := by
  unfold State.stepNow; extract_lets w bad
  (repeat' split)
  · exact stopNest_mem ..
  · exact stopNest_mem ..
  · exact addStep_mem ..
@[simp] theorem askStep_mem (n : Nest) : (s.askStep n).mem = s.mem := by
  unfold State.askStep; (repeat' split) <;> simp

variable (h : s.mem.wf = true)
include h

/-! ### Vectors and quantisation (R109 to R135) -/

theorem canonical_ownArray {f : Out} (hf : Canonical f) : Canonical (s.ownArray f) := by
  unfold State.ownArray; split
  · simpa using h
  · exact hf
theorem canonical_typed (l : List Ty) (ty : Ty) {f : Out} (hf : Canonical f) : Canonical (s.typed l ty f) := by
  unfold State.typed; split
  · exact hf
  · simpa using h
theorem canonical_lanewise (lat : Nat) (d : Dst) (k : Small) (w n : Nat) (f : Nat → Nat × Fl) : Canonical (s.lanewise lat d k w n f) := by
  unfold State.lanewise; dsimp only; rw [canonical_next]; split <;> simpa using h
theorem canonical_fused (d : Dst) (a b c : Src) (ty : Ty) (k : Small) (np nc : Bool) : Canonical (s.fused d a b c ty k np nc) := by
  unfold State.fused; split
  · simpa using h
  · exact canonical_lanewise h ..
theorem canonical_vcvt (d : Dst) (a : Src) (tyd tys : Ty) (rm : Rm) (k : Small) (sat : Bool) : Canonical (execVcvt d a tyd tys rm k sat s) := by
  unfold execVcvt; extract_lets wide w n
  split
  · simpa using h
  · exact canonical_lanewise h ..
theorem canonical_vcmp (kd : Small) (cc : VCond) (a b : Src) (k : Small) (ty : Ty) : Canonical (execVcmp kd cc a b k ty s) := by
  refine canonical_typed h _ _ ?_
  extract_lets rs fl t
  rw [canonical_next]; split <;> exact h
theorem canonical_reduce (d : Dst) (a : Src) (k : Small) (ty : Ty) (ident : Nat) (f : Nat → Nat → Nat × Fl) :
    Canonical (s.reduce d a k ty ident f) := by
  refine canonical_typed h _ _ ?_
  extract_lets l
  split
  extract_lets t
  rw [canonical_next]; split <;> exact h
theorem canonical_vmaxb (d : Dst) (a : Src) (bf : Bf) : Canonical (execVmaxb d a bf s) := by
  unfold execVmaxb; split <;> simpa using h
theorem canonical_vqnt (d : Dst) (a : Src) (bf : Bf) : Canonical (execVqnt d a bf s) := by
  unfold execVqnt; (repeat' split)
  · simpa using h
  · simpa using h
  · extract_lets rs v fl t
    rw [canonical_next]; split <;> exact h
theorem canonical_vdqnt (d : Dst) (a b : Src) (bf : Bf) : Canonical (execVdqnt d a b bf s) := by
  unfold execVdqnt; extract_lets side
  split
  · simpa using h
  · rw [canonical_next]; split <;> exact h
theorem canonical_vdefer (v : RegNo) (n : BitVec 2) (b : Src) (k : Small) : Canonical (execVdefer v n b k s) := by
  unfold execVdefer; dsimp only; (repeat' split) <;> simpa using h
theorem canonical_vdrain (v : RegNo) (n : BitVec 2) (b : Src) : Canonical (execVdrain v n b s) := by
  unfold execVdrain; split
  · simpa using h
  · split
    extract_lets t u origin
    have hu : u.mem = t.mem := foldl_mem (by intros; rfl) _ _
    rw [canonical_next, post_mem, hu]; exact h
theorem canonical_divide (d : Dst) (b v : Word) : Canonical (s.divide d b v) := by
  unfold State.divide; split <;> simpa using h

/-! ### Vector accesses (R136 to R140) -/

theorem canonical_vload (d : Dst) (k : Small) (dl : Delay) (w n al : Nat) (aligned : LaneAddrs → List Nat) (addr : Nat → Nat) :
    Canonical (s.vload d k dl w n al aligned addr) :=
  canonical_checked h _ fun _ => canonical_checked h _ fun x => by
    split
    · simpa using h
    · split
      · exact h
      · exact canonical_checked h _ fun _ => canonical_load h ..
theorem canonical_vstore (b : Src) (k : Small) (w n al : Nat) (aligned : LaneAddrs → List Nat) (addr : Nat → Nat) :
    Canonical (s.vstore b k w n al aligned addr) :=
  canonical_checked h _ fun _ => canonical_checked h _ fun x => by
    split
    · exact h
    · refine canonical_checked h _ fun _ => ?_
      split
      · simpa using h
      · exact canonical_store h ..
theorem canonical_vldl (d : Dst) (a : Src) (off : BitVec 6) (k : Small) (dl : Delay) : Canonical (execVldl d a off k dl s) := by
  unfold execVldl; extract_lets act base
  split
  · split
    · simpa using h
    · exact h
  · refine canonical_checked h _ fun _ => ?_
    split
    · simpa using h
    · exact canonical_load h ..
theorem canonical_vstl (b a : Src) (off : BitVec 14) (k : Small) : Canonical (execVstl b a off k s) := by
  unfold execVstl; extract_lets act
  split
  · exact h
  · exact canonical_checked h _ fun _ => canonical_store h ..

/-! ### Sum-product units (R171 to R180) -/

theorem canonical_bankTrap (b p : Nat) : Canonical (s.bankTrap b p) := by simpa [State.bankTrap] using h
theorem canonical_goodRegs (cs : List Nat) {f : Out} (hf : Canonical f) : Canonical (s.goodRegs cs f) := by
  unfold State.goodRegs; split
  · simpa using h
  · exact hf
theorem canonical_spePass (sh : BitVec 6) (idx reads late : List Nat) (allow phase lat : Nat) {f : State → Out}
    (hf : ∀ t, t.mem.wf = true → Canonical (f t)) : Canonical (s.spePass sh idx reads late allow phase lat f) := by
  refine canonical_ownArray h ?_
  split
  · simpa using h
  · refine canonical_goodRegs h _ ?_
    split
    split
    extract_lets xr xw t
    split
    · exact canonical_bankTrap h ..
    split
    · exact canonical_bankTrap h ..
    · exact hf _ (by split <;> exact h)
theorem canonical_speup (sh : BitVec 6) (tm : BitVec 4) (z : BitVec 12) : Canonical (execSpeup sh tm z s) := by
  unfold execSpeup; extract_lets shp sp bs roots reads
  refine canonical_spePass h _ _ _ _ _ _ _ fun t ht => ?_
  extract_lets rs fl u
  rw [canonical_next]; split <;> exact ht
theorem canonical_spedn (sh : BitVec 6) (tm : BitVec 4) (z : BitVec 12) : Canonical (execSpedn sh tm z s) := by
  unfold execSpedn; extract_lets shp sp off bs leaves roots reads
  exact canonical_spePass h _ _ _ _ _ _ _ fun t ht => ht
theorem canonical_zBlock (z : BitVec 12) {f : Out} (hf : Canonical f) : Canonical (s.zBlock z f) := by
  refine canonical_ownArray h ?_
  split
  · simpa using h
  · exact hf
theorem canonical_zReadBlock (z : BitVec 12) {f : Out} (hf : Canonical f) : Canonical (s.zReadBlock z f) :=
  canonical_zBlock h z (canonical_goodRegs h _ hf)
theorem canonical_specvt (z : BitVec 12) (f : Nat → Nat × Fl) : Canonical (s.specvt z f) := by
  refine canonical_zReadBlock h z ?_
  extract_lets rs fl t
  rw [canonical_next]; split <;> exact h

/-! ### The matrix array (R141 to R160) -/

theorem canonical_ownDesc (addr n : Nat) (dst : LandDst) : Canonical (s.ownArray (s.descRead addr n dst fun t => .next t)) :=
  canonical_ownArray h (canonical_descRead h _ _ _ fun _ ht => ht)
theorem canonical_mgo (sa sb : RegNo) (acc : Small) (accum ser : Bool) : Canonical (execMgo sa sb acc accum ser s) := by
  unfold execMgo; extract_lets a b w p n empty xs
  refine canonical_ownArray h ?_
  split
  · simpa using h
  split
  · simpa using h
  split
  · simpa using h
  · refine canonical_checked h _ fun _ => ?_
    (repeat' split)
    · exact h
    · rw [canonical_next, zeroTiles_mem]; exact h
    · exact h
    · exact h
theorem canonical_msync : Canonical (execMsync s) := by
  refine canonical_ownArray h ?_
  (repeat' split)
  · simpa using h
  · simpa using h
  · exact h
  · exact h
theorem canonical_tileMove (acc : Nat) (w bad : Bool) {f : Out} (hf : Canonical f) : Canonical (s.tileMove acc w bad f) := by
  unfold State.tileMove; extract_lets ts
  refine canonical_ownArray h ?_
  (repeat' split)
  · simpa using h
  · simpa using h
  · simpa using h
  · exact hf
theorem canonical_mza (acc : Small) : Canonical (execMza acc s) := by
  refine canonical_tileMove h _ _ _ ?_
  extract_lets t z
  rw [canonical_next]; split <;> exact h
theorem canonical_partMove (acc : Nat) (part : BitVec 2) (w : Bool) {f : Bool → Out} (hf : ∀ b, Canonical (f b)) :
    Canonical (s.partMove acc part w f) := canonical_tileMove h _ _ _ (hf _)
theorem canonical_mtov (d : Dst) (acc : Small) (row : BitVec 6) (part : BitVec 2) : Canonical (execMtov d acc row part s) :=
  canonical_partMove h _ _ _ fun wide => by
    extract_lets at' t
    rw [apply_ite Canonical]; split
    · exact canonical_trap.2 h
    · cases wide <;> exact h
theorem canonical_mfromv (a : Src) (acc : Small) (row : BitVec 6) (part : BitVec 2) : Canonical (execMfromv a acc row part s) :=
  canonical_partMove h _ _ _ fun wide => by split <;> exact h
theorem canonical_mepi (acc : Small) (a : Src) : Canonical (execMepi acc a s) := by
  refine canonical_ownArray h ?_
  split
  · simpa using h
  · refine canonical_descRead h _ _ _ fun t ht => ?_
    split
    · simpa using h
    · exact ht
theorem arrayStep_wf (n : Nest) (c : Nat) : (s.arrayStep n c).mem.wf = true := by
  unfold State.arrayStep; extract_lets w cs k acc
  split
  · rw [stopNest_mem]; exact h
  · rw [stopNest_mem]; exact h
  · rw [stopNest_mem]; exact h
  · rw [stopNest_mem]; exact h
  · split
    · split
      rename_i t go e
      have ht := gated_wf h e
      split
      · rw [stepNow_mem]; exact ht
      · exact ht
    · rw [stopNest_mem]; exact h
  · exact h
theorem canonical_arrayStep : Canonical (execArrayStep s) := by
  unfold execArrayStep; (repeat' split)
  · exact h
  · exact h
  · exact under_wf h _ fun t ht => by rw [askStep_mem]; exact ht
  · exact under_wf h _ fun t ht => arrayStep_wf ht ..
  · exact h
theorem canonical_mgoComplete : Canonical (execMgoComplete s) := by
  unfold execMgoComplete; (repeat' split)
  · exact h
  · exact h
  · rw [canonical_next, popArray_mem, zeroTiles_mem]; exact h
  · exact h
  · exact h
theorem epiReady_wf (j : Issued) (w c : Nat) : (s.epiReady j w c).mem.wf = true := by
  unfold State.epiReady; (repeat' split)
  · exact h
  · exact h
  · exact h
  · exact setReady_wf h ..
theorem epiBegin_wf (e : Epi) (w c : Nat) (f : TileFmt) (rows : List (List Run)) (bias : List Run) :
    (s.epiBegin e w c f rows bias).mem.wf = true := by
  unfold State.epiBegin; extract_lets bytes
  split
  split
  rename_i t c' g
  have ht := fst_wf (by rw [readClock_mem]; exact h) g
  extract_lets ps e'
  rw [modMtx_mem, coverUnits_mem]; exact ht
theorem epiStep_wf (e : Epi) (w obj c : Nat) (ps : List StorePiece) : (s.epiStep e w obj c ps).mem.wf = true := by
  cases ps with
  | nil =>
    refine reports_wf h _ _ _ fun t ht => ?_
    split
    · exact engineFault_wf (by exact ht) ..
    · exact epiReady_wf (engineDone_wf (by exact ht) ..) ..
  | cons p r =>
    rw [State.epiStep]; split
    · simpa using h
    · split
      rename_i t go g
      have ht := gated_wf h g
      split
      · exact ht
      · split
        rename_i u c' t' g'
        have hu := fst_wf (writeRun_wf ht ..) g'
        exact hu
theorem runEpi_wf (e : Epi) (d : BitVec 512) (c : Nat) : (s.runEpi e d c).mem.wf = true := by
  unfold State.runEpi; extract_lets w t f info fault
  have hf : ∀ o k x, (fault s o k x).mem.wf = true := fun o k x => reports_wf h _ _ _ fun u hu => engineFault_wf (by exact hu) ..
  have ha : ∀ (u : State) k, u.mem.wf = true → (u.popArray.arrayFault k info).mem.wf = true := fun u k hu => by
    rw [arrayFault_mem]; exact hu
  clear_value fault
  split
  · exact ha _ _ h
  split
  · exact ha _ _ h
  split
  · exact epiStep_wf h ..
  split
  · exact hf ..
  split
  · split
    · simpa using h
    · split
      rename_i u go g
      have hu := gated_wf h g
      (repeat' split)
      · exact hu
      · exact ha _ _ hu
      · exact epiBegin_wf hu ..
  · exact ha _ _ h
  · exact ha _ _ h
  · exact hf ..
theorem canonical_epilogueRun : Canonical (execEpilogueRun s) := by
  unfold execEpilogueRun; (repeat' split)
  · exact h
  · exact under_wf h _ fun t ht => runEpi_wf ht ..
  · exact h
  · exact h

end

end Sys2Proof.Machine
end

section
/-! Canonical memory under every instruction and event: the match from an instruction to its meaning (R4, R212). -/

namespace Sys2Proof.Machine

section
variable {s : State} (h : s.mem.wf = true)
include h

theorem canonical_stbind (o : Src) (n : RegNo) (c : Src) : Canonical (execStbind o n c s) := by
  unfold execStbind; extract_lets g
  exact canonical_cIssue h _ _ fun _ => h
theorem canonical_sysc (a : Src) : Canonical (execSysc a s) := by
  unfold execSysc; split
  · simpa using h
  · simpa using h

/-- Whatever an instruction or event does, it keeps the canonical form of memory: each in the group of the operation that it shares, then those
with a lemma of their own. -/
theorem exec_canonical (i : Instr) : Canonical (exec i s) := by
  unfold exec
  cases i with
  | add | sub | and | or | xor | andn | shl | shr | sra | rol | minI64 | minN64 | maxI64 | maxN64 | clz | ctz | popc | mov | sel | bext
  | bins | sextI8 | sextI16 | sextI32 | lea | wrap | mul | mulhI64 | mulhN64 | cmp | cmpImm | pand | por | pnot | addImm | andImm | orImm
  | xorImm | shlImm | shrImm | sraImm | rolImm | mulImm | li | lih | tbReady | kand | kor | knot | kpopc | vctw | landingDataArrival
  | getVersion | getCapabilities | negotiateAlgorithms | getDigests | getCertificate | challenge | keyExchange | keyUpdate | endSession
  | pldmBase | pldmPlatformMonitoring | pldmFru | portDown | nop | splitCycle | isync | scrubPassEnd | packageReset => exact h
  | divI64 | divN64 | remI64 | remN64 => exact canonical_divide h ..
  | ptb | ptbReg => exact canonical_prepare h ..
  | ctlwCvcur | ctlwEvt | ctlwPtroot | ctlwKeyctl => exact canonical_ctlWrite h _ _ h
  | ld | ldAcq => exact canonical_loadScalar h ..
  | st | stRel => exact canonical_storeScalar h ..
  | amoAdd | amoAnd | amoOr | amoXor | amoSwap | amoMin | amoMax => exact canonical_amo h ..
  | fence | fenceX => exact canonical_fence h ..
  | boinit | boarm => exact canonical_boWrite h ..
  | cwb | cinv => exact canonical_cacheOp h ..
  | qsigSet | qsigAdd | qsigOr => exact canonical_qsig h ..
  | sysc => exact canonical_sysc h _
  | trap | bkpt => exact canonical_trapNext.2 h
  | vadd | vsub | vmul | vmin | vmax | vdiv | vabs | vneg | vand | vor | vxor | vshl | vshr | vsra | vsqrt | vrcp | vrsq | vfex2 | vlg2
  | vgetx | vinsx | vrndi | vbcast | viota | vperm => exact canonical_typed h _ _ (canonical_lanewise h ..)
  | vsel | vext | vins => exact canonical_typed h _ _ h
  | vfma | vfms | vfnma => exact canonical_fused h ..
  | vredadd | vredmax | vredmin => exact canonical_reduce h ..
  | vld | vlds | vgath => exact canonical_vload h ..
  | vst | vsts | vscat => exact canonical_vstore h ..
  | mstrm | mnest | speshp => exact canonical_ownDesc h ..
  | speld | speza => exact canonical_zBlock h _ h
  | spest => exact canonical_zReadBlock h _ h
  | specvtF32Sp32 | specvtSp32F32 => exact canonical_specvt h ..
  | cpy | cpyp | cpys | smrg => exact canonical_cIssue h _ _ fun _ => h
  | stbind => exact canonical_stbind h ..
  | copyEngineRun => exact runCopy_wf h _
  | cpysRecordUpdate => exact runCpys_wf h _
  | smrgRecordUpdate => exact runSmrg_wf h _
  | engineBankAccess => exact moveUnit_wf h _
  | powerLoss | thermalTrip => exact rfl
  | bar | ebar => exact canonical_arrive h ..
  | tlbiAll => exact canonical_needs h _ (canonical_tlbi h _)
  | headerTransfer => exact canonical_headerTransfer h ..
  | lockHeader => exact canonical_lockHeader h ..
  | ctlr => exact canonical_ctlr h ..
  | ctlw => exact canonical_ctlw h ..
  | ctlwArrmode => exact canonical_ctlwArrmode h ..
  | ctlwAsid => exact canonical_ctlwAsid h ..
  | ctlwPartmap => exact canonical_ctlwPartmap h ..
  | cas => exact canonical_cas h ..
  | bowait => exact canonical_bowait h ..
  | sev => exact canonical_sev h ..
  | fork => exact canonical_fork h ..
  | launch => exact canonical_launch h ..
  | shape => exact canonical_shape h ..
  | pqpush => exact canonical_pqpush h ..
  | sqrun => exact canonical_sqrun h ..
  | sqcfg => exact canonical_sqcfg h ..
  | pqtake => exact canonical_pqtake h ..
  | depth => exact canonical_depth h ..
  | rbread => exact canonical_rbread h ..
  | tlbiVa => exact canonical_tlbiVa h ..
  | tlbiAsid => exact canonical_tlbiAsid h ..
  | lockw => exact canonical_lockw h ..
  | prmt => exact canonical_prmt h ..
  | rsum => exact canonical_rsum h ..
  | vcvt => exact canonical_vcvt h ..
  | vcmp => exact canonical_vcmp h ..
  | vmaxb => exact canonical_vmaxb h ..
  | vqnt => exact canonical_vqnt h ..
  | vdqnt => exact canonical_vdqnt h ..
  | vdefer => exact canonical_vdefer h ..
  | vdrain => exact canonical_vdrain h ..
  | vldl => exact canonical_vldl h ..
  | vldv => exact canonical_vldv h ..
  | vstl => exact canonical_vstl h ..
  | vstv => exact canonical_vstv h ..
  | mgo => exact canonical_mgo h ..
  | mza => exact canonical_mza h ..
  | mepi => exact canonical_mepi h ..
  | mtov => exact canonical_mtov h ..
  | mfromv => exact canonical_mfromv h ..
  | speup => exact canonical_speup h ..
  | spedn => exact canonical_spedn h ..
  | cpyg => exact canonical_cpyg h ..
  | boAddition => exact canonical_boAddition h ..
  | send => exact canonical_send h ..
  | remoteChunkArrival => exact canonical_remoteChunkArrival h ..
  | recv => exact canonical_recv h ..
  | recvadd => exact canonical_recvadd h ..
  | ttset => exact canonical_ttset h ..
  | tready => exact canonical_tready h ..
  | twait => exact canonical_twait h ..
  | tileFiringStart => exact canonical_tileFiringStart h ..
  | tileChunkStage => exact canonical_tileChunkStage h ..
  | tileFiringComplete => exact canonical_tileFiringComplete h ..
  | sendPhaseEnd => exact canonical_sendPhaseEnd h ..
  | transportTimeout => exact canonical_transportTimeout h ..
  | instanceLoad => exact canonical_instanceLoad h ..
  | instanceComplete => exact canonical_instanceComplete h ..
  | launchPacket => exact canonical_launchPacket h ..
  | waitPacket => exact canonical_waitPacket h ..
  | signalPacket => exact canonical_signalPacket h ..
  | signalReread => exact canonical_signalReread h ..
  | queuePark => exact canonical_queuePark h ..
  | priorityRaise => exact canonical_priorityRaise h ..
  | queueTimeout => exact canonical_queueTimeout h ..
  | instancePlace => exact canonical_instancePlace h ..
  | provisionalEvict => exact canonical_provisionalEvict h ..
  | shapeSignalRead => exact canonical_shapeSignalRead h ..
  | launchComplete => exact canonical_launchComplete h ..
  | trapForward => exact canonical_trapForward h ..
  | bankFailMark => exact canonical_bankFailMark h ..
  | rebuildRow => exact canonical_rebuildRow h ..
  | scrubRow => exact canonical_scrubRow h ..
  | clockChange => exact canonical_clockChange h ..
  | hostWrite => exact canonical_hostWrite h ..
  | hostRead => exact canonical_hostRead h ..
  | repairPacket => exact canonical_repairPacket h ..
  | qcreate => exact canonical_qcreate h ..
  | scrblk => exact canonical_scrblk h ..
  | rllimit => exact canonical_rllimit h ..
  | peerset => exact canonical_peerset h ..
  | firmwareUpdate => exact canonical_firmwareUpdate h ..
  | recoveryUpdate => exact canonical_recoveryUpdate h ..
  | svnRaise => exact canonical_svnRaise h ..
  | keyLoad => exact canonical_keyLoad h ..
  | getMeasurements => exact canonical_getMeasurements h ..
  | finish => exact canonical_finish h ..
  | pldmFirmwareUpdate => exact canonical_pldmFirmwareUpdate h ..
  | lockHoldEnd => exact canonical_lockHoldEnd h
  | cvadv => exact canonical_cvadv h
  | stRelPerform => exact canonical_stRelPerform h
  | comAtomicApply => exact canonical_comAtomicApply h
  | cacheOpComplete => exact canonical_cacheOpComplete h
  | barRelease => exact canonical_barRelease h
  | ebarRelease => exact canonical_ebarRelease h
  | wfe => exact canonical_wfe h
  | eventLanding => exact canonical_eventLanding h
  | join => exact canonical_join h
  | taskend => exact canonical_taskend h
  | exit => exact canonical_exit h
  | stealProbe => exact canonical_stealProbe h
  | taskDispatch => exact canonical_taskDispatch h
  | completionNotice => exact canonical_completionNotice h
  | noticePost => exact canonical_noticePost h
  | sqcfgApply => exact canonical_sqcfgApply h
  | idle => exact canonical_idle h
  | eret => exact canonical_eret h
  | scaleLatchWrite => exact canonical_scaleLatchWrite h
  | draftPartWrite => exact canonical_draftPartWrite h
  | arrayStep => exact canonical_arrayStep h
  | mgoComplete => exact canonical_mgoComplete h
  | msync => exact canonical_msync h
  | epilogueRun => exact canonical_epilogueRun h
  | sendChunkLanding => exact canonical_sendChunkLanding h
  | recvaddCombine => exact canonical_recvaddCombine h
  | ttsetApply => exact canonical_ttsetApply h
  | resultWrite => exact canonical_resultWrite h
  | landing => exact canonical_landing h
  | scheduledAccessPerform => exact canonical_scheduledAccessPerform h
  | coherentAccessPerform => exact canonical_coherentAccessPerform h
  | ptsDrift => exact canonical_ptsDrift h
  | pageWalkComplete => exact canonical_pageWalkComplete h
  | roundEntryProcess => exact canonical_roundEntryProcess h
  | preemptionStop => exact canonical_preemptionStop h
  | urgentRelease => exact canonical_urgentRelease h
  | urgentComplete => exact canonical_urgentComplete h
  | fullStateSave => exact canonical_fullStateSave h
  | trapEntry => exact canonical_trapEntry h
  | monitorTrapHandle => exact canonical_monitorTrapHandle h
  | trapResume => exact canonical_trapResume h
  | boot => exact canonical_boot h
  | fullStateRestore => exact canonical_fullStateRestore h

end

end Sys2Proof.Machine
end

section
/-! Canonical memory under a step: bundles that are judged, cycles, what is due and what is under way (R24 to R33, R278, R430). -/

namespace Sys2Proof.Machine

section
variable {s : State}

@[simp] theorem atSlot_mem (p : Nat) : (s.atSlot p).mem = s.mem := rfl
@[simp] theorem begin_mem (two : Bool) : (s.begin two).mem = s.mem := rfl
@[simp] theorem claim_mem (i : Instr) : (s.claim i).mem = s.mem := by
  have hs : ((s.sideReads i).foldl (fun s r => s.addSched r.1
      (.load 0#1024 [⟨0, s.keyOf s.core .spad (r.2.1 - Win.spad.base), r.2.2⟩] (.ofNat 64 r.2.1))) s).mem = s.mem :=
    foldl_mem (fun _ _ => addSched_mem ..) _ s
  unfold State.claim; extract_lets t u
  have hu : u.mem = s.mem := by unfold u; split <;> simpa [t] using hs
  clear_value u
  split
  · rw [post_mem, hu]
  · exact hu
@[simp] theorem countSoft_mem (cs : List Nat) : (s.countSoft cs).mem = s.mem := by
  unfold State.countSoft; split
  · rfl
  · exact foldl_mem (fun _ _ => coreRecord_mem ..) _ s
@[simp] theorem recordBad_mem (t : TrapReq) : (s.recordBad t).mem = s.mem := by
  unfold State.recordBad; dsimp only; split <;> simp
@[simp] theorem modEach_mem (ns : List Nat) (f : Core → Core) : (s.modEach ns f).mem = s.mem := foldl_mem (fun _ _ => modAt_mem ..) ns s

/-- The first of a list by an order is one of the list. -/
theorem firstBy_mem {α : Type} (lt : α → α → Bool) : ∀ {l : List α} {x : α}, firstBy lt l = some x → x ∈ l
  | a :: r, x, e => by
    rw [firstBy] at e
    split at e
    · cases e; exact List.mem_cons_self
    · rename_i b g
      split at e <;> cases e
      · exact List.mem_cons_of_mem a (firstBy_mem lt g)
      · exact List.mem_cons_self

/-- A judgement keeps the form: in the state that it builds, and in the one that a wait leaves. -/
structure Verdicts.Canonical (j : Verdicts) : Prop where
  state : j.state.mem.wf = true
  wait : ∀ w t, j.wait = some (w, t) → t.mem.wf = true

/-- So does a turn, in the state that it leaves. -/
def Turn.Canonical : Turn → Prop
  | .idles t | .freezes t => t.mem.wf = true
  | _ => True

theorem Verdicts.Canonical.turn {j : Verdicts} (h : j.Canonical) : j.turn.Canonical := by
  unfold Verdicts.turn; split
  · trivial
  · split
    · rename_i t e; exact h.wait _ t e
    · rename_i t e; exact h.wait _ t e
    · rename_i w t _ _ e; exact h.wait w t e
    · split <;> trivial

variable (h : s.mem.wf = true)
include h

/-! ### Bundles -/

/-- An operation's next state, or the state as it is. -/
theorem exec_keep_wf (i : Instr) : (match exec i s with | .next t => t | _ => s).mem.wf = true := by
  split
  · rename_i e; exact (exec_canonical h i).mem_wf e
  · exact h
theorem attempt_wf (p : Nat) (i : Instr) : (s.attempt p i).mem.wf = true := exec_keep_wf (s := s.atSlot p) h i
theorem waitAlone_wf (t : State) (p : Nat) (i : Instr) (w : Wait) : (s.waitAlone t p i w).mem.wf = true := by
  unfold State.waitAlone; extract_lets a
  split
  · exact attempt_wf h ..
  · exact h
theorem judgeOp_canonical (b : Bundle) {j : Verdicts} (hj : j.Canonical) (o : Nat × Instr) : (s.judgeOp b j o).Canonical := by
  unfold State.judgeOp; split
  · exact ⟨hj.state, hj.wait⟩
  · extract_lets t
    have ht : t.mem.wf = true := attempt_wf hj.state ..
    clear_value t
    split
    · split
      · exact ⟨ht, hj.wait⟩
      · exact ⟨hj.state, hj.wait⟩
    · rename_i w _
      refine ⟨by dsimp only; rw [claim_mem]; exact hj.state, fun v u e => ?_⟩
      dsimp only at e
      split at e
      · exact hj.wait v u e
      · cases e; exact waitAlone_wf h ..
    · (repeat' split) <;> exact ⟨hj.state, hj.wait⟩
theorem onlyFault_canonical (t : TrapReq) : (s.onlyFault t).Canonical := ⟨h, fun _ _ e => nomatch e⟩
theorem judgeBundle_canonical : s.judgeBundle.Canonical := by
  unfold State.judgeBundle; split
  · exact onlyFault_canonical (by exact h) _
  split
  · exact onlyFault_canonical (by exact h) _
  split
  · exact onlyFault_canonical (by exact h) _
  split
  · exact onlyFault_canonical (by exact h) _
  · rename_i b _
    extract_lets t j
    have hj : j.Canonical := foldl_keeps Verdicts.Canonical _ (fun j o hj => judgeOp_canonical (s := t) h b hj o) _ _
      ⟨h, fun _ _ e => nomatch e⟩
    clear_value j
    split
    · exact hj
    · exact ⟨hj.state, hj.wait⟩
theorem closing_wf : s.closing.mem.wf = true := by
  unfold State.closing; extract_lets t split u
  have hu : u.mem.wf = true := by
    show t.mem.wf = true
    unfold t; split
    · exact h
    · rw [countSoft_mem]; exact h
  clear_value u
  split
  · exact exec_keep_wf hu .splitCycle
  · exact hu
theorem commit_wf : s.commit.mem.wf = true := closing_wf h
theorem takeJudged_wf : s.takeJudged.mem.wf = true := by
  have hj := (judgeBundle_canonical h).state
  unfold State.takeJudged; extract_lets j t
  have ht : ∀ u r, t = some (u, r) → u.mem.wf = true := fun u r e => by
    unfold t at e; split at e <;> (obtain ⟨x, _, g⟩ := Option.map_eq_some_iff.mp e; cases g)
    · exact closing_wf hj
    · exact h
    · exact h
  clear_value t
  split
  · exact h
  · rw [takeTrap_mem, modCore_mem]; exact ht _ _ rfl

/-! ### Cycles -/

omit h in
theorem coreTurn_wf {start : State} (a : Cycle) (ha : a.state.mem.wf = true) (n : Nat) :
    (start.coreTurn a n).state.mem.wf = true := by
  unfold State.coreTurn; extract_lets t f wait
  have ht : t.mem.wf = true := by unfold t; rw [focus_mem]; exact ha
  clear_value t
  split
  · exact ht
  split
  · exact ht
  split
  · exact ht
  · have hj : t.judgeBundle.Canonical := judgeBundle_canonical ht
    have hk := hj.turn
    split <;> rename_i e
    · exact commit_wf hj.state
    · rw [e] at hk; exact hk
    · exact ha
    · rw [e] at hk
      split
      · exact ha
      · exact hk
theorem takeTurnTrap_wf (x : Nat × Option TrapReq) : (s.takeTurnTrap x).mem.wf = true := by
  unfold State.takeTurnTrap; extract_lets t
  have ht : t.mem.wf = true := by unfold t; rw [dropWaiter_mem, focus_mem]; exact h
  clear_value t
  split
  · exact takeJudged_wf ht
  · rw [takeTrap_mem, modCore_mem, recordBad_mem]; exact ht
theorem performNow_wf : s.performNow.mem.wf = true := by
  unfold State.performNow; split
  · exact h
  · exact performDue_wf h _
theorem beginWait_wf (n : Nat) : (s.beginWait n).mem.wf = true := by
  have hk := (judgeBundle_canonical (s := s.focus n) (by rw [focus_mem]; exact h)).turn
  unfold State.beginWait; split
  · rename_i e
    rw [e] at hk
    split
    · rw [markHeld_mem]; exact hk
    · exact hk
  · exact h
/-- What is performed for a wait keeps the form, whichever of them is first. -/
theorem pendingForWait_wf (n : Needs) : ∀ x ∈ s.pendingForWait n, x.2.mem.wf = true := by
  unfold State.pendingForWait; extract_lets last chunk descs desc
  clear_value desc chunk
  intro x hx
  rw [List.mem_append, List.mem_append] at hx
  rcases hx with (hx | hx) | hx
  · split at hx
    · split at hx
      · rw [List.mem_singleton.mp hx]; exact performDue_wf h _
      · cases hx
    · cases hx
  · split at hx
    · rw [List.mem_singleton.mp hx]
      exact on_wf _ _ (fun t ht => finishSend_wf (arriveChunk_wf (by exact ht) _)) h
    · exact absurd hx List.not_mem_nil
  · split at hx
    · rw [List.mem_singleton.mp hx]
      exact on_wf _ _ (fun t ht => by rw [landNext_mem]; exact ht) h
    · exact absurd hx List.not_mem_nil
theorem serve_wf (ns : List Nat) : (s.serve ns).mem.wf = true := by
  unfold State.serve; extract_lets n
  split
  · rename_i e; exact pendingForWait_wf h n _ (firstBy_mem _ e)
  · exact h
theorem rebuildFree_wf (ns : List Nat) : (s.rebuildFree ns).mem.wf = true := foldl_wf (fun _ st ht => exec_keep_wf ht (.rebuildRow st)) _ h
theorem endPhysical_wf (ns : List Nat) (f : Core → Core) : (s.endPhysical ns f).mem.wf = true := by
  unfold State.endPhysical; extract_lets t
  have ht : t.mem.wf = true := by unfold t; rw [foldl_mem fun _ _ => serveEngines_mem ..]; exact h
  clear_value t
  rw [modEach_mem]; split
  · exact ht
  · exact rebuildFree_wf ht ns
theorem frozenCycle_wf (ns : List Nat) : (s.frozenCycle ns).mem.wf = true := endPhysical_wf h ..
theorem issueCycle_wf (ns : List Nat) : (s.issueCycle ns).mem.wf = true := by
  unfold State.issueCycle; extract_lets a t
  have ha : a.state.mem.wf = true := foldl_keeps (fun a : Cycle => a.state.mem.wf = true) _ (fun a n ha => coreTurn_wf a ha n) _ _ h
  have ht : t.mem.wf = true := by unfold t; rw [focus_mem]; exact ha
  clear_value t
  split
  · exact foldl_wf (fun _ _ hu => takeTurnTrap_wf hu _) _ h
  split
  · exact frozenCycle_wf (serve_wf (foldl_wf (fun _ _ hu => beginWait_wf hu _) _ h) _) ns
  split
  · refine frozenCycle_wf ?_ ns
    rw [modEach_mem]; exact performNow_wf (by rw [focus_mem]; exact ha)
  · exact endPhysical_wf (performNow_wf (by rw [armBarriers_mem]; exact ht)) ..
theorem cycle_wf : s.cycle.mem.wf = true := by
  unfold State.cycle; extract_lets ns cs
  (repeat' split)
  · exact endPhysical_wf h ..
  · exact frozenCycle_wf h _
  · rw [modEach_mem]; exact h
  · exact frozenCycle_wf h _
  · exact issueCycle_wf h _

/-! ### Steps -/

theorem tryWork_wf {x : Nat × Instr} {t : State} (e : s.tryWork x = some t) : t.mem.wf = true := by
  have hf : (s.focus x.1).mem.wf = true := by rw [focus_mem]; exact h
  unfold State.tryWork at e; extract_lets f at e
  split at e
  · rename_i u g
    have hu := (exec_canonical (s := f) hf x.2).mem_wf g
    split at e
    · cases e
    · cases e; split <;> exact hu
  · cases e
/-- What is tried in turn keeps the form. -/
theorem findWork_wf {l : List (Nat × Instr)} {t : State} (e : l.findSome? s.tryWork = some t) : t.mem.wf = true := by
  obtain ⟨_, _, g⟩ := List.exists_of_findSome?_eq_some e
  exact tryWork_wf h g
theorem canonical_goes : Canonical s.goes := by
  unfold State.goes; split
  · rename_i n _
    have hf : ∀ m, ((s.focus n).focus m).mem.wf = true := fun m => by rw [focus_mem, focus_mem]; exact h
    extract_lets t
    have ht : t.mem.wf = true := by unfold t; rw [focus_mem]; exact h
    split
    · exact exec_canonical (hf _) _
    · split
      · rename_i e; exact findWork_wf ht e
      · exact cycle_wf ht
  · split
    · rename_i e; exact findWork_wf h e
    · split
      · rename_i e; exact findWork_wf h e
      · split
        · rw [canonical_next]; unfold State.passTo; rw [modAll_mem]; exact h
        · trivial
theorem canonical_running : Canonical s.running := by
  unfold State.running; split
  · exact exec_canonical (by rw [focus_mem]; exact h) _
  split
  · exact exec_canonical h _
  split
  · exact exec_canonical (by rw [focus_mem]; exact h) _
  split
  · exact h
  split
  · rw [canonical_next, flashStep_mem]; exact h
  split
  · split
    · exact h
    · exact canonical_goes h
  · exact canonical_goes h
theorem canonical_dark (why : Fault) : Canonical (s.dark why) := by
  unfold State.dark; split
  · exact exec_canonical (by exact h) _
  · split
    · exact exec_canonical (by exact h) _
    · exact h
  · exact h
  · trivial
/-- A step keeps the canonical form of memory. -/
theorem canonical_step : Canonical (step s) := by
  unfold step State.advanceStep; (repeat' split)
  · exact canonical_dark h _
  · exact canonical_dark h _
  · exact canonical_running h

end

/-- Settles O58: a step is one instruction or event, a cycle, or what is due, and each of them keeps the canonical form. -/
theorem stepKeepsMemoryCanonical : Obligations.StepKeepsMemoryCanonical :=
  fun _ _ h e => (canonical_step h).mem_wf e

end Sys2Proof.Machine
end

section
/-! What a store leaves as it was: the lines and launches of the package, its sampling regions, and the registers and queues of its core
(R214, R224, R230, R236, R331). -/

namespace Sys2Proof.Machine

/-! ### Writes of bytes -/

/-- What no write of bytes touches: the clocks of lines, the launches, and what says where the (F, G) words stand. -/
structure SameLines (s t : State) : Prop where
  lines : t.lines = s.lines
  launches : t.launches = s.launches
  blocks : t.blocks = s.blocks
  partmap : t.partmap = s.partmap

theorem SameLines.refl (s : State) : SameLines s s := ⟨rfl, rfl, rfl, rfl⟩
theorem SameLines.trans {s t u : State} (h : SameLines s t) (g : SameLines t u) : SameLines s u :=
  ⟨g.lines.trans h.lines, g.launches.trans h.launches, g.blocks.trans h.blocks, g.partmap.trans h.partmap⟩
/-- A fold of updates leaves the same where each update does. -/
theorem SameLines.foldl {β : Type} {f : State → β → State} (hf : ∀ t b, SameLines t (f t b)) (l : List β) (s : State) :
    SameLines s (l.foldl f s) := foldl_keeps (SameLines s) f (fun t b h => h.trans (hf t b)) l s (.refl s)

theorem coreRecord_sameLines (s : State) (cls cause : Nat) (a d : Word) : SameLines s (s.coreRecord cls cause a d) :=
  ⟨record_lines .., record_launches .., record_blocks .., record_partmap ..⟩
theorem countFix_sameLines (s : State) (st : RowStore) (b r k : Nat) : SameLines s (s.countFix st b r k) := by
  unfold State.countFix; extract_lets x n y t u
  have hu : SameLines s u := ⟨record_lines .., record_launches .., record_blocks .., record_partmap ..⟩
  clear_value u
  split
  · exact ⟨hu.lines, hu.launches, hu.blocks, hu.partmap⟩
  · exact hu
theorem writeUnits_sameLines (s : State) (k n : Nat) : SameLines s (s.writeUnits k n) := by
  have hm : SameLines s (s.countMerged k n) := .foldl (fun _ _ => countFix_sameLines ..) _ s
  unfold State.writeUnits; extract_lets z t cut part u
  have hu : SameLines s u := ⟨hm.lines, hm.launches, hm.blocks, hm.partmap⟩
  clear_value u
  split
  · exact hu.trans (coreRecord_sameLines ..)
  · exact hu
theorem putBytes_sameLines (s : State) (k : Nat) (data : List Byte) : SameLines s (s.putBytes k data) := by
  unfold State.putBytes; extract_lets m t
  have ht : SameLines s t := .foldl (fun _ _ => writeUnits_sameLines ..) _ s
  exact ⟨ht.lines, ht.launches, ht.blocks, ht.partmap⟩

/-- Where the (F, G) words stand is said by the sampling blocks and the partitions. -/
theorem fgByte_congr {s t : State} (hb : t.blocks = s.blocks) (hp : t.partmap = s.partmap) : t.fgByte = s.fgByte := by
  have hs : t.split = s.split := by unfold State.split; rw [hp]
  have hk : t.partKey = s.partKey := by
    funext p a; unfold State.partKey State.chipKey State.partOf; rw [hs]
  funext k
  unfold State.fgByte; rw [hs, hb, hk]

/-- The cores that issue together depend on the core and the launches. -/
theorem domain_congr {s t : State} (hc : t.core = s.core) (hl : t.launches = s.launches) : t.domain = s.domain := by
  simp only [State.domain, State.gang, State.gangOf, State.members, State.instOf, State.launchOf, hc, hl]

/-- The bytes of a piece have been stored in the memory of a state, and no other byte has changed. -/
structure Stored (s : State) (p : StorePiece) (m : Mem) : Prop where
  frame : OnlyBytes s.mem m p.key p.data.length
  bytes : ∀ j < p.data.length, p.data[j]? = some (memGet m (p.key + j))
  wf : m.wf = true

/-- A write of bytes outside the (F, G) words stores exactly them. -/
theorem putBytes_stored {s t : State} (p : StorePiece) (hw : s.mem.wf = true) (hf : ∀ j < p.data.length, s.fgByte (p.key + j) = false)
    (hm : t.mem = s.mem) (hg : t.fgByte = s.fgByte) : Stored s p (t.putBytes p.key p.data).mem := by
  have ht : t.mem.wf = true := by rw [hm]; exact hw
  refine ⟨fun k hk => ?_, fun j hj => ?_, putBytes_wf ht ..⟩
  · rw [putBytes_out ht hk, hm]
  · rw [putBytes_get ht, if_pos ⟨by omega, by omega, by rw [hg]; exact hf j hj⟩, Nat.add_sub_cancel_left, List.getD_eq_getElem?_getD,
      List.getElem?_eq_getElem hj, Option.getD_some]

/-! ### Lines that a core takes (R224, R230) -/

/-- What taking a line into a cache touches nothing of: the clocks, the sampling blocks and partitions, the core's registers, its accesses. -/
structure SameClocks (s t : State) : Prop where
  lines : t.lines = s.lines
  blocks : t.blocks = s.blocks
  partmap : t.partmap = s.partmap
  ctl : t.core.ctl = s.core.ctl
  cohQ : t.core.port.cohQ = s.core.port.cohQ
  pts : t.core.port.pts = s.core.port.pts

theorem SameClocks.refl (s : State) : SameClocks s s := ⟨rfl, rfl, rfl, rfl, rfl, rfl⟩
theorem SameClocks.trans {s t u : State} (h : SameClocks s t) (g : SameClocks t u) : SameClocks s u :=
  ⟨g.lines.trans h.lines, g.blocks.trans h.blocks, g.partmap.trans h.partmap, g.ctl.trans h.ctl, g.cohQ.trans h.cohQ, g.pts.trans h.pts⟩

theorem atHome_sameClocks (s : State) (l : Nat) (w : Bool) : SameClocks s (s.atHome l w) := by
  simp only [State.atHome, State.touchL2]
  (repeat' split) <;> exact ⟨rfl, rfl, rfl, rfl, rfl, rfl⟩
theorem putL1_sameClocks (s : State) (l : Lease) : SameClocks s (s.putL1 l) := by
  unfold State.putL1; extract_lets out t
  clear_value out
  have ht : SameClocks s t := by
    unfold t; split
    · exact .refl s
    · split
      · exact (SameClocks.mk rfl rfl rfl rfl rfl rfl : SameClocks s s.tick).trans (atHome_sameClocks ..)
      · exact ⟨rfl, rfl, rfl, rfl, rfl, rfl⟩
  exact ht.trans ⟨rfl, rfl, rfl, rfl, rfl, rfl⟩

/-- The timestamp that a line takes when it is written (R224). -/
def State.writeTs (s : State) (k : Nat) : Nat := max s.core.port.pts ((cget (0, 0) s.lines (k / 256)).2 + 1)

/-- A line that is taken to be written: its clocks and the core's are the new timestamp; a host-mapped line keeps none (R224). -/
structure OwnedLine (s t : State) (k : Nat) : Prop where
  blocks : t.blocks = s.blocks
  partmap : t.partmap = s.partmap
  ctl : t.core.ctl = s.core.ctl
  cohQ : t.core.port.cohQ = s.core.port.cohQ
  timed : isHostKey k = false → t.core.port.pts = s.writeTs k ∧ cget (0, 0) t.lines (k / 256) = (s.writeTs k, s.writeTs k)
  untimed : isHostKey k = true → t.core.port.pts = s.core.port.pts ∧ t.lines = s.lines

theorem ownLine_owned (s : State) (k : Nat) : OwnedLine s (s.ownLine k) k := by
  unfold State.ownLine
  cases hk : isHostKey k with
  | true => exact ⟨rfl, rfl, rfl, rfl, fun h => Bool.noConfusion (hk.symm.trans h), fun _ => ⟨rfl, rfl⟩⟩
  | false =>
    rw [if_neg (by simp)]
    extract_lets line t
    have ht : SameClocks s t := by
      unfold t; split
      · exact .refl s
      · exact atHome_sameClocks ..
    clear_value t
    split
    rename_i x r e
    extract_lets ts u
    have hr : (cget (0, 0) s.lines line).2 = r := by rw [← ht.lines, e]
    have hts : ts = s.writeTs k := by unfold ts State.writeTs; rw [ht.pts, ← hr]
    have hu : SameClocks s (t.putL1 ⟨line, ts, ts, []⟩) := ht.trans (putL1_sameClocks ..)
    refine ⟨hu.blocks, hu.partmap, hu.ctl, hu.cohQ, fun _ => ⟨hts, ?_⟩, fun h => Bool.noConfusion (hk.symm.trans h)⟩
    have hne : ((ts, ts) : Nat × Nat) ≠ (0, 0) := by
      intro h
      have : ts = 0 := congrArg Prod.fst h
      unfold ts at this; omega
    show cget (0, 0) (cput (0, 0) u.lines line (ts, ts)) line = _
    rw [cget_cput_of_ne hne, if_pos rfl, hts]

/-- A store that is performed at its line: its bytes are in memory, and the line and the core have their clocks (R224). -/
theorem storeOwned_stored {s u : State} (p : StorePiece) (hw : s.mem.wf = true) (hf : ∀ j < p.data.length, s.fgByte (p.key + j) = false)
    (hm : u.mem = s.mem) (hb : u.blocks = s.blocks) (hp : u.partmap = s.partmap) :
    Stored s p (u.storeOwned [p]).mem ∧ OwnedLine u (u.storeOwned [p]) p.key ∧ (u.storeOwned [p]).core.regs = u.core.regs := by
  have ho := ownLine_owned u p.key
  have hr : (u.ownLine p.key).core.regs = u.core.regs := ownLine_regs ..
  have hs : Stored s p ((u.ownLine p.key).putBytes p.key p.data).mem :=
    putBytes_stored p hw hf ((ownLine_mem ..).trans hm) (fgByte_congr (ho.blocks.trans hb) (ho.partmap.trans hp))
  have hl := putBytes_sameLines (u.ownLine p.key) p.key p.data
  have hc : ((u.ownLine p.key).putBytes p.key p.data).core = (u.ownLine p.key).core := putBytes_core ..
  refine ⟨hs, ⟨hl.blocks.trans ho.blocks, hl.partmap.trans ho.partmap, ?_, ?_, fun h => ?_, fun h => ?_⟩, ?_⟩
  · exact (congrArg Core.ctl hc).trans ho.ctl
  · exact (congrArg (fun c : Core => c.port.cohQ) hc).trans ho.cohQ
  · obtain ⟨hpts, hline⟩ := ho.timed h
    exact ⟨(congrArg (fun c : Core => c.port.pts) hc).trans hpts, (congrArg (fun m => cget (0, 0) m (p.key / 256)) hl.lines).trans hline⟩
  · obtain ⟨hpts, hlines⟩ := ho.untimed h
    exact ⟨(congrArg (fun c : Core => c.port.pts) hc).trans hpts, hl.lines.trans hlines⟩
  · exact (congrArg Core.regs hc).trans hr

end Sys2Proof.Machine
end

section
/-! Stores as they are performed: a scheduled store in its domain's cycle, a coherent store and an ST.REL at their place in T, a provisional store
in the buffer that its launch keeps for it (R99, R101, R212, R214, R224, R230, R234, R236). -/

namespace Sys2Proof.Machine

section
variable {s : State}

/-! ### A scheduled store (R212, R214) -/

@[simp] theorem pick_self : s.pick [s.core.name] = [s.core] := by simp [State.pick, State.coreAt]

/-- A store performed by the core in focus is its bytes put in memory. -/
theorem on_performSched_store {a : Sched} {p : StorePiece} (hk : a.kind = .store [p]) :
    s.on s.core.name (fun t => t.performSched a) = s.putBytes p.key p.data := by
  have e : s.performSched a = s.putBytes p.key p.data := by rw [State.performSched, hk]; rfl
  rw [on_self, e, ← congrArg Core.name (putBytes_core s p.key p.data), focus_self]

variable {a : Sched} (hd : s.domain = [s.core.name]) (hs : s.core.port.sched = [a])
include hd hs

theorem firstDue_one : s.firstDue = some a.due := by simp [State.firstDue, hd, hs, firstBy]
theorem schedDue_one : s.schedDue a.due = [(s.core.name, a)] := by
  simp [State.schedDue, hd, hs, sortBy, insertBy]

/-- The only scheduled access of a domain, a store, leaves its bytes in memory, and of its core the access done and bank cycles lost. -/
theorem performDue_store {p : StorePiece} (hk : a.kind = .store [p]) :
    ∃ (u : State) (taken : List Sched) (lost : Nat), u.mem = s.mem ∧ u.fgByte = s.fgByte ∧
      (s.performDue a.due).mem = (u.putBytes p.key p.data).mem ∧
      (s.performDue a.due).core = { s.core with port := { s.core.port with sched := [], taken := taken }, lost := lost } := by
  unfold State.performDue; extract_lets as before ks need t u lost v w
  have hv : v = u.putBytes p.key p.data := by
    unfold v as; rw [schedDue_one hd hs]; exact on_performSched_store (s := u) hk
  have hc : v.core = s.core := by rw [hv]; exact putBytes_core u ..
  have hl : v.launches = s.launches := by rw [hv]; exact (putBytes_sameLines u p.key p.data).launches
  have hw : w = v.modCore fun c => { c with port := { c.port with
      sched := c.port.sched.filter fun x => x.due != a.due
      taken := c.port.taken ++ c.port.sched.filter fun x => x.due == a.due } } := by
    unfold w
    rw [domain_congr hc hl, hd, ← congrArg Core.name hc]; exact modAt_self ..
  have hnone : s.core.port.sched.filter (fun x => x.due != a.due) = [] := by simp [hs]
  refine ⟨u, s.core.port.taken ++ s.core.port.sched.filter fun x => x.due == a.due, max s.core.lost lost, rfl, fgByte_congr rfl rfl, ?_, ?_⟩
  · rw [modCore_mem, hw, modCore_mem, hv]
  · rw [hw]
    show ({ v.core with
      port := { v.core.port with
        sched := v.core.port.sched.filter fun x => x.due != a.due
        taken := v.core.port.taken ++ v.core.port.sched.filter fun x => x.due == a.due }
      lost := max v.core.lost lost } : Core) = _
    rw [hc, hnone]

end

/-! ### A coherent store and an ST.REL (R101, R224, R230, R234, R236) -/

section
variable {s : State}

/-- A store at its place in T goes to memory by its line, or to the buffer of a provisional core. -/
theorem performCoh_store {a : Coh} {ps : List StorePiece} {rel : Bool} (hk : a.kind = .store ps rel) :
    s.performCoh a = if s.core.prov then s.bufPut s.core ps else s.storeOwned ps := by rw [State.performCoh, hk]

/-- No access or .com atomic ahead holds a store back. -/
theorem waits_store {p : Port} {a : Coh} {ps : List StorePiece} {rel : Bool} (hk : a.kind = .store ps rel) :
    (p.waitsRegion a || p.waitsCom a) = false := by
  simp [Port.waitsRegion, Port.waitsCom, hk]

/-- An ST.REL waits for the earlier copies of its core and for no other (R101). -/
theorem copiesBefore_iff (p : Port) (seq : Nat) : p.copiesBefore seq = true ↔ ∃ j ∈ p.cq0 ++ p.cq1, j.seq < seq := by
  simp only [Port.copiesBefore, List.any_eq_true, decide_eq_true_eq]

/-- The instruction or event that performs a store. -/
def storeEvent (rel : Bool) : Instr := if rel then .stRelPerform else .coherentAccessPerform

/-- The state in which the oldest store is performed: it has left the queue of its core, and an ST.REL comes after what the core's engines have
written (R234). -/
def State.takeStore (s : State) (rel : Bool) (r : List Coh) : State :=
  (if rel && !s.core.prov then s.afterEngines else s).modPort fun q => { q with cohQ := r }

/-- Of the port alone it takes the access, and for an ST.REL the clock. -/
theorem takeStore_eq (s : State) (rel : Bool) (r : List Coh) : s.takeStore rel r = s.modPort fun q => { q with
    cohQ := r, pts := if rel && !s.core.prov then max q.pts q.stamp else q.pts } := by
  unfold State.takeStore; split <;> rfl

variable {a : Coh} {r : List Coh} {ps : List StorePiece} {rel : Bool} (hq : s.core.port.cohQ = a :: r) (hk : a.kind = .store ps rel)
include hq hk

/-- The oldest coherent access, a store that nothing holds, is performed from the clock that it starts at. -/
theorem exec_storeEvent (hc : rel = true → ∀ j ∈ s.core.port.cq0 ++ s.core.port.cq1, a.seq ≤ j.seq) :
    exec (storeEvent rel) s =
      .next ((s.takeStore rel r).performCoh a).fixClocks := by
  cases rel with
  | false =>
    show execCoherentAccessPerform s = _
    simp [execCoherentAccessPerform, hq, hk, waits_store hk, State.takeStore]
  | true =>
    have hb : s.core.port.copiesBefore a.seq = false := by
      rw [Bool.eq_false_iff, Ne, copiesBefore_iff]
      rintro ⟨j, hj, hlt⟩
      exact absurd (hc rfl j hj) (by omega)
    show execStRelPerform s = _
    cases hp : s.core.prov <;> simp [execStRelPerform, hq, hk, hb, hp, State.takeStore]
/-- An ST.REL behind an earlier copy is held. -/
theorem exec_stRel_held (hr : rel = true) (hc : ∃ j ∈ s.core.port.cq0 ++ s.core.port.cq1, j.seq < a.seq) :
    exec .stRelPerform s = .next s := by
  subst hr
  show execStRelPerform s = _
  simp [execStRelPerform, hq, hk, (copiesBefore_iff s.core.port a.seq).2 hc]

end

/-- A provisional core's bytes go to the buffer that its launch keeps for it, and nothing else of the launch changes. -/
theorem bufPut_launchAt {s : State} {c : Core} {p : StorePiece} {slot idx : Nat} {l : Launch} (hc : c.launch = some (slot, idx))
    (hf : ∀ j < p.data.length, s.fgByte (p.key + j) = false) (hl : s.launchAt slot = some l) :
    (s.bufPut c [p]).launchAt slot =
      some { l with insts := l.insts.map fun i => if i.idx = idx then { i with buf := i.buf ++ [p] } else i } := by
  have hslot : l.slot = slot := by simpa using List.find?_some hl
  have hn : ([p].any fun q => (List.range q.data.length).any fun j => s.fgByte (q.key + j)) = false := by
    simpa using hf
  have hcomp : ∀ f : Inst → Inst, (fun x : Launch => x.slot == slot) ∘ (fun x : Launch =>
      if x.slot == slot then { x with insts := x.insts.map fun i => if i.idx == idx then f i else i } else x) = fun x => x.slot == slot := by
    intro f; funext x; simp only [Function.comp]; split <;> simp_all
  unfold State.bufPut; rw [hc]
  simp only [hn, State.launchAt, State.modInst, List.find?_map, hcomp]
  rw [show s.launches.find? (fun x => x.slot == slot) = some l from hl]
  simp [hslot]

/-- Bytes that go to a buffer leave memory, the lines and the core (R236). -/
theorem bufPut_keeps (s : State) (c : Core) (ps : List StorePiece) :
    (s.bufPut c ps).mem = s.mem ∧ (s.bufPut c ps).lines = s.lines ∧ (s.bufPut c ps).core = s.core := by
  unfold State.bufPut; split <;> exact ⟨rfl, rfl, rfl⟩

section
variable {s : State} {p : StorePiece} (hf : ∀ j < p.data.length, s.fgByte (p.key + j) = false)
include hf

/-- The only scheduled access of a domain, a store that is due: its bytes are in memory, and it has left the port. -/
theorem scheduledStore_performed {a : Sched} (hw : s.mem.wf = true) (hd : s.domain = [s.core.name]) (hs : s.core.port.sched = [a])
    (hk : a.kind = .store [p]) (hdue : a.due ≤ s.core.unf) :
    Completes .scheduledAccessPerform s fun t => Stored s p t.mem ∧ t.core.regs = s.core.regs ∧ t.core.ctl = s.core.ctl ∧
      t.core.port.sched = [] ∧ t.core.port.pts = s.core.port.pts := by
  obtain ⟨u, taken, lost, hm, hg, hmem, hcore⟩ := performDue_store hd hs hk
  have he : exec .scheduledAccessPerform s = .next (s.performDue a.due) := by
    show execScheduledAccessPerform s = _
    rw [execScheduledAccessPerform, firstDue_one hd hs]
    exact congrArg Host.Outcome.next (if_pos hdue)
  refine ⟨s.performDue a.due, he, by rw [hmem]; exact putBytes_stored p hw hf hm hg, ?_⟩
  rw [hcore]; exact ⟨rfl, rfl, rfl, rfl⟩

variable {a : Coh} {r : List Coh} {rel : Bool} (hq : s.core.port.cohQ = a :: r) (hk : a.kind = .store [p] rel)
  (hc : rel = true → ∀ j ∈ s.core.port.cq0 ++ s.core.port.cq1, a.seq ≤ j.seq)
include hq hk hc

/-- The oldest coherent access, a store of a core that is not provisional: its bytes are in memory, and its line has the clocks. -/
theorem coherentStore_performed (hw : s.mem.wf = true) (hp : s.core.prov = false) :
    Completes (storeEvent rel) s fun t => Stored s p t.mem ∧ OwnedLine (s.takeStore rel r) t p.key ∧ t.core.regs = s.core.regs := by
  have ht := takeStore_eq s rel r
  obtain ⟨hst, hown, hregs⟩ := storeOwned_stored (u := s.takeStore rel r) p hw hf (by rw [ht]; rfl) (by rw [ht]; rfl) (by rw [ht]; rfl)
  have hprov : ¬ (s.takeStore rel r).core.prov = true := by rw [ht]; exact Bool.eq_false_iff.mp hp
  have hperform : (s.takeStore rel r).performCoh a = (s.takeStore rel r).storeOwned [p] := by
    rw [performCoh_store hk, if_neg hprov]
  refine ⟨((s.takeStore rel r).storeOwned [p]).fixClocks, (exec_storeEvent hq hk hc).trans (by rw [hperform]), hst, ?_, hregs.trans (by rw [ht]; rfl)⟩
  exact ⟨hown.blocks, hown.partmap, hown.ctl, hown.cohQ, hown.timed, hown.untimed⟩

/-- The oldest coherent access, a store of a provisional core: its piece is in its buffer, and memory, the lines and the core's
clock stay (R236). -/
theorem provisionalStore_buffered {slot idx : Nat} {l : Launch} (hp : s.core.prov = true) (hl : s.core.launch = some (slot, idx))
    (hat : s.launchAt slot = some l) :
    Completes (storeEvent rel) s fun t => t.mem = s.mem ∧ t.lines = s.lines ∧ t.core.regs = s.core.regs ∧ t.core.port.cohQ = r ∧
      t.core.port.pts = s.core.port.pts ∧
      t.launchAt slot = some { l with insts := l.insts.map fun i => if i.idx = idx then { i with buf := i.buf ++ [p] } else i } := by
  have ht : s.takeStore rel r = s.modPort fun q => { q with cohQ := r } := by
    unfold State.takeStore; rw [hp, Bool.not_true, Bool.and_false, if_neg Bool.false_ne_true]
  have hprov : (s.takeStore rel r).core.prov = true := by rw [ht]; exact hp
  have hperform : (s.takeStore rel r).performCoh a = (s.takeStore rel r).bufPut (s.takeStore rel r).core [p] := by
    rw [performCoh_store hk, if_pos hprov]
  obtain ⟨hmem, hlines, hcore⟩ := bufPut_keeps (s.takeStore rel r) (s.takeStore rel r).core [p]
  have hbuf : ((s.takeStore rel r).bufPut (s.takeStore rel r).core [p]).launchAt slot = _ :=
    bufPut_launchAt (by rw [ht]; exact hl) (by rw [ht]; exact hf) (by rw [ht]; exact hat)
  refine ⟨((s.takeStore rel r).bufPut (s.takeStore rel r).core [p]).fixClocks, (exec_storeEvent hq hk hc).trans (by rw [hperform]),
    hmem.trans (by rw [ht]; rfl), hlines.trans (by rw [ht]; rfl), ?_, ?_, ?_, hbuf⟩
  · exact (congrArg Core.regs hcore).trans (by rw [ht]; rfl)
  · exact (congrArg (fun c : Core => c.port.cohQ) hcore).trans (by rw [ht]; rfl)
  · exact (congrArg (fun c : Core => c.port.pts) hcore).trans (by rw [ht]; rfl)

end

/-- Settles O19: a store is `putBytes` of its piece, for a coherent one after its line is taken; a provisional one is `bufPut`. -/
theorem storesPerformTheirBytesOnly : Obligations.StoresPerformTheirBytesOnly := by
  intro s p hw hf c stored
  refine ⟨fun a hd hs hk hdue => ?_, fun a r rel hq hk hp hc => ?_, fun a r rel hq hk hr hc => exec_stRel_held hq hk hr hc,
    fun a r rel slot idx l hq hk hp hl hc hat => provisionalStore_buffered hf hq hk hc hp hl hat⟩
  · obtain ⟨t, he, hst, hregs, hctl, hsched, hpts⟩ := scheduledStore_performed hf hw hd hs hk hdue
    exact ⟨t, he, ⟨hst.frame, hst.bytes, hst.wf, hregs, hctl⟩, hsched, hpts⟩
  · intro line before ts
    obtain ⟨t, he, hst, hown, hregs⟩ := coherentStore_performed hf hq hk hc hw hp
    have ht := takeStore_eq s rel r
    have hpts : (s.takeStore rel r).core.port.pts = before := by
      rw [ht]
      show (if rel && !s.core.prov then max s.core.port.pts s.core.port.stamp else s.core.port.pts) = before
      rw [show s.core.prov = false from hp, Bool.not_false, Bool.and_true]
    have hlines : (s.takeStore rel r).lines = s.lines := by rw [ht]; rfl
    have hts : (s.takeStore rel r).writeTs p.key = ts := by unfold State.writeTs; rw [hpts, hlines]
    refine ⟨t, he, ⟨hst.frame, hst.bytes, hst.wf, hregs, hown.ctl.trans (by rw [ht]; rfl)⟩, hown.cohQ.trans (by rw [ht]; rfl), fun h => ?_,
      fun h => ?_⟩
    · rw [← hts]; exact hown.timed h
    · obtain ⟨htime, hline⟩ := hown.untimed h
      exact ⟨htime.trans hpts, hline.trans hlines⟩

end Sys2Proof.Machine
end


section
/-! What reset leaves (R23, R29, R41, R368): both firmware cores alike, but for their numbers. -/

namespace Sys2Proof.Machine

/-- A register file whose entries are all alike reads alike at every index. -/
theorem replicate_get {α : Type} {n : Nat} (a : α) (i : Fin n) : (Vector.replicate n a).get i = a :=
  Vector.getElem_replicate i.isLt

theorem reset_cores {c : Core} (h : c ∈ State.reset.cores) : ∃ id, c = Core.reset id := by
  rcases List.mem_cons.1 h with rfl | h
  · exact ⟨0, rfl⟩
  · exact ⟨1024, List.mem_singleton.1 h⟩

/-- Settles O56: a core's register files are replicated, and every other field is listed in `State.reset` itself. -/
theorem resetValues : Obligations.ResetValues := by
  refine ⟨rfl, fun c hc => ?_, ?_⟩
  · obtain ⟨id, rfl⟩ := reset_cores hc
    exact ⟨fun n => ⟨replicate_get .., replicate_get ..⟩, fun n => ⟨replicate_get .., replicate_get ..⟩, rfl, rfl, rfl, rfl, rfl, rfl,
      fun n => congrArg TbEntry.st (replicate_get TbEntry.none n), rfl, rfl, rfl, rfl, rfl, rfl, rfl, rfl, rfl, rfl, rfl, rfl, rfl, rfl, rfl,
      rfl, rfl, rfl, rfl, rfl, rfl, rfl, rfl, rfl, rfl, fun n => replicate_get .., rfl⟩
  · and_intros <;> rfl

end Sys2Proof.Machine
end


section
/-! Bank repair and scrubbing, clock steps and network ports (R23, R276, R395, R397, R398). -/

namespace Sys2Proof.Machine

/-- Leaving out the entries of some indexes leaves what every other index reads. -/
theorem cget_filter_index {α : Type} (d : α) (p : Nat → Bool) (k : Nat) :
    ∀ m : Cells α, cget d (m.filter fun x => p x.1) k = if p k then cget d m k else d
  | [] => by simp
  | (j, v) :: r => by
    have ih := cget_filter_index d p k r
    by_cases hj : k = j
    · subst hj
      cases hp : p k <;> simp_all [cget_cons]
    · cases hp : p j <;> simp [hp, cget_cons, hj, ih]

section
variable (s : State) (store : RowStore)

/-! ### Repair states (R397) -/

theorem repairFor_store : (s.repairFor store).store = store := by
  unfold State.repairFor State.repairOf
  cases h : s.repairs.find? fun r => r.store == store with
  | none => rfl
  | some r => simpa using List.find?_some h

/-- The repair state of a store is the one that was kept last. -/
theorem repairFor_putRepair {t : State} {r : RowRepair} (hr : r.store = store) (h : t.repairs = (s.putRepair r).repairs) :
    t.repairFor store = r := by
  have hfind : t.repairOf store = some r := by
    rw [State.repairOf, h]; exact List.find?_cons_of_pos (by rw [hr]; exact beq_self_eq_true store)
  rw [State.repairFor, hfind]; rfl

/-! ### A failed bank (R397) -/

variable {s store} {bank row : Nat}

theorem bankFailMark_kept (h : hasSpare store = false ∨ 18 ≤ bank ∨ bank ∈ (s.repairFor store).failed) :
    exec (.bankFailMark store bank) s = .next s := by
  show execBankFailMark store bank s = _
  exact if_pos (by simpa [or_assoc] using h)

theorem bankFailMark_marks (hs : hasSpare store = true) (hb : bank < 18) (hn : bank ∉ (s.repairFor store).failed) :
    Completes (.bankFailMark store bank) s fun t => t.mem = s.mem ∧ t.core = s.core ∧
      t.repairFor store = { s.repairFor store with
        store := store, failed := (s.repairFor store).failed ++ [bank]
        spare := if (s.repairFor store).spare = none then some bank else (s.repairFor store).spare } := by
  have hgo : ¬ (!hasSpare store || decide (18 ≤ bank) || (s.repairFor store).failed.contains bank) = true := by
    simp [hs, hb, hn]
  show ∃ t, execBankFailMark store bank s = .next t ∧ _
  unfold execBankFailMark; extract_lets r r'
  have hr : r'.store = store := repairFor_store s store
  rw [if_neg hgo]
  refine ⟨_, rfl, record_mem .., record_core .., ?_⟩
  rw [repairFor_putRepair s store hr (record_repairs ..)]
  simp only [r', r, Option.isNone_iff_eq_none, repairFor_store]

/-! ### A rebuilt row (R397) -/

theorem rebuildRow_kept (h : (s.repairFor store).spare = none ∨ store.rows ≤ (s.repairFor store).pointer ∨ s.banksFree store = false) :
    exec (.rebuildRow store) s = .next s := by
  show execRebuildRow store s = _
  unfold execRebuildRow; extract_lets r
  split
  · rfl
  · next bank hr =>
    refine if_pos ?_
    rcases h with h | h | h
    · exact absurd (hr.symm.trans h) nofun
    · simp [r, h]
    · simp [h]

theorem rebuildRow_moves (hs : (s.repairFor store).spare ≠ none) (hp : (s.repairFor store).pointer < store.rows)
    (hf : s.banksFree store = true) : Completes (.rebuildRow store) s fun t => t.mem = s.mem ∧ t.core = s.core ∧
      t.repairFor store = { s.repairFor store with pointer := (s.repairFor store).pointer + 1 } := by
  have hgo : ¬ (decide (store.rows ≤ (s.repairFor store).pointer) || !s.banksFree store) = true := by simp [hp, hf]
  show ∃ t, execRebuildRow store s = .next t ∧ _
  unfold execRebuildRow; extract_lets r key bad
  split
  · next hnone => exact absurd hnone hs
  rw [if_neg hgo]; extract_lets u v
  have hu : u.mem = s.mem ∧ u.core = s.core := by unfold u; split <;> exact ⟨rfl, rfl⟩
  have hv : ∀ t : State, t.repairs = v.repairs → t.repairFor store = { r with pointer := r.pointer + 1 } := fun t ht =>
    repairFor_putRepair (r := { r with pointer := r.pointer + 1 }) u store (repairFor_store s store) ht
  refine ⟨_, rfl, ?_⟩
  split
  · exact ⟨(record_mem ..).trans hu.1, (record_core ..).trans hu.2, hv _ (record_repairs ..)⟩
  · exact ⟨hu.1, hu.2, hv _ rfl⟩

/-! ### A scrubbed row (R395, R398) -/

theorem scrubRow_outside (h : store.rows ≤ row) : exec (.scrubRow store row) s = .next s := if_pos h

theorem countFix_flips (s : State) (st : RowStore) (b r k : Nat) : (s.countFix st b r k).flips = s.flips := by
  simp only [State.countFix]; split <;> simp only [record_flips]

/-- A corrected bank holds no error, and no other symbol changes. -/
theorem clearBank_flips (s : State) (key bank j : Nat) : memGet (s.clearBank key bank).flips j =
    if symKey key bank 0 ≤ j ∧ j < symKey key bank 0 + 64 then 0#8 else memGet s.flips j := by
  refine (cget_filter_index 0#8 (fun i => !(decide (symKey key bank 0 ≤ i) && decide (i < symKey key bank 0 + 64))) j s.flips).trans ?_
  by_cases h : symKey key bank 0 ≤ j ∧ j < symKey key bank 0 + 64
  · simp [h]
  · rw [if_neg h, if_pos (by simp only [Bool.not_eq_true', Bool.and_eq_false_iff, decide_eq_false_iff_not]; omega)]; rfl

section
variable (hs : hasSpare store = true) (hr : row < store.rows)
include hs hr

theorem scrubRow_clean (hc : s.decodeRow (store.base + 1024 * row) = .clean) (hb : s.bad = []) :
    exec (.scrubRow store row) s = .next s := by
  show execScrubRow store row s = _
  simp [execScrubRow, Nat.not_le.2 hr, hs, hc, hb]

theorem scrubRow_fixed {k : Nat} (hc : s.decodeRow (store.base + 1024 * row) = .fixed k) :
    Completes (.scrubRow store row) s fun t => t.mem = s.mem ∧ t.core = s.core ∧
      (∀ j < 64, memGet t.flips (symKey (store.base + 1024 * row) k 0 + j) = 0#8) ∧
      ∀ j, j < symKey (store.base + 1024 * row) k 0 ∨ symKey (store.base + 1024 * row) k 0 + 64 ≤ j →
        memGet t.flips j = memGet s.flips j := by
  show ∃ t, execScrubRow store row s = .next t ∧ _
  simp only [execScrubRow, if_neg (Nat.not_le.2 hr), if_pos hs, hc]
  refine ⟨_, rfl, countFix_mem .., countFix_core .., fun j hj => ?_, fun j hj => ?_⟩
  · rw [countFix_flips, clearBank_flips, if_pos (by omega)]
  · rw [countFix_flips, clearBank_flips, if_neg (by omega)]

end

end

/-! ### Ports (R276) -/

/-- A port that goes down or comes up has its own bit of the ports changed. -/
theorem exec_portDown (s : State) (port : Fin 8) (up : Bool) : exec (.portDown port up) s = .next { s with
    portsUp := .ofNat 8 (if up then s.portsUp.toNat ||| 2 ^ port.val else s.portsUp.toNat &&& (255 - 2 ^ port.val)) } := by
  have hlt : 2 ^ port.val < 256 := Nat.pow_lt_pow_right (by decide) port.isLt
  have hbit : (1#8 <<< port.val).toNat = 2 ^ port.val := by
    rw [BitVec.toNat_shiftLeft, BitVec.toNat_ofNat, Nat.shiftLeft_eq, Nat.mod_eq_of_lt (by simpa using hlt)]; simp
  refine congrArg (fun x => Host.Outcome.next { s with portsUp := x }) (BitVec.eq_of_toNat_eq ?_)
  cases up with
  | true =>
    rw [if_pos rfl, if_pos rfl, BitVec.toNat_or, hbit, BitVec.toNat_ofNat, Nat.mod_eq_of_lt (Nat.or_lt_two_pow s.portsUp.isLt hlt)]
  | false =>
    rw [if_neg Bool.false_ne_true, if_neg Bool.false_ne_true, BitVec.toNat_and, BitVec.toNat_not, hbit, BitVec.toNat_ofNat,
      Nat.mod_eq_of_lt (Nat.and_lt_two_pow _ (show 255 - 2 ^ port.val < 2 ^ 8 by omega))]

end Sys2Proof.Machine
end


section
/-! Accesses of the host (R25, R238): a write is its bytes put in memory, a read sends the bytes of its blocks. -/

namespace Sys2Proof.Machine

/-! ### What the lines that the host touches leave -/

/-- A step that gives lines clocks and places in a cache leaves error patterns, firmware and the (F, G) words. -/
structure OnlyCaches (s t : State) : Prop where
  bad : t.bad = s.bad
  flips : t.flips = s.flips
  boot : t.boot = s.boot
  blocks : t.blocks = s.blocks
  partmap : t.partmap = s.partmap

theorem OnlyCaches.refl (s : State) : OnlyCaches s s := ⟨rfl, rfl, rfl, rfl, rfl⟩
theorem OnlyCaches.trans {s t u : State} (h : OnlyCaches s t) (g : OnlyCaches t u) : OnlyCaches s u :=
  ⟨g.bad.trans h.bad, g.flips.trans h.flips, g.boot.trans h.boot, g.blocks.trans h.blocks, g.partmap.trans h.partmap⟩

theorem atHome_onlyCaches (s : State) (l : Nat) (w : Bool) : OnlyCaches s (s.atHome l w) := by
  simp only [State.atHome, State.touchL2]
  (repeat' split) <;> exact ⟨rfl, rfl, rfl, rfl, rfl⟩
/-- So does one that also gives a line its clocks. -/
theorem atHome_lines_onlyCaches (s : State) (l : Nat) (w : Bool) (ls : Cells (Nat × Nat)) :
    OnlyCaches s { s.atHome l w with lines := ls } :=
  (atHome_onlyCaches s l w).trans ⟨rfl, rfl, rfl, rfl, rfl⟩
theorem engineLine_onlyCaches (s : State) (clock k : Nat) : OnlyCaches s (s.engineLine clock k).1 := by
  unfold State.engineLine; split
  · exact .refl s
  · exact atHome_lines_onlyCaches ..
theorem readClock_onlyCaches (s : State) (clock : Nat) (rs : List Run) : OnlyCaches s (s.readClock clock rs).1 :=
  foldl_keeps (fun a : State × Nat => OnlyCaches s a.1) _ (fun _ _ h => h.trans (atHome_lines_onlyCaches ..)) _ (s, clock) (.refl s)

/-! ### A write (R238) -/

section
variable {s : State} {addr k : Nat}

/-- A write of the host leaves exactly its bytes. -/
theorem hostWrite_writes {data : List Byte} (hk : hostTarget addr data.length = some k) (hw : s.mem.wf = true)
    (hf : ∀ j < data.length, s.fgByte (k + j) = false) : Completes (.hostWrite addr data) s fun t =>
      OnlyBytes s.mem t.mem k data.length ∧ (∀ j < data.length, data[j]? = some (memGet t.mem (k + j))) ∧
      t.core.regs = s.core.regs ∧ t.mem.wf = true := by
  show ∃ t, execHostWrite addr data s = .next t ∧ _
  simp only [execHostWrite, hk]
  refine ⟨_, rfl, ?_⟩
  generalize hx : (runLines (k, data.length)).foldl (fun (a : State × Nat) l => a.1.engineLine a.2 (l * 256)) (s, s.boot.hostPts) = x
  obtain ⟨hc, hm, hcore⟩ : OnlyCaches s x.1 ∧ x.1.mem = s.mem ∧ x.1.core = s.core := by
    rw [← hx]
    exact foldl_keeps (fun a : State × Nat => OnlyCaches s a.1 ∧ a.1.mem = s.mem ∧ a.1.core = s.core) _
      (fun _ _ ⟨hc, hm, hcore⟩ => ⟨hc.trans (engineLine_onlyCaches ..), (engineLine_mem ..).trans hm, (engineLine_core ..).trans hcore⟩)
      _ (s, s.boot.hostPts) ⟨.refl s, rfl, rfl⟩
  obtain ⟨hframe, hbytes, hwf⟩ := putBytes_stored ⟨k, data⟩ hw hf hm (fgByte_congr hc.blocks hc.partmap)
  exact ⟨hframe, hbytes, congrArg Core.regs ((putBytes_core ..).trans hcore), hwf⟩

/-! ### A read (R238) -/

theorem memBytes_add (m : Mem) (o a b : Nat) : memBytes m o (a + b) = memBytes m o a ++ memBytes m (o + a) b := by
  induction a generalizing o with
  | zero => simp [memBytes]
  | succ a ih => rw [Nat.succ_add, memBytes, memBytes, ih, List.cons_append, show o + 1 + a = o + (a + 1) by omega]

/-- The blocks into which a read is cut hold its bytes, where there is fuel for them all. -/
theorem memBytes_cutAt (m : Mem) : ∀ fuel o n : Nat, n = 0 ∨ o % 256 + n ≤ 256 * fuel →
    ((cutAt 256 fuel o n).map fun p => memBytes m p.1 p.2).flatten = memBytes m o n
  | 0, o, n, h => by
    obtain rfl : n = 0 := by omega
    rfl
  | fuel + 1, o, n, h => by
    unfold cutAt; split
    · next hn => subst hn; rfl
    · extract_lets len
      have hlen : len ≤ n := Nat.min_le_left ..
      have hrest : n - len = 0 ∨ (o + len) % 256 + (n - len) ≤ 256 * fuel := by
        unfold len; omega
      rw [List.map_cons, List.flatten_cons, memBytes_cutAt m fuel (o + len) (n - len) hrest, ← memBytes_add, Nat.add_sub_cancel' hlen]

theorem badBytes_sound (hb : s.bad = []) (hf : s.flips = []) (k n : Nat) : s.badBytes k n = false := by
  simp [State.badBytes, State.codeUnits, hb, hf]

/-- A block of a read goes out if it verifies, else a record is kept (R221, R399). -/
def State.sendBlock (s : State) (p : Nat × Nat) : State :=
  if s.badBytes p.1 p.2 then s.record (5 * 4096) 3 0 (s.codeKey p.1) 0#64
  else { s with boot := { s.boot with hostOut := s.boot.hostOut ++ [memBytes s.mem p.1 p.2] } }

/-- In a memory without errors every block of a read goes out, in order. -/
theorem foldl_sendBlock (ps : List (Nat × Nat)) : ∀ s : State, s.bad = [] → s.flips = [] → ps.foldl State.sendBlock s =
    { s with boot := { s.boot with hostOut := s.boot.hostOut ++ ps.map fun p => memBytes s.mem p.1 p.2 } } := by
  induction ps with
  | nil => intro s _ _; simp
  | cons p ps ih =>
    intro s hb hf
    have hp : s.sendBlock p = { s with boot := { s.boot with hostOut := s.boot.hostOut ++ [memBytes s.mem p.1 p.2] } } :=
      if_neg (by rw [badBytes_sound hb hf]; exact Bool.false_ne_true)
    rw [List.foldl_cons, hp, ih _ (by exact hb) (by exact hf)]
    simp

/-- The clock of the host's accesses. -/
def State.setHostPts (s : State) (c : Nat) : State := { s with boot := { s.boot with hostPts := c } }

theorem exec_hostRead {n : Nat} (hk : hostTarget addr n = some k) : exec (.hostRead addr n) s =
    .next (((cutAt 256 (n / 256 + 2) k n).foldl State.sendBlock (s.readClock s.boot.hostPts [(k, n)]).1).setHostPts
      (s.readClock s.boot.hostPts [(k, n)]).2) := by
  show execHostRead addr n s = _
  simp only [execHostRead, hk]; rfl

/-- A read of the host sends its bytes, in blocks. -/
theorem hostRead_sends {n : Nat} (hk : hostTarget addr n = some k) (hb : s.bad = []) (hf : s.flips = []) :
    Completes (.hostRead addr n) s fun t => t.mem = s.mem ∧ t.core = s.core ∧
      ∃ out, t.boot.hostOut = s.boot.hostOut ++ out ∧ out.flatten = memBytes s.mem k n := by
  obtain ⟨hbad, hflips, hboot, -, -⟩ := readClock_onlyCaches s s.boot.hostPts [(k, n)]
  refine ⟨_, exec_hostRead hk, ?_⟩
  rw [foldl_sendBlock _ _ (hbad.trans hb) (hflips.trans hf)]
  refine ⟨readClock_mem .., readClock_core .., _, congrArg (· ++ _) (congrArg Boot.hostOut hboot), ?_⟩
  rw [readClock_mem]
  exact memBytes_cutAt s.mem _ k n (by omega)

end

end Sys2Proof.Machine
end


section
/-! Resets, losses of power and the boot flash (R24, R386 to R388): what a reset clears and keeps, what a cut leaves of a write, the steps of an
update. -/

namespace Sys2Proof.Machine

/-- Two boot states have the same flash and fuses: the slots, the marker journal, the minimum security version. -/
def SameFlash (x y : Boot) : Prop := x.slotA = y.slotA ∧ x.slotB = y.slotB ∧ x.rec0 = y.rec0 ∧ x.rec1 = y.rec1 ∧ x.svn = y.svn

theorem SameFlash.refl (x : Boot) : SameFlash x x := ⟨rfl, rfl, rfl, rfl, rfl⟩

/-- A state holds the firmware cores alone, with every register at its reset value, and its boot is still to come. -/
def Fresh (s t : State) : Prop :=
  t.core = s.resetCore 0 ∧ t.others = [s.resetCore 1024] ∧ t.grade = s.grade ∧ t.queues = [] ∧ t.launches = [] ∧ t.images = [] ∧
  t.partmap = 0#64 ∧ t.keyctl = 0#64 ∧ t.fwslot = 0#64 ∧ t.depthtab = 0#64 ∧ t.rllim = 0#11 ∧ t.tileTab = [] ∧ t.peers = [] ∧ t.seqs = [] ∧
  t.ready = [] ∧ t.tiles = [] ∧ t.boot.pending = true ∧ t.boot.keys = [] ∧ t.boot.session = 0 ∧ t.boot.idKey = none ∧ t.boot.update = none

/-- The grade of a package says with which engines its cores come out of a reset. -/
theorem Fresh.of_grade {s u t : State} (h : Fresh u t) (hg : u.grade = s.grade) : Fresh s t := by
  have hc : u.resetCore = s.resetCore := by funext id; simp only [State.resetCore, State.gradeOf, hg]
  unfold Fresh at h ⊢; rwa [hc, hg] at h

section
variable (s : State)

/-! ### Resets (R24, R368, R388) -/

theorem rebooted_fresh : Fresh s s.rebooted := by unfold Fresh; and_intros <;> rfl
theorem rebooted_sameFlash : SameFlash s.rebooted.boot s.boot := ⟨rfl, rfl, rfl, rfl, rfl⟩
/-- What power-on leaves is fresh and keeps the flash, whether the package has power then or its clocks run. -/
theorem powerOn_fresh {t : State} (h : ∃ p w, t = { s.powerOn with boot := { s.powerOn.boot with power := p, thermal := w } }) :
    Fresh s t ∧ t.mem = [] ∧ SameFlash t.boot s.boot := by
  obtain ⟨p, w, rfl⟩ := h
  refine ⟨?_, rfl, rebooted_sameFlash s⟩
  unfold Fresh; and_intros <;> rfl

theorem packageReset_fresh : Completes .packageReset s fun t => Fresh s t ∧ t.mem = s.mem ∧ SameFlash t.boot s.boot ∧ t.inbox = s.inbox :=
  ⟨s.rebooted, rfl, rebooted_fresh s, rfl, rebooted_sameFlash s, rfl⟩

/-- A record that a reset keeps leaves the grade and the flash, and stands after those kept before. -/
theorem keepRecord_kept (src cls cause : Nat) (addr detail : Word) : (s.keepRecord src cls cause addr detail).grade = s.grade ∧
    SameFlash (s.keepRecord src cls cause addr detail).boot s.boot ∧
    ∃ z, (s.keepRecord src cls cause addr detail).boot.kept = s.boot.kept ++ [z] ∧ z.cls = .ofNat 4 cls ∧ z.src = .ofNat 16 src :=
  ⟨record_grade .., ⟨rfl, rfl, rfl, rfl, rfl⟩, _, rfl, rfl, rfl⟩

theorem thermalTrip_fresh : Completes .thermalTrip s fun t => Fresh s t ∧ t.mem = [] ∧ SameFlash t.boot s.boot ∧ t.boot.thermal = true ∧
    ∃ z, t.boot.kept = s.boot.kept ++ [z] ∧ z.cls = 4#4 ∧ z.src = .ofNat 16 (10 * 4096) := by
  obtain ⟨hg, hf, hz⟩ := keepRecord_kept s.tick (10 * 4096) 4 0 (.ofNat 64 (15 * 2 ^ 56)) (Config.freeWord s.fresh)
  obtain ⟨hfresh, hmem, -⟩ := powerOn_fresh (s.tick.keepRecord (10 * 4096) 4 0 (.ofNat 64 (15 * 2 ^ 56)) (Config.freeWord s.fresh))
    ⟨_, true, rfl⟩
  exact ⟨_, rfl, hfresh.of_grade hg, hmem, hf, rfl, hz⟩

/-! ### Losses of power (R387) -/

/-- A loss of power clears the package; its flash is as the cut leaves it. -/
theorem powerLoss_fresh (cut : FlashCut) : Completes (.powerLoss cut) s fun t => Fresh s t ∧ t.mem = [] ∧ SameFlash t.boot (s.boot.cutAt cut) ∧
    t.boot.power = false ∧ t.boot.update = none := by
  obtain ⟨hfresh, hmem, hf⟩ := powerOn_fresh { s with boot := s.boot.cutAt cut } ⟨false, _, rfl⟩
  exact ⟨_, rfl, hfresh.of_grade rfl, hmem, hf, rfl, rfl⟩

variable {b : Boot} {u : FlashUpdate}

theorem cutAt_idle : b.cutAt .idle = b := by cases h : b.update <;> simp [Boot.cutAt, h]
theorem cutAt_of_no_update (cut : FlashCut) (h : b.update = none) : b.cutAt cut = b := by rw [Boot.cutAt, h]
theorem cutAt_verify (cut : FlashCut) (h : b.update = some u) (hs : u.stage = .verify) : b.cutAt cut = b := by
  cases cut <;> simp [Boot.cutAt, h, hs]
theorem cutAt_image (left : FwImage) (h : b.update = some u) (hs : u.stage = .write) : b.cutAt (.image left) = b.putSlot u.slot left := by
  simp [Boot.cutAt, h, hs]
theorem cutAt_marker (left : BitVec 576) (h : b.update = some u) (hs : u.stage = .mark) :
    b.cutAt (.marker left) = if markerOk left then b else b.putMarker left := by
  simp [Boot.cutAt, h, hs]

/-! ### The steps of an update (R386, R388) -/

/-- A marker record is written over one of the two, and nothing else of the boot state changes. -/
theorem putMarker_eq (b : Boot) (r : BitVec 576) : ∃ x y, b.putMarker r = { b with rec0 := x, rec1 := y } := by
  unfold Boot.putMarker; (repeat' split) <;> exact ⟨_, _, rfl⟩

theorem flashStep_write (hs : u.stage = .write) : s.flashStep u =
    { s with boot := { s.boot.putSlot u.slot u.img with update := some { u with stage := .verify } } } := by rw [State.flashStep, hs]
theorem flashStep_verify (hs : u.stage = .verify) {i : FwImage} (hi : s.boot.slotImg u.slot = some i) : s.flashStep u =
    { s with boot := { s.boot with update := if fwVerified s.boot.svn i then some { u with stage := .mark } else none } } := by
  simp only [State.flashStep, hs, Boot.slotOk, hi, Option.map_some, Option.getD_some]
/-- The marker of an update, as its last step writes it. -/
def State.marked (s : State) (u : FlashUpdate) : State :=
  { s with boot := { s.boot.putMarker (markerFor s.boot.nextSeq u.slot) with update := none } }
theorem flashStep_mark (hs : u.stage = .mark) : s.flashStep u = if s.boot.recovery then (s.marked u).rebooted else s.marked u := by
  obtain ⟨x, y, h⟩ := putMarker_eq s.boot (markerFor s.boot.nextSeq u.slot)
  have hr : (s.marked u).boot.recovery = s.boot.recovery := by unfold State.marked; rw [h]
  rw [State.flashStep, hs, ← hr]; rfl
theorem flashStep_mark_normal (hs : u.stage = .mark) (hr : s.boot.recovery = false) : { s.flashStep u with boot := s.boot } = s ∧
    (s.flashStep u).boot = { s.boot.putMarker (markerFor s.boot.nextSeq u.slot) with update := none } := by
  rw [flashStep_mark s hs, if_neg (by rw [hr]; exact Bool.false_ne_true)]; exact ⟨rfl, rfl⟩
theorem flashStep_mark_recovery (hs : u.stage = .mark) (hr : s.boot.recovery = true) : Fresh s (s.flashStep u) ∧
    (s.flashStep u).mem = s.mem ∧ SameFlash (s.flashStep u).boot (s.boot.putMarker (markerFor s.boot.nextSeq u.slot)) := by
  rw [flashStep_mark s hs, if_pos hr]
  exact ⟨(rebooted_fresh (s.marked u)).of_grade rfl, rfl, rebooted_sameFlash (s.marked u)⟩

end

end Sys2Proof.Machine
end


section
/-! The boot (R382, R387, R388, R415): the slot that is chosen, the words that the firmware cores start with, the control queue that the monitor
creates. -/

namespace Sys2Proof.Machine

/-! ### Writes to memory of any form -/

/-- A removal changes no other index. -/
theorem cget_cdel_of_ne {α : Type} [DecidableEq α] (d : α) {k i : Nat} (h : i ≠ k) : ∀ m : Cells α, cget d (cdel m k) i = cget d m i
  | [] => rfl
  | (j, w) :: r => by
    simp only [cdel]
    split
    · next e => rw [cget_cons, if_neg (e ▸ h)]
    · rw [cget_cons, cget_cons, cget_cdel_of_ne d h r]

theorem memGet_memPut_of_ne (m : Mem) {a i : Nat} (b : Byte) (h : i ≠ a) : memGet (memPut m a b) i = memGet m i := by
  unfold memPut cput memGet; split
  · exact cget_cdel_of_ne 0#8 h m
  · rw [cget_cins, if_neg h]

theorem memPutList_onlyBytes : ∀ (bs : List Byte) (m : Mem) (a : Nat), OnlyBytes m (memPutList m a bs) a bs.length
  | [], _, _ => fun _ _ => rfl
  | b :: bs, m, a => fun k hk => by
    simp only [List.length_cons] at hk
    rw [memPutList, memPutList_onlyBytes bs _ (a + 1) k (by omega), memGet_memPut_of_ne m b (by omega)]

/-! ### The slot (R387) -/

section
variable {b : Boot}

theorem slotOk_of_chosen {k : Bool} (h : b.chosen = some k) : b.slotOk k = true := by
  unfold Boot.chosen at h; extract_lets f at h
  split at h
  · next hf => exact Option.some.inj h ▸ hf
  · split at h
    · next hf => exact Option.some.inj h ▸ hf
    · cases h
theorem slots_of_not_chosen (h : b.chosen = none) : b.slotOk false = false ∧ b.slotOk true = false := by
  unfold Boot.chosen at h; extract_lets f at h
  split at h
  · cases h
  · split at h
    · cases h
    · cases hf : f <;> simp_all

end

/-! ### Instruction memory (R382) -/

/-- Writes at the indexes below `n` are what these indexes read. -/
theorem cget_foldl_range {α : Type} [DecidableEq α] {d : α} (f : Nat → α) {m : Cells α} (h : cwf d m = true) (i : Nat) :
    ∀ n, cget d ((List.range n).foldl (fun m w => cput d m w (f w)) m) i = if i < n then f i else cget d m i
  | 0 => rfl
  | n + 1 => by
    have hw : cwf d ((List.range n).foldl (fun m w => cput d m w (f w)) m) = true := cwf_foldl_cput (fun w => w) f _ h
    rw [List.range_succ, List.foldl_append, List.foldl_cons, List.foldl_nil, cget_cput hw, cget_foldl_range f h i n]
    by_cases hi : i = n
    · subst hi; rw [if_pos rfl, if_pos (by omega)]
    · simp only [if_neg hi, show i < n + 1 ↔ i < n by omega]

theorem bootImem_word (die : Bool) (body : List Byte) {w : Nat} (hw : w < 4096) :
    cget 0 (bootImem die body) w = Config.bodyWord die body w :=
  (cget_foldl_range (Config.bodyWord die body) rfl w 4096).trans (if_pos hw)

/-- A boot leaves the registers of a core. -/
@[simp] theorem booted_regs (c : Core) (img : Option FwImage) : (c.booted img).regs = c.regs := by
  cases img <;> simp only [Core.booted]
@[simp] theorem booted_imem (c : Core) (i : FwImage) : (c.booted (some i)).imem = bootImem c.die (i.body.take (bits i.hdr.toNat 64 32)) := by
  simp only [Core.booted]
@[simp] theorem booted_stopped (c : Core) (img : Option FwImage) : (c.booted img).stopped = img.isNone := by
  cases img <;> simp only [Core.booted, Option.isNone]

/-! ### Control queues (R354, R415) -/

/-- What creating control queues touches. -/
theorem createControls_eq (s : State) : ∃ q m, s.createControls = { s with queues := q, mem := m } :=
  foldl_keeps (fun t : State => ∃ q m, t = { s with queues := q, mem := m }) _
    (fun _ _ ⟨_, _, h⟩ => h ▸ ⟨_, _, rfl⟩) _ _ ⟨_, _, rfl⟩

/-- An empty control queue of a partition, under `ASID` 0. -/
structure IsControl (q : Queue) (part : Nat) : Prop where
  part : q.part = part
  num : q.num = controlQueue
  prio : q.prio = 7
  asid : q.asid = 0#16
  rd : q.rd = 0
  wr : q.wr = 0
  st : q.st = .idle

theorem createControl_adds (s : State) (p : Nat) : ∃ q, (s.createControl p).queues = s.queues ++ [q] ∧ IsControl q p ∧
    OnlyBytes s.mem (s.createControl p).mem q.recKey 128 := by
  refine ⟨_, rfl, ⟨rfl, rfl, rfl, rfl, rfl, rfl, rfl⟩, fun k hk => memPutList_onlyBytes _ s.mem _ k ?_⟩
  rw [natBytes_length]; exact hk

/-- A package that is not partitioned has one control queue, in place of those there were. -/
theorem createControls_adds {s : State} (h : s.split = false) : ∃ q, s.createControls.queues =
    (s.queues.filter fun z => z.num != controlQueue) ++ [q] ∧ IsControl q 0 ∧ OnlyBytes s.mem s.createControls.mem q.recKey 128 := by
  have hp : (List.range 4).filter s.partExists = [0] := by simp [State.partExists, h, List.range_succ]
  have he : s.createControls = State.createControl { s with queues := s.queues.filter fun q => q.num != controlQueue } 0 := by
    rw [State.createControls, hp]; rfl
  rw [he]
  exact createControl_adds { s with queues := s.queues.filter fun q => q.num != controlQueue } 0

/-! ### The boot (R387, R388) -/

section
variable {s : State}

theorem boot_kept (hp : s.boot.pending = false) (hw : s.boot.power = true) (ht : s.boot.thermal = false) : exec .boot s = .next s := by
  show execBoot s = _
  simp [execBoot, hp, hw, ht]

theorem reportKept_of_none (h : s.boot.kept = []) : s.reportKept = s := by
  unfold State.reportKept
  simp only [h, List.foldl_nil, List.filter_nil, List.append_nil]
  rw [← h]

/-- The firmware cores as the boot starts them, once the device identity key is derived (R387 to R389). -/
def State.started (s : State) (img : Option FwImage) : State :=
  State.modAll { s with boot := { s.boot with idKey := some (Config.deriveIdentity Config.fusedSecret) } } fun c => if c.fw then c.booted img else c

/-- What a boot comes to with the slot that is chosen, if one is. -/
def State.bootFrom (s : State) (slot : Option Bool) : Out :=
  match slot with
  | some k => .next (State.createControls
      { s.started (s.boot.slotImg k) with
        fwslot := .ofNat 64 (flag k 0 + s.boot.bootSeq k * 2 ^ 32)
        boot := { (s.started (s.boot.slotImg k)).boot with pending := false, recovery := false } })
  | none => .next { s.started none with fwslot := 0#64, boot := { (s.started none).boot with pending := false, recovery := true } }

variable (hp : s.boot.pending = true) (hw : s.boot.power = true) (ht : s.boot.thermal = false) (hk : s.boot.kept = []) (hf : s.core.fw = true)
include hp hw ht hk

/-- A boot starts the image of the slot that is chosen, and the monitor creates the control queues; without a slot that verifies the package
enters recovery. -/
theorem exec_boot (slot : Option Bool) (hc : s.boot.chosen = slot) : exec .boot s = s.bootFrom slot := by
  show execBoot s = _
  unfold execBoot; extract_lets p pb t u ub v chosen img w
  have htt : t = s := if_neg (by rw [hw, ht]; decide)
  have hu : u = s := (congrArg State.reportKept htt).trans (reportKept_of_none hk)
  have hcv : chosen = slot := by unfold chosen v ub; rw [hu]; exact hc
  have himg : img = slot.bind s.boot.slotImg := by unfold img v ub; rw [hcv, hu]; rfl
  have hwv : w = s.started (slot.bind s.boot.slotImg) := by unfold w v ub; rw [himg, hu]; rfl
  rw [htt, if_neg (by rw [hp]; decide)]
  clear_value chosen w
  subst hcv hwv
  cases chosen <;> rfl

include hf

theorem boot_starts {k : Bool} {i : FwImage} (hc : s.boot.chosen = some k) (hi : s.boot.slotImg k = some i) : Completes .boot s fun t =>
    (s.split = false → ∃ q, t.queues = (s.queues.filter fun z => z.num != controlQueue) ++ [q] ∧ IsControl q 0 ∧
      OnlyBytes s.mem t.mem q.recKey 128) ∧
    t.fwslot = .ofNat 64 ((if k then 1 else 0) + s.boot.bootSeq k * 2 ^ 32) ∧
    t.boot = { s.boot with pending := false, recovery := false, idKey := t.boot.idKey } ∧ t.boot.idKey ≠ none ∧
    t.core.stopped = false ∧ t.core.regs = s.core.regs ∧
    ∀ w < 4096, cget 0 t.core.imem w = Config.bodyWord s.core.die (i.body.take (bits i.hdr.toNat 64 32)) w := by
  refine ⟨_, exec_boot hp hw ht hk _ hc, fun hs => createControls_adds hs, ?_⟩
  have hcore : (s.started (s.boot.slotImg k)).core = s.core.booted (some i) := by rw [hi]; exact if_pos hf
  obtain ⟨q, m, h⟩ := createControls_eq { s.started (s.boot.slotImg k) with
      fwslot := .ofNat 64 (flag k 0 + s.boot.bootSeq k * 2 ^ 32)
      boot := { (s.started (s.boot.slotImg k)).boot with pending := false, recovery := false } }
  rw [h]
  refine ⟨rfl, rfl, nofun, ?_⟩
  rw [hcore]
  exact ⟨booted_stopped .., booted_regs .., fun w hlt => by rw [booted_imem]; exact bootImem_word _ _ hlt⟩

theorem boot_recovers (hc : s.boot.chosen = none) : Completes .boot s fun t => t.mem = s.mem ∧ t.fwslot = 0#64 ∧ t.core.stopped = true ∧
    t.boot = { s.boot with pending := false, recovery := true, idKey := t.boot.idKey } := by
  refine ⟨_, exec_boot hp hw ht hk _ hc, rfl, rfl, ?_, rfl⟩
  show (if s.core.fw then s.core.booted none else s.core).stopped = true
  rw [if_pos hf]; exact booted_stopped ..

end

end Sys2Proof.Machine
end


section
/-! Updates, keys and management messages (R385, R386, R388 to R391): each changes its own part of the boot state. -/

namespace Sys2Proof.Machine

/-! ### Updates (R386, R388) -/

/-- An event begins an update of a slot, unless one is in progress. -/
def BeginsUpdate (s : State) (img : FwImage) (i : Instr) (slot : Bool) : Prop :=
  (s.boot.update ≠ none → exec i s = .next s) ∧
  (s.boot.update = none → exec i s = .next { s with boot := { s.boot with update := some ⟨img, slot, .write⟩ } })

/-- An event begins an update of slot A with an image that verifies, and does nothing with another. -/
def Recovers (s : State) (img : FwImage) (i : Instr) : Prop :=
  (fwVerified s.boot.svn img = false → exec i s = .next s) ∧ (fwVerified s.boot.svn img = true → BeginsUpdate s img i false)

section
variable {s : State} {img : FwImage} {i : Instr}

theorem beginsUpdate_of_exec {slot : Bool} (h : exec i s = .next (s.beginUpdate img slot)) : BeginsUpdate s img i slot := by
  refine ⟨fun hu => h.trans ?_, fun hu => h.trans ?_⟩
  · rw [State.beginUpdate, if_pos (Option.isSome_iff_ne_none.2 hu)]
  · rw [State.beginUpdate, if_neg (by rw [hu]; decide)]
theorem recovers_of_exec (h : exec i s = .next (s.recoverFlash img)) : Recovers s img i := by
  refine ⟨fun hv => h.trans ?_, fun hv => beginsUpdate_of_exec (h.trans ?_)⟩
  · rw [State.recoverFlash, if_neg (by rw [hv]; decide)]
  · rw [State.recoverFlash, if_pos hv]

theorem booted_iff (s : State) : s.booted = true ↔
    s.boot.pending = false ∧ s.boot.recovery = false ∧ s.boot.power = true ∧ s.boot.thermal = false := by
  simp [State.booted, and_assoc]

theorem firmwareUpdate_begins (h : s.booted = true) : BeginsUpdate s img (.firmwareUpdate img) (!s.fwslot.getLsbD 0) :=
  beginsUpdate_of_exec (congrArg Host.Outcome.next (if_pos h))
theorem pldmFirmwareUpdate_begins (h : s.booted = true) : BeginsUpdate s img (.pldmFirmwareUpdate img) (!s.fwslot.getLsbD 0) := by
  obtain ⟨-, hr, -, -⟩ := (booted_iff s).1 h
  exact beginsUpdate_of_exec (congrArg Host.Outcome.next ((if_neg (by rw [hr]; decide)).trans (if_pos h)))
theorem recoveryUpdate_recovers (h : s.boot.recovery = true) : Recovers s img (.recoveryUpdate img) :=
  recovers_of_exec (congrArg Host.Outcome.next (if_pos h))
theorem pldmFirmwareUpdate_recovers (h : s.boot.recovery = true) : Recovers s img (.pldmFirmwareUpdate img) :=
  recovers_of_exec (congrArg Host.Outcome.next (if_pos h))
theorem firmwareUpdate_kept (h : s.boot.recovery = true) : exec (.firmwareUpdate img) s = .next s :=
  congrArg Host.Outcome.next (if_neg (by simp [State.booted, h]))
theorem recoveryUpdate_kept (h : s.boot.recovery = false) : exec (.recoveryUpdate img) s = .next s :=
  congrArg Host.Outcome.next (if_neg (by rw [h]; decide))

/-! ### The minimum security version (R385) -/

/-- The security version of the image that was booted. -/
def State.bootedSvn (s : State) : Nat :=
  ((if s.fwslot.getLsbD 0 then s.boot.slotB else s.boot.slotA).map fun i => bits i.hdr.toNat 96 32).getD 0

theorem mayRaise_iff (s : State) (svn : BitVec 32) : s.mayRaise svn = true ↔
    s.booted = true ∧ s.boot.svn.toNat < svn.toNat ∧ svn.toNat ≤ s.bootedSvn := by
  simp only [State.mayRaise, Bool.and_eq_true, decide_eq_true_eq, and_assoc]; rfl

theorem svnRaise_raises {svn : BitVec 32} (ha : s.core.inMonitor = true ∧ s.core.exc.cause = 0xC#8) (hm : s.mayRaise svn = true) :
    exec (.svnRaise svn) s = .next { s with boot := { s.boot with svn := svn } } :=
  congrArg Host.Outcome.next ((if_pos ha).trans (if_pos hm))
theorem svnRaise_kept {svn : BitVec 32} (h : s.mayRaise svn = false ∨ ¬ (s.core.inMonitor = true ∧ s.core.exc.cause = 0xC#8)) :
    exec (.svnRaise svn) s = .next s := by
  refine congrArg Host.Outcome.next ?_
  split
  · next ha =>
    have hm : s.mayRaise svn = false := h.resolve_right fun hn => hn ha
    rw [State.raiseSvn, if_neg (by rw [hm]; decide)]
  · rfl

/-! ### Keys (R368, R389) -/

theorem keyLoad_locked {key : List Byte} (h : s.keyctl.getLsbD 0 = true) : exec (.keyLoad key) s = .next s :=
  congrArg Host.Outcome.next (if_pos h)
theorem keyLoad_loads {key : List Byte} (h : s.keyctl.getLsbD 0 = false) : Completes (.keyLoad key) s fun t => { t with boot := s.boot } = s ∧
    ∀ k, (t.boot.keys.find? fun z => z.1 == k) =
      if k = bits s.keyctl.toNat 8 8 then some (k, key) else s.boot.keys.find? fun z => z.1 == k := by
  refine ⟨_, congrArg Host.Outcome.next (if_neg (by rw [h]; decide)), rfl, fun k => ?_⟩
  show List.find? _ ((bits s.keyctl.toNat 8 8, key) :: s.boot.keys.filter fun p => p.1 != bits s.keyctl.toNat 8 8) = _
  rw [List.find?_cons, List.find?_filter]
  by_cases hk : k = bits s.keyctl.toNat 8 8
  · simp [hk]
  · rw [if_neg hk, show (bits s.keyctl.toNat 8 8 == k) = false by simpa using fun e : _ = k => hk e.symm]
    refine congrArg (List.find? · s.boot.keys) (funext fun z => ?_)
    by_cases hz : z.1 = k
    · simp [hz, hk]
    · simp [hz]

/-! ### Messages (R390, R391) -/

/-- An event answers a message and leaves every core, memory and the flash as they are; the session is as given after it. -/
def Answers (s : State) (i : Instr) (session : Nat) : Prop :=
  Completes i s fun t => { t with boot := s.boot, fresh := s.fresh } = s ∧ SameFlash t.boot s.boot ∧
    (∃ x, x ≠ [] ∧ t.boot.mgmtOut = s.boot.mgmtOut ++ x) ∧ t.boot.session = session

/-- What a message may leave: a count of free values, the session, the algorithms, the keys, and what has been sent. -/
def State.messaged (s : State) (n session : Nat) (algs : List Config.Algorithm) (keys : List (Nat × List Byte)) (x : List (String × List Byte)) :
    State :=
  { s with fresh := n, boot := { s.boot with session := session, algs := algs, keys := keys, mgmtOut := s.boot.mgmtOut ++ x } }

theorem answers_of_exec {n session : Nat} {algs : List Config.Algorithm} {keys : List (Nat × List Byte)} {x : List (String × List Byte)}
    (hx : x ≠ []) (h : exec i s = .next (s.messaged n session algs keys x)) : Answers s i session :=
  ⟨_, h, rfl, ⟨rfl, rfl, rfl, rfl, rfl⟩, ⟨x, hx, rfl⟩, rfl⟩

/-- A message that is answered once. -/
theorem answers_one {what : String} {kind : Nat} {msg : List Byte} (h : exec i s = .next (s.answerTo what kind msg)) :
    Answers s i s.boot.session :=
  answers_of_exec (List.cons_ne_nil (what, Config.answer kind s.fresh msg) []) h

theorem foldl_tell (what : String) (ms : List (List Byte)) : ∀ s : State, ms.foldl (fun s m => s.tell what m) s =
    { s with boot := { s.boot with mgmtOut := s.boot.mgmtOut ++ ms.map fun m => (what, m) } } := by
  induction ms with
  | nil => intro s; simp
  | cons m ms ih => intro s; rw [List.foldl_cons, ih]; simp [State.tell]

/-- The measurements go out one by one, and then a signature (R390). -/
theorem exec_getMeasurements (msg : List Byte) : ∃ sig, exec (.getMeasurements msg) s =
    .next (s.messaged s.fresh s.boot.session s.boot.algs s.boot.keys (s.measurements.map (fun x => ("MEASUREMENT", x)) ++ [sig])) := by
  refine ⟨("MEASUREMENT_SIGNATURE", s.signed (msg ++ s.measurements.flatten)), ?_⟩
  show execGetMeasurements msg s = _
  unfold execGetMeasurements; rw [foldl_tell]
  simp only [State.tell, State.messaged, List.append_assoc]
  rfl

theorem getMeasurements_answers (msg : List Byte) : Answers s (.getMeasurements msg) s.boot.session := by
  obtain ⟨sig, h⟩ := exec_getMeasurements (s := s) msg
  exact answers_of_exec (by simp) h
theorem getMeasurements_signed (msg : List Byte) : Completes (.getMeasurements msg) s fun t =>
    ∃ sig, t.boot.mgmtOut = s.boot.mgmtOut ++ s.measurements.map (fun x => ("MEASUREMENT", x)) ++ [sig] := by
  obtain ⟨sig, h⟩ := exec_getMeasurements (s := s) msg
  exact ⟨_, h, sig, (List.append_assoc ..).symm⟩

theorem negotiateAlgorithms_answers (msg : List Byte) : Answers s (.negotiateAlgorithms msg) s.boot.session :=
  answers_of_exec (List.cons_ne_nil _ []) rfl
/-- Of what is offered only ECDSA P-521 and SHA-512 are negotiated (R390). -/
theorem negotiateAlgorithms_negotiates (msg : List Byte) : Completes (.negotiateAlgorithms msg) s fun t =>
    ∀ x, x ∈ t.boot.algs ↔ (x = .ecdsaP521 ∨ x = .sha512) ∧ Config.offers msg x = true :=
  ⟨_, rfl, fun x => by
    show x ∈ [Config.Algorithm.ecdsaP521, .sha512].filter (Config.offers msg) ↔ _
    simp⟩

/-- FINISH secures the session that is open, and loads a key for it unless LOCK is set. -/
theorem finish_answers (msg : List Byte) : Answers s (.finish msg) (if s.boot.session = 1 then 2 else s.boot.session) := by
  by_cases h : s.boot.session = 1
  · rw [if_pos h]
    have he : exec (.finish msg) s = .next (State.loadKey { s.answerTo "FINISH" 8 msg with
        boot := { (s.answerTo "FINISH" 8 msg).boot with session := 2 } } (Config.answer 9 s.fresh msg)) :=
      congrArg Host.Outcome.next (if_neg fun hn => hn h)
    unfold State.loadKey at he; split at he <;> exact answers_of_exec (List.cons_ne_nil _ []) he
  · rw [if_neg h]
    exact answers_one (congrArg Host.Outcome.next (if_pos h))
theorem pldmPlatformMonitoring_answers (msg : List Byte) : Answers s (.pldmPlatformMonitoring msg) s.boot.session := by
  refine answers_of_exec (n := s.fresh + 1) (algs := s.boot.algs) (keys := s.boot.keys)
    (x := [("PLDM_SENSORS", Config.answer 13 s.fresh msg), ("PLDM_RECORDS", ((s.boot.kept ++ s.logV ++ s.logD).map ErrRec.bytes).flatten)])
    (List.cons_ne_nil _ _) ?_
  show execPldmPlatformMonitoring msg s = _
  simp only [execPldmPlatformMonitoring, State.answerTo, State.tell, State.messaged, List.append_assoc]
  rfl

end

end Sys2Proof.Machine
end

section
/-! The statement on recovery, boot and management (O55). -/

namespace Sys2Proof.Machine

/-- Settles O55, each event by the lemmas on its own part of the state. -/
theorem recoveryBootAndManagement : Obligations.RecoveryBootAndManagement := by
  intro s store bank row addr n data msg img svn up port left mark cut c b r key only flash fresh running other begins recovers
  refine ⟨bankFailMark_kept, bankFailMark_marks, rebuildRow_kept, rebuildRow_moves, scrubRow_outside,
    fun hs hr => ⟨scrubRow_clean hs hr, fun k => scrubRow_fixed hs hr⟩, rfl, ?clock, exec_portDown s port up, ?host, boot_kept,
    fun hp hw ht hk hf => ⟨fun k hc i hi => ?boot, boot_recovers hp hw ht hk hf⟩, fun k => slotOk_of_chosen, slots_of_not_chosen,
    packageReset_fresh s, thermalTrip_fresh s, ?idle, ?noUpdate, fun u hu => ?update, fun hr => ?begins, fun hr => ?recovers,
    recoveryUpdate_kept, ?svn, keyLoad_locked, keyLoad_loads, ?answers, negotiateAlgorithms_negotiates msg, getMeasurements_signed msg⟩
  case clock => exact ⟨fun h => congrArg Host.Outcome.next (if_pos h), fun h => congrArg Host.Outcome.next (if_neg (by rw [h]; decide))⟩
  case host =>
    intro target
    refine ⟨fun h => ?_, fun h => ?_, fun k => hostWrite_writes, fun k => hostRead_sends⟩
    · show execHostWrite addr data s = _
      rw [execHostWrite, show hostTarget addr data.length = none from h]
    · show execHostRead addr n s = _
      rw [execHostRead, show hostTarget addr n = none from h]
  case boot =>
    obtain ⟨t, he, hq, ht⟩ := boot_starts hp hw ht hk hf hc hi
    refine ⟨t, he, fun hs => ?_, ht⟩
    obtain ⟨q, hqs, hctl, hmem⟩ := hq hs
    exact ⟨q, hqs, hctl.part, hctl.num, hctl.prio, hctl.asid, hctl.rd, hctl.wr, hctl.st, hmem⟩
  case idle =>
    obtain ⟨t, he, hfresh, hmem, hflash, hpower, -⟩ := powerLoss_fresh s .idle
    rw [cutAt_idle] at hflash
    exact ⟨t, he, hfresh, hmem, hflash, hpower⟩
  case noUpdate =>
    intro hu
    obtain ⟨t, he, hfresh, hmem, hflash, hpower, -⟩ := powerLoss_fresh s cut
    rw [cutAt_of_no_update cut hu] at hflash
    exact ⟨t, he, hfresh, hmem, hflash, hpower⟩
  case update =>
    refine ⟨fun hs => ?_, fun hs => ?_, fun hs => ?_, flashStep_write s, fun hs i => flashStep_verify s hs, flashStep_mark_normal s,
      flashStep_mark_recovery s⟩
    · obtain ⟨t, he, -, -, hflash, -, hupdate⟩ := powerLoss_fresh s cut
      rw [cutAt_verify cut hu hs] at hflash
      exact ⟨t, he, hflash, hupdate⟩
    · obtain ⟨t, he, hfresh, -, hflash, hpower, -⟩ := powerLoss_fresh s (.image left)
      rw [cutAt_image left hu hs] at hflash
      exact ⟨t, he, hfresh, hpower, hflash⟩
    · obtain ⟨t, he, -, -, hflash, hpower, -⟩ := powerLoss_fresh s (.marker mark)
      rw [cutAt_marker mark hu hs] at hflash
      exact ⟨t, he, hpower, hflash⟩
  case begins => exact ⟨firmwareUpdate_begins ((booted_iff s).2 hr), pldmFirmwareUpdate_begins ((booted_iff s).2 hr)⟩
  case recovers => exact ⟨recoveryUpdate_recovers hr, pldmFirmwareUpdate_recovers hr, firmwareUpdate_kept hr⟩
  case svn =>
    refine ⟨fun ha hr hlt htop => svnRaise_raises ha ((mayRaise_iff s svn).2 ⟨(booted_iff s).2 hr, hlt, htop⟩), fun h => svnRaise_kept ?_⟩
    rw [← Bool.not_eq_true, mayRaise_iff, booted_iff]
    rcases h with h | h | h | h
    · exact .inl fun ⟨_, hlt, _⟩ => absurd hlt (Nat.not_lt.2 h)
    · exact .inl fun ⟨_, _, htop⟩ => absurd htop (Nat.not_le.2 h)
    · exact .inl fun ⟨hr, _⟩ => h hr
    · exact .inr h
  case answers =>
    intro answers
    exact ⟨answers_one rfl, answers_one rfl, negotiateAlgorithms_answers msg, answers_one rfl, answers_one rfl, answers_one rfl,
      getMeasurements_answers msg, answers_of_exec (List.cons_ne_nil _ []) rfl, finish_answers msg, answers_one rfl,
      answers_of_exec (List.cons_ne_nil _ []) rfl, answers_one rfl, pldmPlatformMonitoring_answers msg, answers_of_exec (List.cons_ne_nil _ []) rfl⟩

end Sys2Proof.Machine
end


section
/-! The step and the monitor's words (R382, R430): supervisor firmware that has come to a word of the monitor traps there, whatever its bytes
decode to. -/

namespace Sys2Proof.Machine

section
variable {s : State} (hm : s.core.monitorWord s.core.flow.pc.toNat = true)
include hm

/-- WINSPAN of a monitor word stands before the decoding of the word (R382). -/
theorem judgeBundle_monitorWord (hc : s.core.port.mcheck = none) :
    s.judgeBundle = (s.begin false).onlyFault (faultAt 0 5 (.ofNat 64 s.core.flow.pc.toNat)) := by
  rw [State.judgeBundle, hc]; exact if_pos hm

/-- The turn of a core that is due at a monitor word is that trap. -/
theorem coreTurn_monitorWord (hd : Due s) (start : State) (traps : List (Nat × Option TrapReq)) (f late : List Nat) :
    start.coreTurn ⟨s, traps, f, late⟩ s.core.name =
      ⟨s, traps ++ [(s.core.name, some (faultAt 0 5 (.ofNat 64 s.core.flow.pc.toNat)))], f, late⟩ := by
  obtain ⟨hc, hwait, hissued, hskip, hstall, -⟩ := hd
  unfold State.coreTurn
  simp only [focus_self]
  rw [if_neg (by simp [hwait, hissued]), if_neg (by simp [hskip]), if_neg (by simp [hstall]), judgeBundle_monitorWord hm hc]
  rfl

end

/-- Supervisor firmware of core 0 at word 0, which belongs to the monitor and whose bytes decode to a bundle without operations. -/
def supervisorAtWordZero : State := State.reset.modExc fun e => { e with level := 1#2 }

theorem supervisorAtWordZero_due : Due supervisorAtWordZero := by
  refine ⟨rfl, by decide, rfl, rfl, ?_, rfl⟩
  decide

/-- Refutes O59: the statement has a core that is due commit what its bytes decode to, and supposes nothing of R382. Supervisor firmware whose
program counter is at a word of the monitor is due, and its words decode to a bundle that runs, but its turn is a WINSPAN trap. -/
theorem not_stepRunsDecodedInstruction : ¬ Obligations.StepRunsDecodedInstruction := by
  intro h
  obtain ⟨-, -, -, -, -, -, -, hturn, -⟩ := h supervisorAtWordZero (supervisorAtWordZero.begin false) .boot 0 [] ⟨none, false, 0, [], none⟩
  have hcommits := hturn supervisorAtWordZero_due rfl rfl rfl supervisorAtWordZero [] [] []
  rw [coreTurn_monitorWord (by decide) supervisorAtWordZero_due] at hcommits
  exact List.cons_ne_nil _ _ (congrArg Cycle.traps hcommits)

end Sys2Proof.Machine
end

section
/-! Words as numbers and as bits: what the word operations that the scalar instructions apply (R90 to R97) give. -/

namespace Sys2Proof.Machine

section
variable (x y : Word) (c : Nat)

/-! ### Sums, products and shifts as arithmetic modulo 2^64 (R90, R91) -/

theorem toNat_sub_add_mod : ((x - y).toNat + y.toNat) % 2 ^ 64 = x.toNat := by rw [← BitVec.toNat_add, BitVec.sub_add_cancel]
theorem toNat_shl : (x <<< c).toNat = x.toNat * 2 ^ c % 2 ^ 64 := by rw [BitVec.toNat_shiftLeft, Nat.shiftLeft_eq]
theorem toNat_shr : (x >>> c).toNat = x.toNat / 2 ^ c := by rw [BitVec.toNat_ushiftRight, Nat.shiftRight_eq_div_pow]
theorem toInt_sra : (x.sshiftRight c).toInt = x.toInt / 2 ^ c := by
  rw [BitVec.toInt_sshiftRight, Int.shiftRight_eq_div_pow]; norm_cast
theorem toNat_add_shl : (x + y <<< c).toNat = (x.toNat + y.toNat * 2 ^ c) % 2 ^ 64 := by
  rw [BitVec.toNat_add, toNat_shl, Nat.add_mod_mod]
/-- A rotation by less than the word's length moves bit `i` to bit `i + c` modulo 64. -/
theorem getLsbD_rol {c i : Nat} (hc : c < 64) (hi : i < 64) : (x.rotateLeft c).getLsbD ((i + c) % 64) = x.getLsbD i := by
  rw [BitVec.getLsbD_rotateLeft, Nat.mod_eq_of_lt hc]
  by_cases h : i + c < 64
  · rw [Nat.mod_eq_of_lt h, decide_eq_false (by omega), decide_eq_true h]
    simp
  · rw [Nat.mod_eq_sub_mod (by omega), Nat.mod_eq_of_lt (by omega), decide_eq_true (by omega), cond_true]
    congr 1; omega

/-! ### Sign extension and operands that are signed (R90, R91, R93) -/

/-- The low `n` bits, sign-extended, are read as signed. -/
theorem toInt_signExtend_low {n : Nat} (hn : n ≤ 64) : ((x.setWidth n).signExtend 64).toInt = signed n x.toNat := by
  rw [BitVec.toInt_signExtend_of_le hn, BitVec.toInt_eq_toNat_cond, BitVec.toNat_setWidth]; rfl

theorem mul_emod_emod_right (i j k : Int) : i * (j % k) % k = i * j % k := by
  rw [Int.mul_emod, Int.emod_emod_of_dvd j (Int.dvd_refl k), ← Int.mul_emod]
/-- A word is its signed value modulo 2^64. -/
theorem toNat_eq_toInt_emod : (x.toNat : Int) = x.toInt % 2 ^ 64 := by
  rw [BitVec.toInt_eq_toNat_cond]; split <;> omega

variable {n : Nat} (imm : BitVec n) (hn : n ≤ 64)
include hn

theorem toNat_signExtend_emod : ((imm.signExtend 64).toNat : Int) = imm.toInt % 2 ^ 64 := by
  rw [toNat_eq_toInt_emod, BitVec.toInt_signExtend_of_le hn]
theorem toNat_add_signExtend : ((x + imm.signExtend 64).toNat : Int) = (x.toNat + imm.toInt) % 2 ^ 64 := by
  rw [BitVec.toNat_add, Int.natCast_emod, Int.natCast_add, toNat_signExtend_emod imm hn]
  exact Int.add_emod_emod ..
theorem toNat_mul_signExtend : ((x * imm.signExtend 64).toNat : Int) = (x.toNat * imm.toInt) % 2 ^ 64 := by
  rw [BitVec.toNat_mul, Int.natCast_emod, Int.natCast_mul, toNat_signExtend_emod imm hn]
  exact mul_emod_emod_right x.toNat imm.toInt (2 ^ 64)

end

/-- Above its own bits a sign-extended immediate repeats its sign bit (R93). -/
theorem getLsbD_signExtend_imm (imm : BitVec 17) {i : Nat} (hi : i < 64) :
    (imm.signExtend 64).getLsbD i = if i < 17 then imm.getLsbD i else imm.getLsbD 16 := by
  rw [BitVec.getLsbD_signExtend, decide_eq_true hi, Bool.true_and]; rfl

/-- LIH's parts do not overlap (R97). -/
theorem toNat_shl_or_setWidth (x : Word) (w : BitVec 22) : ((x <<< 22) ||| w.setWidth 64).toNat = (x.toNat * 2 ^ 22 + w.toNat) % 2 ^ 64 := by
  have hw : w.toNat < 2 ^ 22 := w.isLt
  have hor : (x <<< 22) ||| w.setWidth 64 = (x <<< 22) + w.setWidth 64 := by
    rw [BitVec.add_eq_or_of_and_eq_zero]
    ext i hi
    simp only [BitVec.getElem_and, BitVec.getElem_shiftLeft, BitVec.getElem_setWidth, BitVec.getElem_zero]
    by_cases h : i < 22
    · simp [h]
    · simp [BitVec.getLsbD_of_ge w i (by omega)]
  rw [hor, BitVec.toNat_add, toNat_shl, BitVec.toNat_setWidth_of_le (by omega), Nat.mod_add_mod]

end Sys2Proof.Machine
end

section
/-! The extremes, the ring index, the bit counts and the bit fields of scalar words (R91, R92). -/

namespace Sys2Proof.Machine

section
variable (x y : Word)

/-! ### Extremes and the ring index (R91) -/

theorem toInt_min_slt : (if y.slt x then y else x).toInt = min x.toInt y.toInt := by
  simp only [BitVec.slt_iff_toInt_lt]; split <;> omega
theorem toNat_min_ult : (if y.ult x then y else x).toNat = min x.toNat y.toNat := by
  simp only [BitVec.ult_iff_lt, BitVec.lt_def]; split <;> omega
theorem toInt_max_slt : (if x.slt y then y else x).toInt = max x.toInt y.toInt := by
  simp only [BitVec.slt_iff_toInt_lt]; split <;> omega
theorem toNat_max_ult : (if x.ult y then y else x).toNat = max x.toNat y.toNat := by
  simp only [BitVec.ult_iff_lt, BitVec.lt_def]; split <;> omega

theorem toNat_wrap : (if y ≠ 0#64 ∧ y.ule x then x - y else x).toNat =
    if y.toNat ≠ 0 ∧ y.toNat ≤ x.toNat then x.toNat - y.toNat else x.toNat := by
  have hc : (y ≠ 0#64 ∧ y.ule x = true) ↔ y.toNat ≠ 0 ∧ y.toNat ≤ x.toNat := by
    rw [BitVec.ule_iff_le, BitVec.le_def, Ne, ← BitVec.toNat_inj]; rfl
  simp only [hc]
  split
  · next h => exact BitVec.toNat_sub_of_le (BitVec.le_def.2 h.2)
  · rfl

/-! ### Bit counts (R91) -/

variable {x}

theorem toNat_ne_zero (h : x ≠ 0#64) : x.toNat ≠ 0 := fun e => h (BitVec.eq_of_toNat_eq e)
/-- The highest one bit of a word that is not zero. -/
theorem log2_lt_64 (h : x ≠ 0#64) : x.toNat.log2 < 64 := (Nat.log2_lt (toNat_ne_zero h)).2 x.isLt
theorem getLsbD_log2 (h : x ≠ 0#64) : x.getLsbD x.toNat.log2 = true := Nat.testBit_log2 (toNat_ne_zero h)
theorem getLsbD_of_log2_lt {i : Nat} (hi : x.toNat.log2 < i) : x.getLsbD i = false :=
  Nat.testBit_lt_two_pow (Nat.lt_of_lt_of_le Nat.lt_log2_self (Nat.pow_le_pow_right (by decide) hi))

/-- x AND -x keeps the lowest one bit alone: a bit is one there if it is one in x and no lower one is. -/
theorem getLsbD_lowest {i : Nat} (hi : i < 64) :
    (x &&& (0#64 - x)).getLsbD i = true ↔ x.getLsbD i = true ∧ ∀ j < i, x.getLsbD j = false := by
  rw [BitVec.zero_sub, BitVec.getLsbD_and, BitVec.getLsbD_neg, decide_eq_true hi, Bool.true_and]
  cases x.getLsbD i <;> simp
theorem lowest_ne_zero (h : x ≠ 0#64) : x &&& (0#64 - x) ≠ 0#64 := by
  intro he
  have hall : ∀ i, x.getLsbD i = false := by
    intro i
    induction i using Nat.strongRecOn with
    | ind i ih =>
      by_cases hi : i < 64
      · rw [← Bool.not_eq_true]
        intro hx
        have hone := (getLsbD_lowest hi).2 ⟨hx, ih⟩
        rw [he, BitVec.getLsbD_zero] at hone
        exact Bool.noConfusion hone
      · exact BitVec.getLsbD_of_ge x i (by omega)
  exact h (BitVec.eq_of_getLsbD_eq fun i _ => (hall i).trans BitVec.getLsbD_zero.symm)

variable (x)

/-- CLZ's count: bits 63 down to 64 - n are zero, and the next one, if there is one, is one. -/
theorem clzWord_spec : clzWord x ≤ 64 ∧ (clzWord x = 64 ↔ x = 0#64) ∧ (∀ i < 64, 64 ≤ i + clzWord x → x.getLsbD i = false) ∧
    (clzWord x < 64 → x.getLsbD (63 - clzWord x) = true) := by
  by_cases h : x = 0#64
  · simp [clzWord, h]
  · have hlt := log2_lt_64 h
    rw [clzWord, if_neg h]
    refine ⟨by omega, iff_of_false (by omega) h, fun i _ hi => getLsbD_of_log2_lt (by omega), fun _ => ?_⟩
    rw [show 63 - (63 - x.toNat.log2) = x.toNat.log2 by omega]
    exact getLsbD_log2 h

/-- CTZ's count: the bits below n are zero, and bit n, if there is one, is one. -/
theorem ctzWord_spec : ctzWord x ≤ 64 ∧ (ctzWord x = 64 ↔ x = 0#64) ∧ (∀ i < ctzWord x, x.getLsbD i = false) ∧
    (ctzWord x < 64 → x.getLsbD (ctzWord x) = true) := by
  by_cases h : x = 0#64
  · simp [ctzWord, h]
  · have hlow := lowest_ne_zero h
    have hlt := log2_lt_64 hlow
    obtain ⟨hone, hzero⟩ := (getLsbD_lowest hlt).1 (getLsbD_log2 hlow)
    rw [ctzWord, if_neg h]
    exact ⟨by omega, iff_of_false (by omega) h, hzero, fun _ => hone⟩

/-- A count keeps its value in the word that it is posted in. -/
theorem toNat_ofNat_count {n : Nat} (h : n ≤ 64) : (BitVec.ofNat 64 n).toNat = n := by
  rw [BitVec.toNat_ofNat]; omega

/-- The sum of the low bits of a number counts the positions whose bit is one. -/
theorem ones_eq_length_filter (n : Nat) : ∀ v : Nat, ones n v = ((List.range n).filter fun i => v.testBit i).length := by
  induction n with
  | zero => intro v; rfl
  | succ n ih =>
    intro v
    have htail : ((List.range n).map Nat.succ).filter (fun i => v.testBit i) =
        ((List.range n).filter fun i => (v / 2).testBit i).map Nat.succ := by
      rw [List.filter_map]
      congr 2; funext i; exact Nat.testBit_succ v i
    rw [ones, ih, List.range_succ_eq_map, List.filter_cons, htail, Nat.testBit_zero]
    rcases Nat.mod_two_eq_zero_or_one v with h | h <;> simp [h, Nat.add_comm]
theorem ones_le (n v : Nat) : ones n v ≤ n := by
  rw [ones_eq_length_filter]
  exact Nat.le_trans (List.length_filter_le ..) (Nat.le_of_eq List.length_range)

/-! ### Bit fields (R92) -/

variable (z b : Word)

theorem bits_six_seven (v : Nat) : bits v 6 7 = v / 64 % 128 := congrArg (· % 128) (Nat.shiftRight_eq_div_pow v 6)
/-- The length of a field, of which no more than 64 bits count. -/
theorem testBit_fieldMask (i : Nat) : (fieldMask b).testBit i = decide (i < min (b.toNat / 64 % 128) 64) := by
  rw [fieldMask, Nat.testBit_two_pow_sub_one, bits_six_seven]

theorem getLsbD_bext {i : Nat} (hi : i < 64) : (BitVec.ofNat 64 ((x.toNat >>> fieldPos b) &&& fieldMask b)).getLsbD i =
    (decide (i < min (b.toNat / 64 % 128) 64) && x.getLsbD (b.toNat % 64 + i)) := by
  rw [BitVec.getLsbD_ofNat, decide_eq_true hi, Bool.true_and, Nat.testBit_and, testBit_fieldMask, Nat.testBit_shiftRight, Bool.and_comm]
  rfl

theorem getLsbD_bins {i : Nat} (hi : i < 64) :
    let m : Word := .ofNat 64 (fieldMask b <<< fieldPos b)
    ((x &&& ~~~m) ||| ((z <<< fieldPos b) &&& m)).getLsbD i =
      if b.toNat % 64 ≤ i ∧ i < b.toNat % 64 + min (b.toNat / 64 % 128) 64 then z.getLsbD (i - b.toNat % 64) else x.getLsbD i := by
  intro m
  have hm : m.getLsbD i = decide (b.toNat % 64 ≤ i ∧ i < b.toNat % 64 + min (b.toNat / 64 % 128) 64) := by
    rw [BitVec.getLsbD_ofNat, decide_eq_true hi, Bool.true_and, Nat.testBit_shiftLeft, testBit_fieldMask, fieldPos, ← Bool.decide_and]
    exact decide_eq_decide.2 (by omega)
  rw [BitVec.getLsbD_or, BitVec.getLsbD_and, BitVec.getLsbD_and, BitVec.getLsbD_not, hm, BitVec.getLsbD_shiftLeft, decide_eq_true hi, fieldPos]
  split
  · next h => simp [h]
  · next h => simp [h]

end

end Sys2Proof.Machine
end

section
/-! The products and quotients of scalar words (R94). -/

namespace Sys2Proof.Machine

/-! ### Division toward zero -/

section
variable {i j : Int}

/-- The product of quotient and divisor does not exceed the dividend in size. -/
theorem natAbs_tdiv_mul_le : (i.tdiv j * j).natAbs ≤ i.natAbs := by
  rw [Int.natAbs_mul, Int.natAbs_tdiv]; exact Nat.div_mul_le_self ..
theorem natAbs_tmod_lt (hj : j ≠ 0) : (i.tmod j).natAbs < j.natAbs := by
  rw [Int.natAbs_tmod]; exact Nat.mod_lt _ (Int.natAbs_pos.2 hj)
/-- The remainder has the sign of the dividend. -/
theorem tmod_mul_nonneg : 0 ≤ i.tmod j * i := by
  rcases Int.le_total 0 i with h | h
  · exact Int.mul_nonneg (Int.tmod_nonneg j h) h
  · have hneg := Int.tmod_nonneg j (Int.neg_nonneg_of_nonpos h)
    rw [Int.neg_tmod] at hneg
    exact Int.mul_nonneg_of_nonpos_of_nonpos (by omega) h
/-- A quotient is below 2^63 in size where the dividend is at most that and the divisor is not one of 1 and -1. -/
theorem natAbs_tdiv_lt (hi : i.natAbs ≤ 2 ^ 63) (hj : 2 ≤ j.natAbs) : (i.tdiv j).natAbs < 2 ^ 63 := by
  rw [Int.natAbs_tdiv]
  exact Nat.lt_of_le_of_lt (Nat.div_le_div hi hj (by decide)) (by decide)

end

section
variable (x y : Word)

/-! ### Signed words (R90) -/

theorem toInt_bounds : -2 ^ 63 ≤ x.toInt ∧ x.toInt < 2 ^ 63 := ⟨BitVec.le_toInt x, BitVec.toInt_lt⟩
theorem natAbs_toInt_le : x.toInt.natAbs ≤ 2 ^ 63 := by
  have := toInt_bounds x; omega
/-- A number within the signed range is the signed value of its word. -/
theorem toInt_ofInt_of_range {i : Int} (hl : -2 ^ 63 ≤ i) (hu : i < 2 ^ 63) : (BitVec.ofInt 64 i).toInt = i :=
  BitVec.toInt_ofInt_eq_self (by decide) hl hu

/-! ### High halves of products (R94) -/

theorem natAbs_mul_toInt_le : (x.toInt * y.toInt).natAbs ≤ 2 ^ 126 := by
  rw [Int.natAbs_mul]
  exact Nat.le_trans (Nat.mul_le_mul (natAbs_toInt_le x) (natAbs_toInt_le y)) (by decide)
theorem mulhI64_spec : ∃ lo : Nat, lo < 2 ^ 64 ∧
    x.toInt * y.toInt = (BitVec.ofInt 64 (x.toInt * y.toInt / (2 ^ 64 : Nat))).toInt * 2 ^ 64 + lo := by
  have hle := natAbs_mul_toInt_le x y
  rw [toInt_ofInt_of_range (by omega) (by omega)]
  exact ⟨(x.toInt * y.toInt % 2 ^ 64).toNat, by omega, by omega⟩
theorem mulhN64_spec : ∃ lo : Nat, lo < 2 ^ 64 ∧
    x.toNat * y.toNat = (BitVec.ofNat 64 (x.toNat * y.toNat / 2 ^ 64)).toNat * 2 ^ 64 + lo := by
  have hlt : x.toNat * y.toNat < 2 ^ 64 * 2 ^ 64 := Nat.mul_lt_mul'' x.isLt y.isLt
  refine ⟨x.toNat * y.toNat % 2 ^ 64, Nat.mod_lt _ (by decide), ?_⟩
  rw [BitVec.toNat_ofNat, Nat.mod_eq_of_lt (Nat.div_lt_of_lt_mul hlt), Nat.div_add_mod']

/-! ### Quotients and remainders by a divisor that is not zero (R94) -/

variable {y} (hy : y ≠ 0#64)
include hy

theorem toInt_ne_zero : y.toInt ≠ 0 := fun e => hy (BitVec.eq_of_toInt_eq (e.trans BitVec.toInt_zero.symm))

theorem divN64_spec : (x / y).toNat * y.toNat ≤ x.toNat ∧ x.toNat < ((x / y).toNat + 1) * y.toNat := by
  rw [BitVec.toNat_udiv, Nat.mul_comm (_ + 1)]
  exact ⟨Nat.div_mul_le_self .., Nat.lt_mul_div_succ _ (Nat.pos_of_ne_zero (toNat_ne_zero hy))⟩
theorem remN64_spec : (x % y).toNat < y.toNat ∧ ∃ q, x.toNat = y.toNat * q + (x % y).toNat := by
  rw [BitVec.toNat_umod]
  exact ⟨Nat.mod_lt _ (Nat.pos_of_ne_zero (toNat_ne_zero hy)), x.toNat / y.toNat, (Nat.div_add_mod ..).symm⟩

/-- Every signed quotient but -2^63 / -1 is in the signed range. -/
theorem toInt_tdiv (h : ¬ (x.toInt = -2 ^ 63 ∧ y.toInt = -1)) :
    (BitVec.ofInt 64 (x.toInt.tdiv y.toInt)).toInt = x.toInt.tdiv y.toInt := by
  have hx := toInt_bounds x
  have hne := toInt_ne_zero hy
  by_cases h1 : y.toInt = 1
  · rw [h1, Int.tdiv_one]; exact toInt_ofInt_of_range hx.1 hx.2
  · by_cases hm : y.toInt = -1
    · rw [hm, Int.tdiv_neg, Int.tdiv_one]; exact toInt_ofInt_of_range (by omega) (by omega)
    · have hlt := natAbs_tdiv_lt (natAbs_toInt_le x) (j := y.toInt) (by omega)
      exact toInt_ofInt_of_range (by omega) (by omega)
theorem toInt_tmod : (BitVec.ofInt 64 (x.toInt.tmod y.toInt)).toInt = x.toInt.tmod y.toInt := by
  have hlt := natAbs_tmod_lt (i := x.toInt) (toInt_ne_zero hy)
  have hle := natAbs_toInt_le y
  exact toInt_ofInt_of_range (by omega) (by omega)

theorem divI64_spec : let v := (BitVec.ofInt 64 (x.toInt.tdiv y.toInt)).toInt
    if x.toInt = -2 ^ 63 ∧ y.toInt = -1 then v = -2 ^ 63
    else (v * y.toInt).natAbs ≤ x.toInt.natAbs ∧ (x.toInt - v * y.toInt).natAbs < y.toInt.natAbs ∧
      0 ≤ (x.toInt - v * y.toInt) * x.toInt := by
  split
  · next h => rw [h.1, h.2]; decide
  · next h =>
    have hrem : x.toInt - x.toInt.tdiv y.toInt * y.toInt = x.toInt.tmod y.toInt := by rw [Int.tmod_def, Int.mul_comm]
    rw [toInt_tdiv x hy h]; dsimp only; rw [hrem]
    exact ⟨natAbs_tdiv_mul_le, natAbs_tmod_lt (toInt_ne_zero hy), tmod_mul_nonneg⟩
theorem remI64_spec : let v := (BitVec.ofInt 64 (x.toInt.tmod y.toInt)).toInt
    v.natAbs < y.toInt.natAbs ∧ 0 ≤ v * x.toInt ∧ ∃ q, x.toInt = y.toInt * q + v := by
  rw [toInt_tmod x hy]
  exact ⟨natAbs_tmod_lt (toInt_ne_zero hy), tmod_mul_nonneg, x.toInt.tdiv y.toInt, (Int.mul_tdiv_add_tmod ..).symm⟩

end

end Sys2Proof.Machine
end

section
/-! The statements on scalar arithmetic, compares and constants (O1 to O6): each instruction posts what its word operation gives. -/

namespace Sys2Proof.Machine

/-! ### What a scalar instruction posts (R90, R94 to R96) -/

section
variable {s : State} {i : Instr} {lat : Nat} {d : Dst} {v : Word}

/-- An instruction that answers a scalar result gives it. -/
theorem givesScalar_of_exec {P : Word → Prop} (h : exec i s = s.scalar lat d v) (hv : P v) : GivesScalar i s lat d P := ⟨v, h, hv⟩
theorem givesPred_of_exec {p : Small} {b : Bool} {P : Prop} (h : exec i s = .next (s.post 1 (.pred p b))) (hb : b = true ↔ P) :
    GivesPred i s p P := ⟨b, h, hb⟩

/-- A divide by zero posts all ones and sets `FLAGS.DIVZ`; every other divide posts its result (R94). -/
theorem divide_zero : s.divide d 0#64 v = .next ((s.post 20 (.scalar d (BitVec.allOnes 64))).post 20 (.flags flDivz)) := if_pos rfl
theorem divide_ne_zero {y : Word} (hy : y ≠ 0#64) : s.divide d y v = s.scalar 20 d v := if_neg hy

/-- p0 reads 1 (R29). -/
theorem gP_iff (p : Small) : s.gP p = true ↔ p = 0 ∨ s.core.regs.p.get p = true := by simp [State.gP]

end

/-- What a condition says of two words: an equality, or an order of signed or of natural values (R95). -/
def Cond.Says (x y : Word) : Cond → Prop
  | .eq => x = y
  | .ne => x ≠ y
  | .ltI => x.toInt < y.toInt
  | .leI => x.toInt ≤ y.toInt
  | .gtI => y.toInt < x.toInt
  | .geI => y.toInt ≤ x.toInt
  | .ltN => x.toNat < y.toNat
  | .leN => x.toNat ≤ y.toNat
  | .gtN => y.toNat < x.toNat
  | .geN => y.toNat ≤ x.toNat

theorem holds_iff_says (cc : Cond) (x y : Word) : Cond.holds cc x y = true ↔ Cond.Says x y cc := by
  cases cc with
  | eq => exact beq_iff_eq
  | ne => exact bne_iff_ne
  | ltI | gtI => exact BitVec.slt_iff_toInt_lt
  | leI | geI => exact BitVec.sle_iff_toInt_le
  | ltN | gtN => exact BitVec.ult_iff_lt
  | leN | geN => exact BitVec.ule_iff_le

/-! ### The statements -/

/-- Settles O1: each form posts a word operation, whose value the lemmas on words give. -/
theorem scalarSumsShiftsAndMoves : Obligations.ScalarSumsShiftsAndMoves := by
  intro s d a b n p x y c
  have hc : c < 64 := Nat.mod_lt _ (by decide)
  refine ⟨givesScalar_of_exec rfl (BitVec.toNat_add x y), givesScalar_of_exec rfl (toNat_sub_add_mod x y),
    givesScalar_of_exec rfl (toNat_add_shl x y n.toNat), givesScalar_of_exec rfl (toNat_shl x c), givesScalar_of_exec rfl (toNat_shr x c),
    givesScalar_of_exec rfl (toInt_sra x c), givesScalar_of_exec rfl fun i hi => getLsbD_rol x hc hi,
    givesScalar_of_exec rfl fun i _ => BitVec.getLsbD_and, givesScalar_of_exec rfl fun i _ => BitVec.getLsbD_or,
    givesScalar_of_exec rfl fun i _ => BitVec.getLsbD_xor, givesScalar_of_exec rfl fun i hi => ?andn, givesScalar_of_exec rfl rfl,
    givesScalar_of_exec rfl ?sel, givesScalar_of_exec rfl (toInt_signExtend_low x (by decide)),
    givesScalar_of_exec rfl (toInt_signExtend_low x (by decide)), givesScalar_of_exec rfl (toInt_signExtend_low x (by decide))⟩
  case andn => rw [BitVec.getLsbD_and, BitVec.getLsbD_not, decide_eq_true hi, Bool.true_and]
  case sel => simp only [gP_iff]; rfl

/-- Settles O2: the extremes and WRAP choose by a compare, and no count exceeds 64, so that its word holds it. -/
theorem scalarExtremesRingAndCounts : Obligations.ScalarExtremesRingAndCounts := by
  intro s d a b x y
  refine ⟨givesScalar_of_exec rfl (toInt_min_slt x y), givesScalar_of_exec rfl (toNat_min_ult x y), givesScalar_of_exec rfl (toInt_max_slt x y),
    givesScalar_of_exec rfl (toNat_max_ult x y), givesScalar_of_exec rfl ⟨toNat_wrap x y, ?ring⟩, givesScalar_of_exec rfl ?clz,
    givesScalar_of_exec rfl ?ctz, givesScalar_of_exec rfl ?popc⟩
  case ring => intro hlt; rw [toNat_wrap x y]; split <;> omega
  case clz => rw [toNat_ofNat_count (clzWord_spec x).1]; exact clzWord_spec x
  case ctz => rw [toNat_ofNat_count (ctzWord_spec x).1]; exact ctzWord_spec x
  case popc => rw [toNat_ofNat_count (ones_le 64 x.toNat)]; exact ones_eq_length_filter 64 x.toNat

/-- Settles O3, bit by bit. -/
theorem fieldExtractAndInsert : Obligations.FieldExtractAndInsert := by
  intro s d a b c x z pos len
  exact ⟨givesScalar_of_exec rfl fun i hi => getLsbD_bext x (s.gS b) hi, givesScalar_of_exec rfl fun i hi => getLsbD_bins x z (s.gS b) hi⟩

/-- Settles O4: the divisor decides which of the two answers of a divide is given. -/
theorem scalarProductsAndQuotients : Obligations.ScalarProductsAndQuotients := by
  intro s d a b x y
  refine ⟨givesScalar_of_exec rfl (BitVec.toNat_mul x y), givesScalar_of_exec rfl (mulhI64_spec x y), givesScalar_of_exec rfl (mulhN64_spec x y),
    fun hy => ?_, fun hy i hi => ?_⟩
  · exact ⟨givesScalar_of_exec (divide_ne_zero hy) (divN64_spec x hy), givesScalar_of_exec (divide_ne_zero hy) (remN64_spec x hy),
      givesScalar_of_exec (divide_ne_zero hy) (divI64_spec x hy), givesScalar_of_exec (divide_ne_zero hy) (remI64_spec x hy)⟩
  · have hdiv : ∀ v, s.divide d (s.gS b) v = .next ((s.post 20 (.scalar d (BitVec.allOnes 64))).post 20 (.flags flDivz)) := fun v => by
      rw [show s.gS b = 0#64 from hy, divide_zero]
    simp only [List.mem_cons, List.not_mem_nil, or_false] at hi
    rcases hi with rfl | rfl | rfl | rfl <;> exact hdiv _

/-- Settles O5: each compare posts its condition, and the sign-extended immediate is the one word with the immediate's signed value. -/
theorem comparesAndPredicates : Obligations.ComparesAndPredicates := by
  intro s p pa pb a b imm
  refine ⟨?compares, ?predicates⟩
  case compares =>
    intro x orders
    have horders : ∀ (form : Cond → Instr) (y : Word),
        (∀ cc, exec (form cc) s = .next (s.post 1 (.pred p (Cond.holds cc x y)))) → orders form y := fun form y h =>
      have g : ∀ cc, GivesPred (form cc) s p (Cond.Says x y cc) := fun cc => givesPred_of_exec (h cc) (holds_iff_says cc x y)
      ⟨g .eq, g .ne, g .ltI, g .leI, g .gtI, g .geI, g .ltN, g .leN, g .gtN, g .geN⟩
    refine ⟨horders (fun cc => .cmp p cc a b) _ fun _ => rfl, fun y hy => horders (fun cc => .cmpImm p cc a imm) y fun cc => ?_⟩
    have hyimm : imm.signExtend 64 = y := BitVec.eq_of_toInt_eq ((BitVec.toInt_signExtend_of_le (by decide)).trans hy.symm)
    exact hyimm ▸ rfl
  case predicates =>
    intro q
    refine ⟨givesPred_of_exec rfl ?_, givesPred_of_exec rfl ?_, givesPred_of_exec rfl ?_⟩
    · rw [Bool.and_eq_true, gP_iff, gP_iff]
    · rw [Bool.or_eq_true, gP_iff, gP_iff]
    · rw [Bool.not_eq_true', ← Bool.not_eq_true, gP_iff]

/-- Settles O6: the register forms' word operations on the sign-extended immediate or the count. -/
theorem immediateForms : Obligations.ImmediateForms := by
  intro s d a imm n r w x c im
  have him : ∀ i < 64, (imm.signExtend 64).getLsbD i = im i := fun i hi => getLsbD_signExtend_imm imm hi
  refine ⟨givesScalar_of_exec rfl (toNat_add_signExtend x imm (by decide)), givesScalar_of_exec rfl (toNat_mul_signExtend x imm (by decide)),
    givesScalar_of_exec rfl fun i hi => ?_, givesScalar_of_exec rfl fun i hi => ?_, givesScalar_of_exec rfl fun i hi => ?_,
    givesScalar_of_exec rfl (toNat_shl x c), givesScalar_of_exec rfl (toNat_shr x c), givesScalar_of_exec rfl (toInt_sra x c),
    givesScalar_of_exec rfl fun i hi => getLsbD_rol x n.isLt hi, givesScalar_of_exec rfl (BitVec.toInt_signExtend_of_le (by decide)),
    givesScalar_of_exec rfl (toNat_shl_or_setWidth _ w)⟩
  · rw [BitVec.getLsbD_and, him i hi]
  · rw [BitVec.getLsbD_or, him i hi]
  · rw [BitVec.getLsbD_xor, him i hi]

end Sys2Proof.Machine
end

section
/-! Target preparation and refill (R102, R107, R382): the words that a fill brings, and which entries of the target buffer change. -/

namespace Sys2Proof.Machine

section
variable {c : Core}

/-! ### The words of a fill (R102) -/

/-- After writes of what a function gives for their indexes, an index that was written reads what the function gives for it. -/
theorem cget_foldl_cput_some {α : Type} [DecidableEq α] (f : Nat → Nat) (g : Nat → α) (k : Nat) :
    ∀ (l : List Nat) (m : Cells (Option α)), cget none (l.foldl (fun m i => cput none m (f i) (some (g (f i)))) m) k =
      if k ∈ l.map f then some (g k) else cget none m k
  | [], m => by simp
  | i :: l, m => by
    rw [List.foldl_cons, cget_foldl_cput_some f g k l, cget_cput_of_ne (Option.some_ne_none _), List.map_cons]
    by_cases hl : k ∈ l.map f
    · rw [if_pos hl, if_pos (List.mem_cons_of_mem _ hl)]
    · by_cases hk : k = f i
      · simp [hk]
      · rw [if_neg hl, if_neg hk, if_neg (by rw [List.mem_cons]; exact not_or.2 ⟨hk, hl⟩)]

theorem eightWords_get (target : BitVec 12) {j : Nat} (hj : j < 8) : cget none (c.eightWords target) ((target.toNat + j) % 4096) =
    some (cget 0#128 c.imem ((target.toNat + j) % 4096)) := by
  unfold Core.eightWords
  rw [cget_foldl_cput_some (fun i => (target.toNat + i) % 4096) (fun k => cget 0#128 c.imem k), if_pos]
  exact List.mem_map.2 ⟨j, List.mem_range.2 hj, rfl⟩

/-! ### Entries of the target buffer (R102) -/

theorem tb_get_set {α : Type} (v : Vector α 8) (n m : Small) (x : α) : (v.set n x).get m = if m = n then x else v.get m := by
  show (v.set n.val x)[m.val] = _
  rw [Vector.getElem_set]
  by_cases h : n = m
  · rw [if_pos (congrArg Fin.val h), if_pos h.symm]
  · rw [if_neg fun e => h (Fin.ext e), if_neg (Ne.symm h)]; rfl

theorem tb_get_ofFn {α : Type} (f : Small → α) (m : Small) : (Vector.ofFn f).get m = f m := Vector.getElem_ofFn (f := f) m.isLt

/-- An entry that is filled with a target: the link bit, the cycle in which it is ready, and the eight words from the target. -/
def Core.Fills (c : Core) (e : TbEntry) (target : Nat) (lk : Bool) : Prop :=
  e.st = .filling ∧ e.target.toNat = target ∧ e.lk = lk ∧ e.readyAt = c.clock + 4 ∧
    ∀ j < 8, cget none e.words ((target + j) % 4096) = some (cget 0#128 c.imem ((target + j) % 4096))

/-- What a refill leaves of an entry: an empty one as it was, any other filled with its own target and link bit. -/
def Core.Refills (c : Core) (e e' : TbEntry) : Prop :=
  if e.st = .empty then e' = e else
    e'.st = .filling ∧ e'.target = e.target ∧ e'.lk = e.lk ∧ e'.readyAt = c.clock + 4 ∧
      ∀ j < 8, cget none e'.words ((e.target.toNat + j) % 4096) = some (cget 0#128 c.imem ((e.target.toNat + j) % 4096))

theorem fills_eightWords (target : BitVec 12) (lk : Bool) :
    c.Fills ⟨.filling, target, lk, c.clock + 4, c.eightWords target⟩ target.toNat lk :=
  ⟨rfl, rfl, rfl, rfl, fun _ hj => by dsimp only; exact eightWords_get target hj⟩

theorem refills_eightWords (e : TbEntry) :
    c.Refills e (if e.st = .empty then e else ⟨.filling, e.target, e.lk, c.clock + 4, c.eightWords e.target⟩) := by
  unfold Core.Refills
  split
  · rfl
  · exact ⟨rfl, rfl, rfl, rfl, fun _ hj => by dsimp only; exact eightWords_get _ hj⟩

theorem monitorWord_iff (n : Nat) : c.monitorWord n = true ↔ c.fw = true ∧ c.exc.level = 1#2 ∧ n < 2048 := by
  simp [Core.monitorWord, Core.guarded, and_assoc]

end

/-! ### PTB (R102, R382) -/

section
variable {s : State} {i : Instr} {tb : Small} {lk : Bool} {target : Int}

theorem prepare_outside (h : target < 0 ∨ 4095 < target) : s.prepare tb lk target = s.illop := if_pos h

variable {n : Nat} (hn : n < 4096)
include hn

theorem prepare_of_lt : s.prepare tb lk n =
    if s.core.monitorWord n then s.trap 5 (.ofNat 64 n) else .next (s.modCore fun c => c.fillTb tb (.ofInt 12 n) lk) :=
  if_neg (by omega)

/-- A word of the monitor is WINSPAN for supervisor firmware. -/
theorem traps_prepare (he : exec i s = s.prepare tb lk n) (hm : s.core.fw = true ∧ s.core.exc.level = 1#2 ∧ n < 2048) :
    Traps i s 5 (.ofNat 64 n) := by
  rw [Traps, he, prepare_of_lt hn, if_pos ((monitorWord_iff n).2 hm)]; rfl

/-- Any other word of instruction memory starts the fill of the entry, and of no other. -/
theorem completes_prepare (he : exec i s = s.prepare tb lk n) (hm : ¬ (s.core.fw = true ∧ s.core.exc.level = 1#2 ∧ n < 2048)) :
    Completes i s fun t => OnlyFlow s t ∧ t.core.flow = { s.core.flow with tb := t.core.flow.tb } ∧
      (∀ m, m ≠ tb → t.core.flow.tb.get m = s.core.flow.tb.get m) ∧ s.core.Fills (t.core.flow.tb.get tb) n lk := by
  have htarget : (BitVec.ofInt 12 n).toNat = n := by rw [BitVec.ofInt_natCast, BitVec.toNat_ofNat, Nat.mod_eq_of_lt hn]
  refine ⟨_, he.trans ((prepare_of_lt hn).trans (if_neg (by rwa [monitorWord_iff]))), rfl, rfl, fun m hne => ?_, ?_⟩
  · exact (tb_get_set ..).trans (if_neg hne)
  · have hset : ((s.modCore fun c => c.fillTb tb (.ofInt 12 n) lk).core.flow.tb.get tb) =
        ⟨.filling, .ofInt 12 n, lk, s.core.clock + 4, s.core.eightWords (.ofInt 12 n)⟩ := (tb_get_set ..).trans (if_pos rfl)
    rw [hset]
    simpa only [htarget] using fills_eightWords (c := s.core) (.ofInt 12 n) lk

end

/-! ### Fills that end, and ISYNC (R102, R107) -/

section
variable {s : State}

theorem completes_tbReady {tb : Small} (hst : (s.core.flow.tb.get tb).st = .filling) (hr : (s.core.flow.tb.get tb).readyAt ≤ s.core.clock) :
    Completes (.tbReady tb) s fun t => OnlyFlow s t ∧ t.core.flow = { s.core.flow with tb := t.core.flow.tb } ∧
      ∀ m, t.core.flow.tb.get m = if m = tb then { s.core.flow.tb.get tb with st := .ready } else s.core.flow.tb.get m :=
  ⟨s.modFlow fun f => { f with tb := f.tb.set tb { f.tb.get tb with st := .ready } },
    congrArg (fun f => Host.Outcome.next (s.modFlow fun _ => f)) (if_pos ⟨hst, hr⟩), rfl, rfl, fun m => tb_get_set ..⟩

theorem completes_isync : Completes .isync s fun t => OnlyFlow s t ∧ t.core.flow = { s.core.flow with tb := t.core.flow.tb, prefetch := [] } ∧
    ∀ m, s.core.Refills (s.core.flow.tb.get m) (t.core.flow.tb.get m) := by
  refine ⟨_, rfl, rfl, rfl, fun m => ?_⟩
  rw [modCore_core, tb_get_ofFn]
  exact refills_eightWords _

end

/-- Settles O10: PTB and its register form are one preparation, of a word computed or read. -/
theorem targetPreparationAndRefill : Obligations.TargetPreparationAndRefill := by
  intro s tb lk off a c fills rel monitors
  refine ⟨fun n hn hrel => ?_, fun hout => ?_, fun hn => ?_, fun hout => ?_, completes_tbReady, completes_isync⟩
  · have he : exec (.ptb tb lk off) s = s.prepare tb lk n := by rw [← hrel]; rfl
    exact ⟨completes_prepare hn he, traps_prepare hn he⟩
  · exact prepare_outside hout
  · refine ⟨completes_prepare hn rfl, fun hm => ?_⟩
    have htrap := traps_prepare (i := .ptbReg tb lk a) hn rfl hm
    rwa [BitVec.ofNat_toNat, BitVec.setWidth_eq] at htrap
  · exact prepare_outside (by omega)

end Sys2Proof.Machine
end

section
/-! The request of a scalar store while its gang is held (R99, R312): the store waits, in whichever window it lies. -/

namespace Sys2Proof.Machine

section
variable {s : State} {b a : Src} {sz : BitVec 2} {off : BitVec 15} {w : Win} {o : Nat}

/-- An access to a scheduled window needs no translation (R100). -/
theorem checkKey_scheduled (hw : w.scheduled = true) (write atomic : Bool) : s.checkKey w o write atomic = .ok (s.keyOf s.core w o) := by
  cases w with
  | global | chip => cases hw
  | shared | spad | lane => rfl

/-- A store of a gang that is held waits, also one to a scheduled window. -/
theorem st_waits_of_held (ha : s.storeAddr a sz off % szBytes sz = 0) (hx : s.window s.core (s.storeAddr a sz off) (szBytes sz) = some (w, o))
    (hw : w.scheduled = true) (hh : s.heldHost [(s.keyOf s.core w o, szBytes sz)] = true) :
    exec (.st b a sz off) s = .next (s.wait .provisional) := by
  show s.storeScalar b a sz off false = _
  unfold State.storeScalar State.checkWin; extract_lets n addr
  rw [if_neg (fun hne => hne ha), hx]
  show s.checked (s.checkKey w o true false) _ = _
  rw [checkKey_scheduled hw]
  exact if_pos hh

end

/-- A provisional gang of one core, held for its shape (R312), whose register 1 holds the base of the core's scratchpad. -/
def heldAtScratchpad : State :=
  let inst : Inst := ⟨0, .held, [(0, 0, 0)], true, [], [], none, [0], false⟩
  let launch : Launch := {
    slot := 0, gen := 0, part := 0, asid := 0#16, qnum := 0, pkt := 0, parent := none, image := 0, floor := 0, ceil := 0, src := 0, pred := true,
    site := 0, evt := false, sig := 0#64, done := 0#64, pbo := 0#64, pexp := 0, shape := none, low := false, tail := false, err := false,
    fin := false, clock := 0, top := 0, since := 0, paused := 0, preset := false, urgent := none, insts := [inst] }
  let core := State.reset.core
  { State.reset with
    core := { core with prov := true, launch := some (0, 0), regs := { core.regs with g := core.regs.g.set 1 (.ofNat 64 Win.spad.base) } }
    launches := [launch] }

/-- Refutes O18: the statement has every store to a scheduled window make its request at issue, and supposes nothing of R312. A gang that is
held for its shape freezes until the shape arrives, so that its store to the scratchpad waits and makes no request. -/
theorem not_storeRequests : ¬ Obligations.StoreRequests := by
  intro h
  have hwindow : heldAtScratchpad.window heldAtScratchpad.core (heldAtScratchpad.storeAddr (.reg 1) 0#2 0#15) (szBytes 0#2) = some (.spad, 0) := by
    decide +kernel
  have hwaits : exec (.st (.reg 2) (.reg 1) 0#2 0#15) heldAtScratchpad = .next (heldAtScratchpad.wait .provisional) :=
    st_waits_of_held (Nat.mod_one _) hwindow rfl (by decide +kernel)
  obtain ⟨-, ⟨-, -, hst⟩, -⟩ := h heldAtScratchpad (.reg 2) (.reg 1) 0#2 0#15
  obtain ⟨-, hscheduled, -⟩ := hst (Nat.mod_one _) .spad 0 hwindow
  obtain ⟨p, -, -, hrequest⟩ := hscheduled rfl rfl
  obtain ⟨t, ht, -, hport⟩ := hrequest rfl
  obtain rfl : heldAtScratchpad.wait .provisional = t := Host.Outcome.next.inj (hwaits.symm.trans ht)
  exact List.cons_ne_nil _ _ (List.self_eq_append_right.1 (congrArg Port.sched hport))

end Sys2Proof.Machine
end
